-- ==== Sys2Proof/Word.lean ====
section
/-!
DEFINITION. The words of the K16 model: bytes, 32-cell rows, site and region-row numbers, and the two
plain data types a command may carry (what a wire delivered, the fuse cells of one row).
-/
namespace Sys2Proof

/-- One byte of the control link or of a die port. -/
abbrev Byte := BitVec 8

/-- The 32 cells of one region row, cell 0 the least significant bit (00_scope.md, Conventions). -/
abbrev Row := BitVec 32

/-- A site number, 0 to 15. -/
abbrev SiteNo := Fin 16

/-- A region row of the identity region, 0 to 19 (R1). -/
abbrev RegionRow := Fin 20

/-- A site set: one bit per site, bit s for site s (R175). -/
abbrev SiteSet := BitVec 16

/-- The sixteen sites in ascending order. -/
def allSites : List SiteNo := [0, 1, 2, 3, 4, 5, 6, 7, 8, 9, 10, 11, 12, 13, 14, 15]

/-- The fuse cells of one region row of a die (R78): the fully blown cells and the weakly blown cells.
Every other cell is unblown. -/
structure DieRow where
  full : Row
  weak : Row
  deriving DecidableEq, Repr

/-- The fuse cells of a whole identity region (R1). -/
abbrev DieCells := Vector DieRow 20

/-- What a die-port wire delivered at its far end: the bytes as they were driven, or other bytes. -/
inductive Wire where
  | clean
  | bytes (bs : List Byte)
  deriving DecidableEq, Repr

end Sys2Proof
end

