-- ==== Sys2Proof/Syntax.lean ====
section
/-!
DEFINITION. The commands of the K16: one constructor per row of spec/opcode_table.json, in the table's order.
The table gives no row an operand; the operands here are what the event itself carries from outside
(log entry 6). A request carries none: it is the frame at the front of the intake queue (R164).
-/
namespace Sys2Proof

inductive Instr where
  /-- CONTROL_LINK_BYTE_RECEIVED (R161): the byte, and whether its stop bit read high (R158). -/
  | controlLinkByteReceived (b : Byte) (stopHigh : Bool)
  /-- GAP_TIMER_EXPIRY (R161). -/
  | gapTimerExpiry
  /-- FRAME_LAST_BYTE_SENT (R164). -/
  | frameLastByteSent
  /-- HELD_STATUS_REPLY (R167). -/
  | heldStatusReply
  /-- BAD_REQUEST (R167). -/
  | badRequest
  /-- IDENTIFY (R168). -/
  | identify
  /-- STATUS (R169). -/
  | status
  /-- CONFIGURE (R170). -/
  | configure
  /-- SET_ENABLES (R152). -/
  | setEnables
  /-- TOUCHDOWN (R124). -/
  | touchdown
  /-- LIFTOFF (R126). -/
  | liftoff
  /-- RESET_UNIT (R174). -/
  | resetUnit
  /-- LOAD_KEYS (R24). -/
  | loadKeys
  /-- DISCARD_KEYS (R32). -/
  | discardKeys
  /-- PROVISION (R46). -/
  | provision
  /-- CANCEL (R60). -/
  | cancel
  /-- READ_RECORDS (R141). -/
  | readRecords
  /-- CLEAR_RECORDS (R142). -/
  | clearRecords
  /-- READ_EVENTS (R155). -/
  | readEvents
  /-- POWER_ON (R174). -/
  | powerOn
  /-- RESET_LINE_ASSERTED (R174). -/
  | resetLineAsserted
  /-- RESET_RELEASED (R174). -/
  | resetReleased
  /-- CONTACT_SENSED (R42). -/
  | contactSensed (i : SiteNo)
  /-- CONTACT_DROPPED (R44). -/
  | contactDropped (i : SiteNo)
  /-- DEBOUNCE_EXPIRY (R42). -/
  | debounceExpiry (i : SiteNo)
  /-- SEAT_TIMEOUT_EXPIRY (R43). -/
  | seatTimeoutExpiry (i : SiteNo)
  /-- DIE_SUPPLY_ASSERTED (R148). -/
  | dieSupplyAsserted (i : SiteNo)
  /-- DIE_SUPPLY_DEASSERTED (R148). -/
  | dieSupplyDeasserted (i : SiteNo)
  /-- PUMP_FAULT_ASSERTED (R117). -/
  | pumpFaultAsserted
  /-- PUMP_FAULT_DEASSERTED (R117). -/
  | pumpFaultDeasserted
  /-- PUMP_HOLD_EXPIRY (R119). -/
  | pumpHoldExpiry
  /-- DIE_RESPONSE_COMPLETE (R66): what DDI delivered, and the µs left on the site's open timer. -/
  | dieResponseComplete (i : SiteNo) (ddi : Wire) (openLeft : Nat)
  /-- DIE_RESPONSE_DEADLINE_EXPIRY (R66): the µs left on the site's open timer. -/
  | dieResponseDeadlineExpiry (i : SiteNo) (openLeft : Nat)
  /-- SETTLE_TIMER_EXPIRY (R87). -/
  | settleTimerExpiry (i : SiteNo)
  /-- OPEN_TIMER_EXPIRY (R95). -/
  | openTimerExpiry (i : SiteNo)
  /-- REST_TIMER_EXPIRY (R96). -/
  | restTimerExpiry (i : SiteNo)
  /-- DIE_POWER_ON (R74): the fuse cells when another die has come under the site's probes. -/
  | diePowerOn (i : SiteNo) (cells : Option DieCells)
  /-- RESET of the die at a site (R76). -/
  | reset (i : SiteNo)
  /-- CLOSE_ALL at a site (R76). -/
  | closeAll (i : SiteNo)
  /-- ENTER_PROVISIONING at a site (R77). -/
  | enterProvisioning (i : SiteNo)
  /-- SENSE at a site (R78). -/
  | sense (i : SiteNo)
  /-- OPEN_ROW at a site (R79). -/
  | openRow (i : SiteNo)
  /-- PULSE at a site (R80): the driven cells this pulse leaves fully blown, and weakly blown (R78). -/
  | pulse (i : SiteNo) (toFull toWeak : Row)
  /-- CLOSE_ROW at a site (R79). -/
  | closeRow (i : SiteNo)
  /-- RELOAD at a site (R81). -/
  | reload (i : SiteNo)
  /-- READ_SHADOW at a site (R82). -/
  | readShadow (i : SiteNo)
  /-- COMMAND_FRAME_SENT (R66): what DDO delivered to the die. -/
  | commandFrameSent (i : SiteNo) (ddo : Wire)
  deriving DecidableEq, Repr

end Sys2Proof
end

