-- ==== Sys2Proof/Decode.lean ====
section
/-!
DEFINITION. The command that a table word spells. No row of spec/opcode_table.json has bits: the K16's
commands are events and framed requests, so no word spells one. The frames of the control link are read by
the Link Interface (Machine/Link.lean) and the Dispatcher (Machine/Requests.lean), and the frames of the
die ports by the dies (Machine/Die.lean).
-/
namespace Sys2Proof

/-- The command a word of the opcode table spells: none, since no row gives bits. -/
def decodeTableWord (_nbits _w : Nat) : Option Instr := none

end Sys2Proof
end

