-- ==== Sys2Proof/Config.lean ====
section
/-!
DEFINITION. What the K16's specification fixes for every unit: its capacities (R168) and the fixed times the
rules name. The parameters that CONFIGURE writes are state (Machine/State.lean). No value of this model is
left to an opaque constant: what the spec leaves open enters as an operand of a command (log entries 8, 9).
-/
namespace Sys2Proof.Config

/-- Key slots of the Key Store (R18, R168). -/
abbrev keySlots : Nat := 1024
/-- Slots of the Issue Log (R135, R168). -/
abbrev logSlots : Nat := 256
/-- Jobs a site's queue holds (R46, R168). -/
abbrev queueDepth : Nat := 2
/-- Largest request payload (R162, R168). -/
abbrev requestLimit : Nat := 600
/-- Largest reply payload (R168). -/
abbrev replyLimit : Nat := 2048
/-- Intake slots of the Link Interface (R164). -/
abbrev intakeSlots : Nat := 4
/-- The gap timer, in ms (R161). -/
abbrev gapTime : Nat := 1
/-- The settle time after OPEN ROW, in µs (R87). -/
abbrev settleTime : Nat := 10
/-- The rest time after CLOSE ROW, in µs (R95). -/
abbrev restTime : Nat := 50
/-- Vendor code, part code and revision (R168). -/
abbrev vendorCode : BitVec 16 := 0x0A3E
abbrev partCode : BitVec 16 := 0x0B16
abbrev revision : Byte := 1

end Sys2Proof.Config
end

