-- ==== Sys2Proof/Machine/State.lean ====
section
/-!
DEFINITION. The state of the K16 and of the dies under its probes, as plain data, block by block, and the
state after reset. Each structure's docstring names the rule that gives its content.
-/
namespace Sys2Proof.Machine

/-! ### Identity image and row code (R2 to R12) -/

/-- The relocation map E0, E1, E2 (R11): 0 unused, 1 to 16 image row + 1, 31 void. -/
abbrev RelocMap := Vector (BitVec 5) 3

/-- The identity image of a job and its 16 row words (R2). -/
structure Image where
  bytes : List Byte
  words : List Row
  deriving DecidableEq, Repr

/-! ### Key Store (R18 to R37) -/

/-- A key: its 32-bit index and its 32 bytes. -/
structure Key where
  index : BitVec 32
  bytes : List Byte
  deriving DecidableEq, Repr

/-- The Key Store's collections (R18 to R21) and the POOL_LOW condition (R33). The free queue and the wait list
stand front first. -/
structure KeyStore where
  free : List Key
  bound : Vector (Option Key) 16
  highWater : BitVec 32
  waitList : List SiteNo
  poolLow : Bool
  deriving DecidableEq, Repr

/-! ### Die port (R64 to R73) -/

/-- The margin of a SENSE (R65). -/
inductive Margin where
  | normal
  | high
  deriving DecidableEq, Repr

/-- The die commands the K16 sends (R65). -/
inductive DieCmd where
  | reset
  | closeAll
  | enterProvisioning (width : BitVec 16)
  | sense (row : RegionRow) (margin : Margin)
  | openRow (row : RegionRow)
  | pulse (mask : Row)
  | closeRow (row : RegionRow)
  | reload
  | readShadow (word : Fin 12)
  deriving DecidableEq, Repr

/-- The exchange in progress at a port (R66). `deadline` is the value read when the attempt started (R68), in µs.
`timer` runs from the end of the command frame. `rx` holds the response bytes received so far in the attempt. -/
structure Exchange where
  cmd : DieCmd
  attempt : Nat
  retry : Bool
  deadline : Nat
  timer : Option Nat
  rx : List Byte
  deriving DecidableEq, Repr

/-- A die port (R64, R66): whether the K16 drives its wires, and the exchange in progress. -/
structure Port where
  driven : Bool
  exch : Option Exchange
  deriving DecidableEq, Repr

/-! ### Row Engine (R84) -/

/-- The attempt stages of R84. -/
inductive Stage where
  | idle
  | opening
  | settling
  | grantWait
  | pulsing
  | sensing
  | closing
  | resting
  | verifying
  deriving DecidableEq, Repr

/-- The purpose of a row attempt (R84). -/
inductive Purpose where
  | own (k : Fin 16)
  | spare (k : Fin 16) (j : Fin 3)
  | lock
  deriving DecidableEq, Repr

/-- What the Row Engine goes on with when its CLOSE ROW has ended (R95, R98). -/
inductive AfterClose where
  | chunk
  | sense
  | verify
  deriving DecidableEq, Repr

/-- The Row Engine's state (R84). A timer that runs is held with its value in µs: for the open timer the time
left as last known (R93), for the others the value it was started with. -/
structure RowEngine where
  stage : Stage
  regionRow : RegionRow
  purpose : Purpose
  word : Row
  target : Row
  conflicts : Nat
  round : Nat
  chunks : List Row
  rowOpen : Bool
  reopens : Nat
  expired : Bool
  openTimer : Option Nat
  settleTimer : Option Nat
  restTimer : Option Nat
  afterClose : AfterClose
  deriving DecidableEq, Repr

/-- The Row Engine with every item cleared and no attempt in progress (R84). The Purpose item holds the lock row's purpose then:
R84 names no cleared value (DESIGN CHOICE, log entry 25). -/
def RowEngine.idle : RowEngine where
  stage := .idle
  regionRow := 0
  purpose := .lock
  word := 0
  target := 0
  conflicts := 0
  round := 0
  chunks := []
  rowOpen := false
  reopens := 0
  expired := false
  openTimer := none
  settleTimer := none
  restTimer := none
  afterClose := .chunk

/-! ### Site Controller (R38, R39) -/

/-- Site posture (R38). -/
inductive Posture where
  | disabled
  | clear
  | unseated
  | seating
  | seated
  deriving DecidableEq, Repr

/-- The phases of an active job (R39). IDLE is the absence of a job. -/
inductive Phase where
  | bringup
  | blankCheck
  | keyWait
  | program
  | lock
  | shadowCheck
  | ending
  deriving DecidableEq, Repr

/-- The pending end of an orderly abort (R38, R57). -/
inductive PendingEnd where
  | aborted
  | pumpTimeout
  deriving DecidableEq, Repr

/-- The outcomes of a job (R61). -/
inductive JobOutcome where
  | provisioned
  | provisionedRepaired
  | alreadyLocked
  | regionNotBlank
  | rowUnrepairable
  | lockFailed
  | shadowMismatch
  | contactLost
  | linkLost
  | dieRefused
  | dieSupplyFault
  | pumpTimeout
  | aborted
  deriving DecidableEq, Repr

/-- A posted job (R46): its job tag and binding. -/
structure Posting where
  tag : BitVec 16
  lot : BitVec 24
  wafer : Byte
  x : Byte
  y : Byte
  deriving DecidableEq, Repr

/-- The active job context (R38). `step` counts the exchanges of the phase that have ended (R49, R50, R53).
`image` is present from the bind (R2), `lockWord` from the start of LOCK (R10). -/
structure Job where
  posting : Posting
  touchdown : BitVec 32
  phase : Phase
  step : Nat
  pendingEnd : Option PendingEnd
  snapshot : List Row
  image : Option Image
  lockWord : Option Row
  map : RelocMap
  corrected : Nat
  pulses : Nat
  failingRow : Option RegionRow
  engine : RowEngine
  deriving DecidableEq, Repr

/-- A Site Controller (R38) with its Die Port. Timers are held with the value they were started with: the
debounce timer in µs, the seat timeout timer in ms. -/
structure SiteCtl where
  posture : Posture
  debounce : Option Nat
  seatTimeout : Option Nat
  queue : List Posting
  used : Bool
  job : Option Job
  port : Port
  deriving DecidableEq, Repr

/-! ### The dies under the probes (R74, R78) -/

/-- The modes of a die's fuse controller (R74). -/
inductive DieMode where
  | normal
  | provisioning
  deriving DecidableEq, Repr

/-- A command frame as a die reads it (R65): code, row byte, and the four argument bytes, arg0 lowest. -/
structure DieFrame where
  code : Byte
  row : Byte
  arg : BitVec 32
  deriving DecidableEq, Repr

/-- A whole command frame a die has received and not yet carried out (R64, R75). `live` says that the selection in
which it arrived is still on, so that its response will be sent. -/
structure HeldFrame where
  frame : DieFrame
  live : Bool
  deriving DecidableEq, Repr

/-- The die under a site's probes (R74): its fuse cells, its fuse controller's four items, the frames it holds, and
the response it sends in the current selection. -/
structure Die where
  cells : DieCells
  mode : DieMode
  openRow : Option RegionRow
  width : Option Nat
  shadow : List Byte
  loaded : Bool
  held : List HeldFrame
  response : Option (List Byte)
  deriving DecidableEq, Repr

/-- The fuse controller after the die's own power-on (R74), over given cells. The command frames that the die still holds and a
response that it is sending are gone (DESIGN CHOICE, log entry 29). -/
def Die.powerOn (cells : DieCells) : Die where
  cells := cells
  mode := .normal
  openRow := none
  width := none
  shadow := List.replicate 48 0
  loaded := false
  held := []
  response := none

/-- The cells of a die before provisioning: every cell unblown (R1). -/
def blankCells : DieCells := Vector.replicate 20 { full := 0, weak := 0 }

/-! ### Supply Arbiter (R110) -/

/-- The Supply Arbiter's state (R110). Capacity C is the PUMP_CAPACITY parameter. `holdTimer` is held with the value
it was started with, in ms (R118). -/
structure Arbiter where
  inUse : Nat
  pointer : SiteNo
  waiting : Vector (Option Nat) 16
  inFlight : Vector (Option Nat) 16
  pump : Bool
  holdTimer : Option Nat
  timeoutInForce : Bool
  deriving DecidableEq, Repr

/-! ### Touchdown Control (R123) -/

inductive TdState where
  | clear
  | opened
  | liftingDrain
  | liftingAbort
  deriving DecidableEq, Repr

/-- Touchdown Control's state (R123). -/
structure Touchdown where
  state : TdState
  number : BitVec 32
  deferred : Option (BitVec 6)
  liftCount : Nat
  deriving DecidableEq, Repr

/-! ### Issue Log (R134) -/

/-- Key disposition (R61). -/
inductive Disposition where
  | none
  | issued
  | retired
  deriving DecidableEq, Repr

/-- An issue record (R62). -/
structure Record where
  seq : BitVec 32
  posting : Posting
  site : SiteNo
  touchdown : BitVec 32
  outcome : JobOutcome
  disposition : Disposition
  keyIndex : Option (BitVec 32)
  relocated : Nat
  corrected : Nat
  pulses : Nat
  failingRow : Option RegionRow
  deriving DecidableEq, Repr

/-- The Issue Log's state (R134), the record at the head first. -/
structure IssueLog where
  records : List Record
  reservations : Nat
  nextSeq : BitVec 32
  slotWaiters : Vector Bool 16
  logHigh : Bool
  deriving DecidableEq, Repr

/-! ### Condition Monitor (R147) -/

/-- The three site conditions (R147). -/
inductive SiteCond where
  | contact
  | link
  | dieSupply
  deriving DecidableEq, Repr

/-- One bit for each site condition. -/
structure SiteBits where
  contact : Bool
  link : Bool
  dieSupply : Bool
  deriving DecidableEq, Repr

/-- The four global flags (R147). -/
inductive GlobalFlag where
  | pump
  | poolLow
  | logHigh
  | recordAdded
  deriving DecidableEq, Repr

/-- One bit for each global flag. -/
structure GlobalBits where
  pump : Bool
  poolLow : Bool
  logHigh : Bool
  recordAdded : Bool
  deriving DecidableEq, Repr

/-- What the Condition Monitor holds for one site (R147). -/
structure SiteMon where
  cond : SiteBits
  flags : SiteBits
  source : SiteBits
  enable : Bool
  pending : Bool
  deriving DecidableEq, Repr

/-- The Condition Monitor (R147). The states of PUMP, POOL_LOW and LOG_HIGH are held by the blocks that own them. -/
structure Monitor where
  site : Vector SiteMon 16
  flags : GlobalBits
  enables : GlobalBits
  pending : Bool
  deriving DecidableEq, Repr

/-- A notice scope (R147): a site, or the unit as a whole. -/
inductive Scope where
  | site (i : SiteNo)
  | global
  deriving DecidableEq, Repr

/-! ### Link Interface (R158 to R166) -/

/-- Receive states (R161). -/
inductive RxMode where
  | hunt
  | header
  | payload
  | crc
  | skip
  deriving DecidableEq, Repr

/-- The receiver (R161): the frame under assembly and the gap timer. `header` holds the header bytes received so
far, `skipLeft` the bytes still to pass over, `skipAnswer` whether the end of the skip completes a frame for this
unit (R162). -/
structure Receiver where
  mode : RxMode
  header : List Byte
  payload : List Byte
  crc : List Byte
  skipLeft : Nat
  skipAnswer : Bool
  gap : Option Nat
  deriving DecidableEq, Repr

/-- Reply statuses (R177). -/
inductive Status where
  | ok
  | clamped
  | merged
  | badRequest
  | badLength
  | badField
  | frameCheck
  | overrun
  | touchdownOpen
  | noTouchdown
  | siteDisabled
  | queueFull
  | siteBusy
  | storeFull
  | indexOrder
  deriving DecidableEq, Repr

/-- A frame in the intake queue (R163): a good frame (`held` absent) with its payload, or a frame held with a status. -/
structure InFrame where
  kind : Byte
  tag : BitVec 6
  held : Option Status
  payload : List Byte
  deriving DecidableEq, Repr

/-- Where a frame of the output queue comes from (R165). `resetReply` is the immediate reply to RESET UNIT (R166). -/
inductive OutSource where
  | reply
  | resetReply
  | deferred
  | notice
  | overrun
  deriving DecidableEq, Repr

/-- A frame in the output queue (R165). -/
structure OutFrame where
  source : OutSource
  kind : Byte
  tag : BitVec 6
  payload : List Byte
  deriving DecidableEq, Repr

/-- The Link Interface (R161, R164, R165). `lastSent` is the model's own: the bytes on the transmit line of the last
frame sent whole. -/
structure Link where
  rx : Receiver
  unitAddr : BitVec 2
  intake : List InFrame
  outq : List OutFrame
  lastSent : List Byte
  deriving DecidableEq, Repr

/-! ### Configuration (R170) -/

/-- The ten parameters (R170). -/
structure Params where
  pulseWidth : Nat
  maxRounds : Nat
  rowOpenLimit : Nat
  dieResponseTimeout : Nat
  seatDebounce : Nat
  seatTimeout : Nat
  pumpHoldLimit : Nat
  pumpCapacity : Nat
  poolLowThreshold : Nat
  sitesEnabled : SiteSet
  deriving DecidableEq, Repr

/-! ### Inputs and reset control -/

/-- The input lines (00_scope.md, Electrical notes). -/
structure Pins where
  contact : Vector Bool 16
  overLimit : Vector Bool 16
  pumpFault : Bool
  straps : BitVec 2
  deriving DecidableEq, Repr

/-- The reset causes STATUS reports (R174). -/
inductive ResetCause where
  | powerOn
  | line
  | request
  deriving DecidableEq, Repr

/-- Reset control (R166, R174): `heldInReset` from power-on or the reset line until release; `requestPending` from the
taking of RESET UNIT until its reply has been sent. -/
structure ResetCtl where
  heldInReset : Bool
  cause : ResetCause
  requestPending : Bool
  deriving DecidableEq, Repr

/-! ### The whole machine -/

/-- The K16, its inputs, the dies under its probes, and the commands that wait to be taken. -/
structure State where
  pending : List Instr
  pins : Pins
  unitNumber : BitVec 32
  rst : ResetCtl
  link : Link
  cfg : Params
  td : Touchdown
  ks : KeyStore
  arb : Arbiter
  log : IssueLog
  mon : Monitor
  sites : Vector SiteCtl 16
  dies : Vector Die 16
  deriving DecidableEq, Repr

/-! ### Values after unit reset -/

def Params.default : Params where
  pulseWidth := 20
  maxRounds := 3
  rowOpenLimit := 2000
  dieResponseTimeout := 100
  seatDebounce := 2000
  seatTimeout := 20
  pumpHoldLimit := 50
  pumpCapacity := 48
  poolLowThreshold := 32
  sitesEnabled := 0xFFFF

def Receiver.hunting : Receiver where
  mode := .hunt
  header := []
  payload := []
  crc := []
  skipLeft := 0
  skipAnswer := false
  gap := none

/-- R123. -/
def Touchdown.afterReset : Touchdown where
  state := .clear
  number := 0
  deferred := none
  liftCount := 0

/-- R37: POOL_LOW is declared, since the free count is 0 and the default threshold is 32. -/
def KeyStore.afterReset : KeyStore where
  free := []
  bound := Vector.replicate 16 none
  highWater := 0
  waitList := []
  poolLow := true

/-- R122, with PUMP clear and the pump hold timer stopped: the value with the fault input deasserted. -/
def Arbiter.afterReset : Arbiter where
  inUse := 0
  pointer := 0
  waiting := Vector.replicate 16 none
  inFlight := Vector.replicate 16 none
  pump := false
  holdTimer := none
  timeoutInForce := false

/-- R134, R146. -/
def IssueLog.afterReset : IssueLog where
  records := []
  reservations := 0
  nextSeq := 1
  slotWaiters := Vector.replicate 16 false
  logHigh := false

def SiteBits.none : SiteBits := { contact := false, link := false, dieSupply := false }

def GlobalBits.none : GlobalBits := { pump := false, poolLow := false, logHigh := false, recordAdded := false }

def SiteMon.afterReset : SiteMon where
  cond := SiteBits.none
  flags := SiteBits.none
  source := SiteBits.none
  enable := false
  pending := false

/-- R147, R157. -/
def Monitor.afterReset : Monitor where
  site := Vector.replicate 16 SiteMon.afterReset
  flags := GlobalBits.none
  enables := GlobalBits.none
  pending := false

/-- R38, with the port of R66 and its wires released (R73). -/
def SiteCtl.afterReset : SiteCtl where
  posture := .clear
  debounce := none
  seatTimeout := none
  queue := []
  used := false
  job := none
  port := { driven := false, exch := none }

/-- The machine right after power-on and release from reset, every input deasserted, the straps at 0, the unit number 0,
a blank die in its power-on state under each site (log entries 2, 3, 4). -/
def State.reset : State where
  pending := []
  pins := { contact := Vector.replicate 16 false, overLimit := Vector.replicate 16 false,
            pumpFault := false, straps := 0 }
  unitNumber := 0
  rst := { heldInReset := false, cause := .powerOn, requestPending := false }
  link := { rx := Receiver.hunting, unitAddr := 0, intake := [], outq := [], lastSent := [] }
  cfg := Params.default
  td := Touchdown.afterReset
  ks := KeyStore.afterReset
  arb := Arbiter.afterReset
  log := IssueLog.afterReset
  mon := Monitor.afterReset
  sites := Vector.replicate 16 SiteCtl.afterReset
  dies := Vector.replicate 16 (Die.powerOn blankCells)

/-! ### Why a step can stop -/

/-- The faults. Each is raised by an event that the specification says cannot come about in the state it meets, so each
is safe: nothing is claimed of the hardware after it (log entry 7). -/
inductive Fault where
  /-- The expiry of a timer that is not running. Raised by the seven timer expiries and the response deadline. Safe. -/
  | timerNotRunning
  /-- The open timer expires in a stage where the specification says it cannot (R87, R95). Raised by
  OPEN_TIMER_EXPIRY. Safe. -/
  | expiryCannotArise
  /-- The Dispatcher is to take a frame that is not at the front of the intake queue (R164). Raised by the request
  commands. Safe. -/
  | noSuchFrameInFront
  /-- The Dispatcher is to take a request after it has taken RESET UNIT (R166), or while the K16 is held in reset.
  Raised by the request commands. Safe. -/
  | dispatcherStopped
  /-- The last byte of a frame is sent with the output queue empty (R165). Raised by FRAME_LAST_BYTE_SENT. Safe. -/
  | nothingToSend
  /-- The K16 leaves reset while it is not held in reset (R174). Raised by RESET_RELEASED. Safe. -/
  | notHeldInReset
  /-- The end of a command frame at a port that is not sending one (R66). Raised by COMMAND_FRAME_SENT. Safe. -/
  | noFrameBeingSent
  /-- A die is to carry out a command that is not the oldest it holds (R75). Raised by the nine die commands. Safe. -/
  | dieHoldsNoSuchFrame
  deriving DecidableEq, Repr

/-- The refusals: an instruction without a meaning, by its mnemonic. Raised by no arm of this model. Safe. -/
inductive Refusal where
  | notModelled (mnemonic : String)
  deriving DecidableEq, Repr

end Sys2Proof.Machine
end

