-- ==== Sys2Proof/Machine/RowCode.lean ====
section
/-!
DEFINITION. The identity image and the row code (01_the_identity_image_and_row_code.md, R2 to R17): image bytes and sum,
row words, lock words, the decode of a row read, and the lock-row validity test. The K16 and the dies use the same
definitions.
-/
namespace Sys2Proof.Machine

/-- How many of the low `n` bits of a word are 1. -/
def onesBelow (n : Nat) (w : Row) : Nat := (List.range n).countP (fun i => w.getLsbD i)

/-- How many cells of a row are in a set. -/
def cellCount (w : Row) : Nat := onesBelow 32 w

/-- The column codes of D0 to D23 (R7): the 6-bit values with at least two one-bits, ascending. -/
def columnCodes : List (BitVec 6) :=
  [3, 5, 6, 7, 9, 10, 11, 12, 13, 14, 15, 17, 18, 19, 20, 21, 22, 23, 24, 25, 26, 27, 28, 29]

/-- The column code of data bit Di (R7). -/
def columnCode (i : Nat) : BitVec 6 := columnCodes.getD i 0

/-- The check vector (R8): the exclusive-or of the column codes of the data bits that are 1. -/
def checkVector (d : BitVec 24) : BitVec 6 :=
  (List.range 24).foldl (fun acc i => if d.getLsbD i then acc ^^^ columnCode i else acc) 0

/-- The row word of three data bytes (R6, R8, R9): data in cells 0 to 23, check bits in 24 to 29, overall parity Q in 30,
written mark W in 31. -/
def rowWord (d : BitVec 24) : Row :=
  let body : Row := d.setWidth 32 ||| ((checkVector d).setWidth 32 <<< 24)
  let q : Row := if onesBelow 30 body % 2 = 1 then 1#32 <<< 30 else 0
  body ||| q ||| (1#32 <<< 31)

/-- The bytes of a number, least significant byte first (R3, R175). -/
def bytesLE (n : Nat) (w : Nat) : List Byte := (List.range n).map (fun i => BitVec.ofNat 8 (w / 256 ^ i))

/-- Image bytes 0 to 45 (R3). -/
def imageBody (key : Key) (p : Posting) (unitNumber : BitVec 32) : List Byte :=
  key.bytes ++ bytesLE 4 key.index.toNat ++ bytesLE 3 p.lot.toNat ++ [p.wafer, p.x, p.y]
    ++ bytesLE 4 unitNumber.toNat

/-- The image sum (R4): the sum of the bytes, modulo 65536. -/
def imageSum (body : List Byte) : BitVec 16 := body.foldl (fun acc b => acc + b.setWidth 16) 0

/-- The 48 image bytes (R3, R4). -/
def imageBytes (key : Key) (p : Posting) (unitNumber : BitVec 32) : List Byte :=
  let body := imageBody key p unitNumber
  body ++ bytesLE 2 (imageSum body).toNat

/-- Three bytes as a row's 24 data bits, data byte 0 lowest (R6). -/
def rowData (b0 b1 b2 : Byte) : BitVec 24 :=
  b0.setWidth 24 ||| (b1.setWidth 24 <<< 8) ||| (b2.setWidth 24 <<< 16)

/-- The data of image row r (R5): image bytes 3r, 3r + 1 and 3r + 2. -/
def imageRow (bytes : List Byte) (r : Nat) : BitVec 24 :=
  rowData (bytes.getD (3 * r) 0) (bytes.getD (3 * r + 1) 0) (bytes.getD (3 * r + 2) 0)

/-- The image of a job with its 16 row words, built at the bind (R2, R5). -/
def buildImage (key : Key) (p : Posting) (unitNumber : BitVec 32) : Image :=
  let bytes := imageBytes key p unitNumber
  { bytes := bytes, words := (List.range 16).map (fun r => rowWord (imageRow bytes r)) }

/-- The lock word's data (R10): lock mark 0xC3, E0, E1, E2 and the complete flag. -/
def lockData (m : RelocMap) : BitVec 24 :=
  0xC3 ||| (m[0].setWidth 24 <<< 8) ||| (m[1].setWidth 24 <<< 13) ||| (m[2].setWidth 24 <<< 18) ||| (1#24 <<< 23)

/-- The lock word of a relocation map (R10). -/
def lockWordOf (m : RelocMap) : Row := rowWord (lockData m)

/-- How many entries of a map hold an image row (R11): the rows-relocated count. -/
def relocatedCount (m : RelocMap) : Nat := m.toList.countP (fun e => 1 ≤ e.toNat && e.toNat ≤ 16)

/-! ### Decoding a read (R13 to R16) -/

/-- The outcome of decoding a row read (R14), with the decoded data where the row yields any. -/
inductive Decoded where
  | clean (data : BitVec 24)
  | corrected (data : BitVec 24)
  | uncorrectable
  deriving DecidableEq, Repr

/-- The data cells 0 to 23 of a read. -/
def dataCells (w : Row) : BitVec 24 := w.setWidth 24

/-- The check vector as read, cells 24 to 29 (R13). -/
def checkCells (w : Row) : BitVec 6 := (w >>> 24).setWidth 6

/-- The syndrome of a read (R13). -/
def syndrome (w : Row) : BitVec 6 := checkVector (dataCells w) ^^^ checkCells w

/-- The parity test of a read (R13): cells 0 to 30 hold an odd number of ones. -/
def parityOdd (w : Row) : Bool := onesBelow 31 w % 2 = 1

/-- The decode rule (R14). -/
def decodeRow (w : Row) : Decoded :=
  let syn := syndrome w
  let d := dataCells w
  if parityOdd w then
    if syn = 0 then .corrected d
    else if syn ∈ columnCodes then .corrected (d ^^^ (1#24 <<< columnCodes.idxOf syn))
    else if syn ∈ [(1 : BitVec 6), 2, 4, 8, 16, 32] then .corrected d
    else .uncorrectable
  else
    if syn = 0 then .clean d else .uncorrectable

/-- The decoded data of a clean or corrected read. -/
def Decoded.data? : Decoded → Option (BitVec 24)
  | .clean d => some d
  | .corrected d => some d
  | .uncorrectable => none

/-- Whether a decode outcome is corrected. -/
def Decoded.isCorrected : Decoded → Bool
  | .corrected _ => true
  | _ => false

/-- The written mark of a read (R9). -/
def writtenMark (w : Row) : Bool := w.getLsbD 31

/-- The decoded data of a valid lock-row read (R16), none where the read is not valid. -/
def validLockData (w : Row) : Option (BitVec 24) :=
  match (decodeRow w).data? with
  | some d => if writtenMark w && d.setWidth 8 = (0xC3 : Byte) && d.getLsbD 23 then some d else none
  | none => none

/-- The lock-row validity test (R16). -/
def lockRowValid (w : Row) : Bool := (validLockData w).isSome

/-- Map entry j of decoded lock-row data (R10). -/
def lockEntry (d : BitVec 24) (j : Nat) : BitVec 5 := (d >>> (8 + 5 * j)).setWidth 5

/-- The lowest-numbered spare whose entry names image row k (R12, R81). An entry of 17 to 31 names none, since k + 1 is at
most 16. -/
def spareOf (d : BitVec 24) (k : Fin 16) : Option (Fin 3) :=
  ([0, 1, 2] : List (Fin 3)).find? (fun j => (lockEntry d j).toNat = k.val + 1)

/-- The region row of spare j (R1). -/
def spareRow (j : Fin 3) : RegionRow := ⟨16 + j.val, by omega⟩

/-- The region row of image row k (R1). -/
def ownRow (k : Fin 16) : RegionRow := ⟨k.val, by omega⟩

/-- The lock row (R1). -/
def lockRow : RegionRow := 19

end Sys2Proof.Machine
end

