-- ==== Sys2Proof/Machine/Operands.lean ====
section
/-!
DEFINITION. The operand forms: fields of a payload, the codes of replies and records, the frames of the control link
(R159, R160) and of the die ports (R65, R179), and what a wire delivers.
-/
namespace Sys2Proof.Machine

/-! ### Fields of a payload -/

/-- Byte k of a payload. -/
def byteAt (p : List Byte) (k : Nat) : Byte := p.getD k 0

/-- The n-byte number at offset k, least significant byte first (R175). -/
def numAt (p : List Byte) (k : Nat) : Nat → Nat
  | 0 => 0
  | n + 1 => (byteAt p k).toNat + 256 * numAt p (k + 1) n

/-- The site a payload byte names, none above 15. -/
def siteAt (p : List Byte) (k : Nat) : Option SiteNo :=
  if h : (byteAt p k).toNat < 16 then some ⟨(byteAt p k).toNat, h⟩ else none

/-- The region row a byte names, none above 19 (R75). -/
def regionRowOf (b : Byte) : Option RegionRow :=
  if h : b.toNat < 20 then some ⟨b.toNat, h⟩ else none

/-! ### Codes (R177, R178) -/

def Status.code : Status → Byte
  | .ok => 0x00
  | .clamped => 0x01
  | .merged => 0x02
  | .badRequest => 0x10
  | .badLength => 0x11
  | .badField => 0x12
  | .frameCheck => 0x13
  | .overrun => 0x14
  | .touchdownOpen => 0x20
  | .noTouchdown => 0x21
  | .siteDisabled => 0x22
  | .queueFull => 0x23
  | .siteBusy => 0x24
  | .storeFull => 0x25
  | .indexOrder => 0x26

def ResetCause.code : ResetCause → Byte
  | .powerOn => 0
  | .line => 1
  | .request => 2

def TdState.code : TdState → Byte
  | .clear => 0
  | .opened => 1
  | .liftingDrain => 2
  | .liftingAbort => 3

def Posture.code : Posture → Byte
  | .disabled => 0
  | .clear => 1
  | .unseated => 2
  | .seating => 3
  | .seated => 4

def Phase.code : Phase → Byte
  | .bringup => 1
  | .blankCheck => 2
  | .keyWait => 3
  | .program => 4
  | .lock => 5
  | .shadowCheck => 6
  | .ending => 7

/-- The signed outcome code (R61). -/
def JobOutcome.value : JobOutcome → Int
  | .provisioned => 1
  | .provisionedRepaired => 2
  | .alreadyLocked => -1
  | .regionNotBlank => -2
  | .rowUnrepairable => -3
  | .lockFailed => -4
  | .shadowMismatch => -5
  | .contactLost => -6
  | .linkLost => -7
  | .dieRefused => -8
  | .dieSupplyFault => -9
  | .pumpTimeout => -10
  | .aborted => -11

/-- The outcome as one byte in two's complement (R175). -/
def JobOutcome.code (o : JobOutcome) : Byte := BitVec.ofInt 8 o.value

def JobOutcome.positive (o : JobOutcome) : Bool := 0 < o.value

def Disposition.code : Disposition → Byte
  | .none => 0
  | .issued => 1
  | .retired => 2

def PendingEnd.outcome : PendingEnd → JobOutcome
  | .aborted => .aborted
  | .pumpTimeout => .pumpTimeout

/-- A site scope's flags or states as one byte (R178). Bits 3 to 7 of the flags and 4 to 7 of the states, to which R178 gives no
content, are sent as 0 (DESIGN CHOICE, log entry 30); that bit 3 of the states is 0 it states. -/
def SiteBits.byte (b : SiteBits) : Byte :=
  (if b.contact then 1 else 0) ||| (if b.link then 2 else 0) ||| (if b.dieSupply then 4 else 0)

/-- The global scope's flags or states as one byte (R178). Bits 4 to 7, to which R178 gives no content, are sent as 0 (DESIGN
CHOICE, log entry 30); that bit 3 of the states is 0 it states. -/
def GlobalBits.byte (b : GlobalBits) : Byte :=
  (if b.pump then 1 else 0) ||| (if b.poolLow then 2 else 0) ||| (if b.logHigh then 4 else 0)
    ||| (if b.recordAdded then 8 else 0)

/-- The 28 bytes of an issue record (R178). -/
def Record.bytes (r : Record) : List Byte :=
  bytesLE 4 r.seq.toNat ++ bytesLE 2 r.posting.tag.toNat ++ [BitVec.ofNat 8 r.site.val]
    ++ bytesLE 4 r.touchdown.toNat ++ bytesLE 3 r.posting.lot.toNat
    ++ [r.posting.wafer, r.posting.x, r.posting.y,
        match r.failingRow with | some q => BitVec.ofNat 8 q.val | none => 0xFF,
        r.outcome.code, r.disposition.code]
    ++ bytesLE 4 (match r.keyIndex with | some k => k.toNat | none => 0)
    ++ [BitVec.ofNat 8 r.relocated, BitVec.ofNat 8 r.corrected] ++ bytesLE 2 r.pulses

/-! ### Frames of the control link -/

/-- The start byte (R159). -/
def startByte : Byte := 0xA6

/-- One bit of the payload CRC (R160). -/
def crcBit (r : BitVec 16) (b : Bool) : BitVec 16 :=
  if r.msb = b then r <<< 1 else (r <<< 1) ^^^ 0x1021

/-- One byte of the payload CRC, least significant bit first (R160). -/
def crcByte (r : BitVec 16) (b : Byte) : BitVec 16 :=
  (List.range 8).foldl (fun acc i => crcBit acc (b.getLsbD i)) r

/-- The payload CRC (R160). -/
def payloadCrc (p : List Byte) : BitVec 16 := p.foldl crcByte 0xFFFF

/-- The header check of the four header bytes before it (R159). -/
def headerCheck (b0 b1 b2 b3 : Byte) : Byte := 0xFF ^^^ b0 ^^^ b1 ^^^ b2 ^^^ b3

/-- The unit/tag byte (R159). -/
def unitTag (unit : BitVec 2) (tag : BitVec 6) : Byte := (unit.setWidth 8 <<< 6) ||| tag.setWidth 8

/-- A frame's bytes on the line (R159, R160): start byte, header, payload, and the CRC when the payload is not empty. -/
def frameBytes (unit : BitVec 2) (kind : Byte) (tag : BitVec 6) (p : List Byte) : List Byte :=
  let ut := unitTag unit tag
  let hi := BitVec.ofNat 8 (p.length / 256)
  let lo := BitVec.ofNat 8 p.length
  [startByte, kind, ut, hi, lo, headerCheck kind ut hi lo] ++ p
    ++ (if p.isEmpty then [] else bytesLE 2 (payloadCrc p).toNat)

/-- The bytes of a frame of the output queue, sent by a unit (R165). -/
def OutFrame.wire (unit : BitVec 2) (f : OutFrame) : List Byte := frameBytes unit f.kind f.tag f.payload

/-! ### Frames of the die ports -/

/-- The check byte of a die-port frame (R65). -/
def dieCheck (bs : List Byte) : Byte := bs.foldl (· ^^^ ·) 0x3C

/-- The four bytes of a 32-bit word, lowest first. -/
def wordBytes (w : BitVec 32) : List Byte := bytesLE 4 w.toNat

/-- The 32-bit word of four bytes, lowest first. -/
def wordOf (b0 b1 b2 b3 : Byte) : BitVec 32 := b3 ++ b2 ++ b1 ++ b0

/-- A die command's code, row byte and argument bytes (R65). -/
def DieCmd.fields : DieCmd → Byte × Byte × BitVec 32
  | .reset => (0x01, 0, 0)
  | .closeAll => (0x02, 0, 0)
  | .enterProvisioning w => (0x03, 0, w.setWidth 32)
  | .sense r .normal => (0x10, BitVec.ofNat 8 r.val, 0)
  | .sense r .high => (0x10, BitVec.ofNat 8 r.val, 1)
  | .openRow r => (0x11, BitVec.ofNat 8 r.val, 0)
  | .pulse m => (0x12, 0, m)
  | .closeRow r => (0x13, BitVec.ofNat 8 r.val, 0)
  | .reload => (0x20, 0, 0)
  | .readShadow w => (0x21, 0, BitVec.ofNat 32 w.val)

/-- The seven bytes of a command frame (R65, R179). -/
def DieCmd.frame (c : DieCmd) : List Byte :=
  let body := c.fields.1 :: c.fields.2.1 :: wordBytes c.fields.2.2
  body ++ [dieCheck body]

/-- A command frame as a die reads it: seven bytes with a right check byte (R75). -/
def readDieFrame : List Byte → Option DieFrame
  | [code, row, a0, a1, a2, a3, check] =>
    if check = dieCheck [code, row, a0, a1, a2, a3] then
      some { code := code, row := row, arg := wordOf a0 a1 a2 a3 }
    else none
  | _ => none

/-- The status bytes of a response (R65). -/
def doneByte : Byte := 0xD1
def refusedByte : Byte := 0xE2

/-- The six bytes of a response (R65, R179). -/
def responseBytes (status : Byte) (data : BitVec 32) : List Byte :=
  let body := status :: wordBytes data
  body ++ [dieCheck body]

/-- How an attempt ended (R66): DONE with its data, REFUSED, or lost by a check error or a timeout. -/
inductive Ending where
  | done (data : BitVec 32)
  | refused
  | lost
  deriving DecidableEq, Repr

/-- The ending that six response bytes give (R66). -/
def readResponse : List Byte → Ending
  | [st, d0, d1, d2, d3, check] =>
    if check ≠ dieCheck [st, d0, d1, d2, d3] then .lost
    else if st = doneByte then .done (wordOf d0 d1 d2 d3)
    else if st = refusedByte then .refused
    else .lost
  | _ => .lost

/-- The response bytes held after further bytes of DDI (R67): fill is passed over before the first byte that is not 0x00,
and bytes after the sixth are not sampled. -/
def takeDdi (held : List Byte) : List Byte → List Byte
  | [] => held
  | b :: bs =>
    if held.length ≥ 6 then held
    else if held.isEmpty && b = 0 then takeDdi held bs
    else takeDdi (held ++ [b]) bs

/-- What arrives at the far end of a wire. -/
def arrives (w : Wire) (sent : List Byte) : List Byte :=
  match w with
  | .clean => sent
  | .bytes bs => bs

end Sys2Proof.Machine
end

