-- ==== Sys2Proof/Machine/Flags.lean ====
section
/-!
DEFINITION. The Condition Monitor's flags (09_conditions_and_notices.md, R147 to R157): condition states, change flags, the
throttle test and the notices it queues, and force-clears (R132).
-/
namespace Sys2Proof.Machine

def SiteBits.get (b : SiteBits) : SiteCond → Bool
  | .contact => b.contact
  | .link => b.link
  | .dieSupply => b.dieSupply

def SiteBits.put (b : SiteBits) (c : SiteCond) (v : Bool) : SiteBits :=
  match c with
  | .contact => { b with contact := v }
  | .link => { b with link := v }
  | .dieSupply => { b with dieSupply := v }

def GlobalBits.put (b : GlobalBits) (g : GlobalFlag) (v : Bool) : GlobalBits :=
  match g with
  | .pump => { b with pump := v }
  | .poolLow => { b with poolLow := v }
  | .logHigh => { b with logHigh := v }
  | .recordAdded => { b with recordAdded := v }

/-- Whether some bit of both sets is 1. -/
def SiteBits.meet (a b : SiteBits) : Bool :=
  (a.contact && b.contact) || (a.link && b.link) || (a.dieSupply && b.dieSupply)

def GlobalBits.meet (a b : GlobalBits) : Bool :=
  (a.pump && b.pump) || (a.poolLow && b.poolLow) || (a.logHigh && b.logHigh) || (a.recordAdded && b.recordAdded)

/-- Whether some bit is 1. -/
def SiteBits.any (b : SiteBits) : Bool := b.contact || b.link || b.dieSupply

/-- The monitor's state for one site. -/
def State.smon (s : State) (i : SiteNo) : SiteMon := s.mon.site[i]

/-- The machine with the monitor's state for one site replaced. -/
def State.setSmon (s : State) (i : SiteNo) (m : SiteMon) : State :=
  { s with mon := { s.mon with site := s.mon.site.set i.val m i.isLt } }

/-- The machine with a frame placed at the back of the output queue (R165). -/
def State.push (s : State) (f : OutFrame) : State := { s with link := { s.link with outq := s.link.outq ++ [f] } }

/-- The global condition states (R150), each as its owning block holds it. RECORD_ADDED has no state (R144). -/
def State.globalStates (s : State) : GlobalBits :=
  { pump := s.arb.pump, poolLow := s.ks.poolLow, logHigh := s.log.logHigh, recordAdded := false }

/-- The scope number, the flags and the states of a scope (R154, R178). -/
def State.scopeBytes (s : State) : Scope → List Byte
  | .site i => [BitVec.ofNat 8 i.val, (s.smon i).flags.byte, (s.smon i).cond.byte]
  | .global => [16, s.mon.flags.byte, s.globalStates.byte]

/-- The NOTICE of a scope with the content it has now (R154, R178). -/
def State.noticeOf (s : State) (sc : Scope) : OutFrame :=
  { source := .notice, kind := 0xC0, tag := 0, payload := s.scopeBytes sc }

/-- Whether a scope has a latched flag that is enabled (R153). -/
def State.enabledFlag (s : State) : Scope → Bool
  | .site i => (s.smon i).enable && SiteBits.meet (s.smon i).flags (s.smon i).source
  | .global => GlobalBits.meet s.mon.flags s.mon.enables

/-- A scope's notice-pending flag (R147). -/
def State.noticePending (s : State) : Scope → Bool
  | .site i => (s.smon i).pending
  | .global => s.mon.pending

/-- The machine with a scope's notice-pending flag set to a value. -/
def State.setPending (s : State) (sc : Scope) (v : Bool) : State :=
  match sc with
  | .site i => s.setSmon i { s.smon i with pending := v }
  | .global => { s with mon := { s.mon with pending := v } }

/-- The throttle test for one scope (R153). -/
def State.throttle (s : State) (sc : Scope) : State :=
  if !s.noticePending sc && s.enabledFlag sc then (s.push (s.noticeOf sc)).setPending sc true else s

/-- A site change flag latches and the throttle test runs (R151). -/
def State.latchSite (s : State) (i : SiteNo) (c : SiteCond) : State :=
  (s.setSmon i { s.smon i with flags := (s.smon i).flags.put c true }).throttle (.site i)

/-- A global change flag latches and the throttle test runs (R150, R151). -/
def State.latchGlobal (s : State) (g : GlobalFlag) : State :=
  State.throttle { s with mon := { s.mon with flags := s.mon.flags.put g true } } .global

/-- The machine with a site condition state set, without a latch: a force-clear when the value is clear (R132). -/
def State.setCond (s : State) (i : SiteNo) (c : SiteCond) (v : Bool) : State :=
  s.setSmon i { s.smon i with cond := (s.smon i).cond.put c v }

/-- A site condition is declared or cleared, which latches its change flag (R151). -/
def State.changeCond (s : State) (i : SiteNo) (c : SiteCond) (v : Bool) : State := (s.setCond i c v).latchSite i c

/-- The state of a site condition. -/
def State.condOf (s : State) (i : SiteNo) (c : SiteCond) : Bool := (s.smon i).cond.get c

/-- All 17 scopes, sites ascending and the global scope last (R152). -/
def allScopes : List Scope := allSites.map .site ++ [.global]

end Sys2Proof.Machine
end

