-- ==== Sys2Proof/Machine/RowEngine.lean ====
section
/-!
DEFINITION. The Site Controller's job and its Row Engine (03_sites_and_the_provisioning_job.md, R48 to R60;
05_row_programming_and_repair.md, R84 to R109) as functions of the job context alone: from the context and what has
just happened at the site to the new context and ONE act on the resources outside it.
-/
namespace Sys2Proof.Machine

/-- What a job does next on the resources outside its context. -/
inductive Act where
  /-- Wait for a timer, a grant or an exchange already in progress. -/
  | wait
  /-- Start an exchange on the Die Port, with or without a retry (R69). -/
  | send (c : DieCmd) (retry : Bool)
  /-- Make a grant request (R90, R111). -/
  | request (demand : Nat)
  /-- Make a bind request (R51). -/
  | bind
  /-- End the job with an outcome (R55). -/
  | finish (o : JobOutcome)
  deriving DecidableEq, Repr

/-- A new job context and the act that goes with it. -/
abbrev Move := Job × Act

/-! ### Cell sets and chunks (R88) -/

/-- The cells of a set in ascending order. -/
def cellsOf (w : Row) : List Nat := (List.range 32).filter (fun i => w.getLsbD i)

/-- The set of one cell. -/
def cellBit (i : Nat) : Row := 1#32 <<< i

/-- The rest of the chunks, given the cells still to place, the chunk being filled and its size. -/
def chunkLoop (l : Nat) : List Nat → Row → Nat → List Row
  | [], cur, n => if n = 0 then [] else [cur]
  | c :: cs, cur, n =>
    if n = l then cur :: chunkLoop l cs (cellBit c) 1 else chunkLoop l cs (cur ||| cellBit c) (n + 1)

/-- A set split into chunks of at most l cells, lowest cells first (R88). -/
def splitChunks (l : Nat) (w : Row) : List Row := chunkLoop l (cellsOf w) 0 0

/-- The chunk size L (R88). -/
def chunkSize (cfg : Params) : Nat := min cfg.pumpCapacity 32

/-! ### Row attempts: start, relocation, lock row -/

/-- The snapshot row of a region row (R85). -/
def Job.snapRow (j : Job) (r : RegionRow) : Row := j.snapshot.getD r.val 0

/-- The number c of conflict cells of a word at a region row (R85). -/
def Job.conflictsAt (j : Job) (r : RegionRow) (word : Row) : Nat := cellCount (j.snapRow r &&& ~~~word)

/-- The row word of image row k (R5), held in the job's image. -/
def Job.imageWord (j : Job) (k : Fin 16) : Row :=
  match j.image with
  | some im => im.words.getD k.val 0
  | none => 0

/-- Map entry j set to a value (R102). -/
def Job.setEntry (j : Job) (s : Fin 3) (v : BitVec 5) : Job := { j with map := j.map.set s.val v s.isLt }

/-- A failed attempt at a region row (R100): the failing region row is set and the Row Engine returns to IDLE. -/
def Job.failAt (j : Job) (r : RegionRow) : Job := { j with failingRow := some r, engine := RowEngine.idle }

/-- An attempt that goes on past its start (R85): straight to verify when the target set is empty, else to OPENING. -/
def Job.startAttempt (j : Job) (p : Purpose) (r : RegionRow) (word : Row) : Move :=
  let t := word &&& ~~~(j.snapRow r)
  let e : RowEngine := { RowEngine.idle with
    regionRow := r, purpose := p, word := word, target := t, conflicts := j.conflictsAt r word }
  if t = 0 then ({ j with engine := { e with stage := .verifying } }, .send (.sense r .normal) true)
  else ({ j with engine := { e with stage := .opening, rowOpen := true } }, .send (.openRow r) true)

/-- The spares left to try for image row k, lowest first (R101, R102, R103). A spare that fails at its start by its conflict
count goes void at the same event. -/
def Job.trySpares (k : Fin 16) (word : Row) : List (Fin 3) → Job → Move
  | [], j => (j, .finish .rowUnrepairable)
  | s :: ss, j =>
    if j.map[s] ≠ 0 then Job.trySpares k word ss j
    else if 2 ≤ j.conflictsAt (spareRow s) word then
      Job.trySpares k word ss ((j.failAt (spareRow s)).setEntry s 31)
    else j.startAttempt (.spare k s) (spareRow s) word

/-- The three spares, lowest first (R1). -/
def allSpares : List (Fin 3) := [0, 1, 2]

/-- The attempt for image row k at its own region row (R52, R85, R101). -/
def Job.startImageRow (j : Job) (k : Fin 16) : Move :=
  let word := j.imageWord k
  if 2 ≤ j.conflictsAt (ownRow k) word then Job.trySpares k word allSpares (j.failAt (ownRow k))
  else j.startAttempt (.own k) (ownRow k) word

/-- The start of LOCK (R105): the lock word is built from the map and handed over for one attempt at the lock row. -/
def Job.startLock (j : Job) : Move :=
  let word := lockWordOf j.map
  let j1 : Job := { j with phase := .lock, lockWord := some word }
  if 2 ≤ j1.conflictsAt lockRow word then (j1.failAt lockRow, .finish .lockFailed)
  else j1.startAttempt .lock lockRow word

/-- Image row k has been placed (R104): the next image row, or LOCK after the last. -/
def Job.placed (j : Job) (k : Fin 16) : Move :=
  if h : k.val + 1 < 16 then j.startImageRow ⟨k.val + 1, h⟩ else j.startLock

/-- The result of a row attempt (R99). -/
inductive RowResult where
  | good
  | corrected
  | failed
  deriving DecidableEq, Repr

/-- The verify judgement (R99): the written mark, then the number of differing cells. -/
def judgeRow (word read : Row) : RowResult :=
  if writtenMark read then
    if word ^^^ read = 0 then .good
    else if cellCount (word ^^^ read) = 1 then .corrected else .failed
  else .failed

/-- The effect of a result on the job context (R100). -/
def Job.noteResult (j : Job) : RowResult → Job
  | .good => { j with engine := RowEngine.idle }
  | .corrected => { j with engine := RowEngine.idle, corrected := j.corrected + 1 }
  | .failed => j.failAt j.engine.regionRow

/-- What follows an attempt that was judged (R100 to R105). -/
def Job.attemptDone (j : Job) (r : RowResult) : Move :=
  let j1 := j.noteResult r
  match j.engine.purpose, r with
  | .own k, .failed => Job.trySpares k j.engine.word allSpares j1
  | .own k, _ => j1.placed k
  | .spare k s, .failed => Job.trySpares k j.engine.word allSpares (j1.setEntry s 31)
  | .spare k s, _ => (j1.setEntry s (BitVec.ofNat 5 (k.val + 1))).placed k
  | .lock, .failed => (j1, .finish .lockFailed)
  | .lock, _ => ({ j1 with phase := .shadowCheck, step := 0 }, .send .reload true)

/-! ### Row attempts: opening, rounds, guard, closing, verify -/

/-- CLOSE ROW is sent (R95): the open timer is stopped, the expired flag cleared, the row counts as closed. -/
def Job.closeRow (j : Job) (after : AfterClose) : Move :=
  ({ j with engine := { j.engine with
      stage := .closing, rowOpen := false, expired := false, openTimer := none, afterClose := after } },
   .send (.closeRow j.engine.regionRow) true)

/-- The round's HIGH-margin sense (R91). -/
def Job.senseHigh (j : Job) : Move :=
  ({ j with engine := { j.engine with stage := .sensing } }, .send (.sense j.engine.regionRow .high) true)

/-- Verify (R98): the row is closed first if it is open; then SENSE at NORMAL margin, with no rest timer running. -/
def Job.goVerify (j : Job) : Move :=
  if j.engine.rowOpen then j.closeRow .verify
  else ({ j with engine := { j.engine with stage := .verifying, restTimer := none } },
        .send (.sense j.engine.regionRow .normal) true)

/-- OPEN ROW is sent again (R96). -/
def Job.openAgain (j : Job) : Move :=
  ({ j with engine := { j.engine with
      stage := .opening, rowOpen := true, reopens := j.engine.reopens + 1, restTimer := none } },
   .send (.openRow j.engine.regionRow) true)

/-- A reopening is needed, the row being closed (R96, R97). With a reopen count of 4 the chunks are dropped here: after a guard
that failed, that is at the DONE of CLOSE ROW (DESIGN CHOICE, log entry 24). -/
def Job.reopen (j : Job) : Move :=
  if 4 ≤ j.engine.reopens then Job.goVerify { j with engine := { j.engine with chunks := [], rowOpen := false } }
  else if j.engine.restTimer.isSome then ({ j with engine := { j.engine with stage := .resting } }, .wait)
  else j.openAgain

/-- The open-time guard on the front chunk (R93, R95). A guard that fails keeps the chunks through CLOSING, whatever the reopen
count (DESIGN CHOICE, log entry 24). -/
def Job.guardChunk (cfg : Params) (j : Job) : Move :=
  if !j.engine.rowOpen then j.reopen
  else if j.engine.expired then j.closeRow .chunk
  else if cfg.pulseWidth ≤ j.engine.openTimer.getD 0 then
    ({ j with engine := { j.engine with stage := .grantWait } }, .request (cellCount (j.engine.chunks.headD 0)))
  else j.closeRow .chunk

/-- A round begins with a cell set (R88). -/
def Job.beginRound (cfg : Params) (j : Job) (cells : Row) : Job :=
  { j with engine := { j.engine with
      round := j.engine.round + 1, chunks := splitChunks (chunkSize cfg) cells } }

/-- The settle timer has expired (R88, R96): the settle time has passed on the open timer too. -/
def Job.onSettle (cfg : Params) (j : Job) : Move :=
  let e := { j.engine with settleTimer := none, openTimer := j.engine.openTimer.map (· - Config.settleTime) }
  if j.engine.stage = .settling then
    let j1 : Job := { j with engine := e }
    if j.engine.round = 0 then Job.guardChunk cfg (j1.beginRound cfg j.engine.target) else Job.guardChunk cfg j1
  else ({ j with engine := { j.engine with settleTimer := none } }, .wait)

/-- The PULSE of a chunk has ended, by DONE, check error or timeout (R90, R95). -/
def Job.pulseEnded (cfg : Params) (j : Job) : Move :=
  if j.engine.chunks.isEmpty then
    if j.engine.expired && j.engine.rowOpen then j.closeRow .sense else j.senseHigh
  else Job.guardChunk cfg j

/-- The HIGH-margin sense has ended DONE (R91). -/
def Job.highSensed (cfg : Params) (j : Job) (read : Row) : Move :=
  let left := j.engine.target &&& ~~~read
  if left = 0 then j.goVerify
  else if cfg.maxRounds ≤ j.engine.round then j.goVerify
  else Job.guardChunk cfg (j.beginRound cfg left)

/-- The CLOSE ROW exchange has ended DONE (R95, R98). With chunks still to do a reopening is needed, and a reopen count of 4
drops them here (R97; DESIGN CHOICE, log entry 24). -/
def Job.rowClosed (j : Job) : Move :=
  let rested : Job := { j with engine := { j.engine with restTimer := some Config.restTime } }
  match j.engine.afterClose with
  | .chunk => rested.reopen
  | .sense => rested.senseHigh
  | .verify => j.goVerify

/-- OPEN ROW has ended DONE (R87). -/
def Job.rowOpened (cfg : Params) (j : Job) : Move :=
  ({ j with engine := { j.engine with
      stage := .settling, openTimer := some cfg.rowOpenLimit, settleTimer := some Config.settleTime } }, .wait)

/-- An exchange of a row attempt has ended DONE. -/
def Job.attemptExchange (cfg : Params) (j : Job) (data : BitVec 32) : Move :=
  match j.engine.stage with
  | .opening => j.rowOpened cfg
  | .pulsing => j.pulseEnded cfg
  | .sensing => j.highSensed cfg data
  | .closing => j.rowClosed
  | .verifying => j.attemptDone (judgeRow j.engine.word data)
  | .idle | .settling | .grantWait | .resting => (j, .wait)

/-! ### The phases of a job -/

/-- Exchange n of BRINGUP (R49). -/
def bringupCmd (cfg : Params) : Nat → DieCmd
  | 0 => .reset
  | 1 => .closeAll
  | 2 => .enterProvisioning (BitVec.ofNat 16 cfg.pulseWidth)
  | _ => .sense 0 .normal

/-- BRINGUP after one more exchange (R49). -/
def Job.bringupDone (cfg : Params) (j : Job) : Move :=
  if j.step < 4 then ({ j with step := j.step + 1 }, .send (bringupCmd cfg (j.step + 1)) true)
  else ({ j with phase := .blankCheck, step := 0 }, .send (.sense 0 .normal) true)

/-- BLANK_CHECK after one more row (R50). The read of region row 19 is judged; a blank lock row leads to the bind point. -/
def Job.blankRowRead (j : Job) (cells : Row) : Move :=
  let j1 : Job := { j with snapshot := j.snapshot ++ [cells] }
  if h : j.step + 1 < 20 then ({ j1 with step := j.step + 1 }, .send (.sense ⟨j.step + 1, h⟩ .normal) true)
  else if cells = 0 then (j1, .bind)
  else if lockRowValid cells then (j1, .finish .alreadyLocked)
  else (j1, .finish .regionNotBlank)

/-- The image bytes of shadow word w as they come in a response (R17, R53). -/
def Job.imageShadowWord (j : Job) (w : Nat) : BitVec 32 :=
  match j.image with
  | some im => wordOf (byteAt im.bytes (4 * w)) (byteAt im.bytes (4 * w + 1)) (byteAt im.bytes (4 * w + 2))
      (byteAt im.bytes (4 * w + 3))
  | none => 0

/-- The outcome at completion (R54). -/
def Job.completionOutcome (j : Job) : JobOutcome :=
  if j.corrected = 0 && relocatedCount j.map = 0 then .provisioned else .provisionedRepaired

/-- Step 1 of SHADOW_CHECK (R53): the die's corrected count, relocated count and lock-valid flag against the K16's. -/
def Job.reloadMatches (j : Job) (data : BitVec 32) : Bool :=
  (data.setWidth 8 : Byte).toNat = j.corrected && ((data >>> 8).setWidth 8 : Byte).toNat = relocatedCount j.map
    && ((data >>> 16).setWidth 8 : Byte) = 1

/-- SHADOW_CHECK after one more exchange (R53, R54): exchange 0 is RELOAD, exchange w + 1 is READ SHADOW of word w. -/
def Job.shadowDone (j : Job) (data : BitVec 32) : Move :=
  match j.step with
  | 0 => if j.reloadMatches data then ({ j with step := 1 }, .send (.readShadow 0) true)
         else (j, .finish .shadowMismatch)
  | w + 1 =>
    if data = j.imageShadowWord w then
      if h : w + 1 < 12 then ({ j with step := w + 2 }, .send (.readShadow ⟨w + 1, h⟩) true)
      else (j, .finish j.completionOutcome)
    else (j, .finish .shadowMismatch)

/-- An exchange of a job that is not in ENDING has ended DONE. -/
def Job.exchangeDone (cfg : Params) (j : Job) (data : BitVec 32) : Move :=
  match j.phase with
  | .bringup => j.bringupDone cfg
  | .blankCheck => j.blankRowRead data
  | .program | .lock => j.attemptExchange cfg data
  | .shadowCheck => j.shadowDone data
  | .keyWait | .ending => (j, .wait)

/-- The outcome of an orderly abort: its pending end (R57). -/
def Job.abortOutcome (j : Job) : JobOutcome :=
  match j.pendingEnd with
  | some p => p.outcome
  | none => .aborted

/-- Steps 4 and 5 of an orderly abort (R57): one CLOSE ROW with no retry if a row is open, else the end of the job. -/
def Job.endingNext (j : Job) : Move :=
  if j.engine.rowOpen then
    ({ j with engine := { j.engine with stage := .closing, rowOpen := false, expired := false } },
     .send (.closeRow j.engine.regionRow) false)
  else (j, .finish j.abortOutcome)

/-- Whether a die command is a PULSE. -/
def DieCmd.isPulse : DieCmd → Bool
  | .pulse _ => true
  | _ => false

/-- What a job does when an exchange has ended (R57, R59, R70, R109). -/
def Job.onExchange (cfg : Params) (cmd : DieCmd) (j : Job) (e : Ending) : Move :=
  if j.phase = .ending then j.endingNext
  else match e with
    | .done data => j.exchangeDone cfg data
    | .refused => (j, .finish .dieRefused)
    | .lost => if cmd.isPulse then j.pulseEnded cfg else (j, .finish .linkLost)

/-- A job is given its key (R25, R26, R51): the image is built and PROGRAM begins with image row 0. -/
def Job.onKey (unitNumber : BitVec 32) (j : Job) (key : Key) : Move :=
  Job.startImageRow { j with phase := .program, step := 0, image := some (buildImage key j.posting unitNumber) } 0

/-- A grant (R90, R92): the front chunk leaves the list and is pulsed, and the pulse counts as issued. -/
def Job.onGrant (j : Job) : Job × DieCmd :=
  ({ j with
      pulses := min (j.pulses + 1) 65535
      engine := { j.engine with stage := .pulsing, chunks := j.engine.chunks.tail } },
   .pulse (j.engine.chunks.headD 0))

/-- The start of an orderly abort (R57, R108): every timer of the attempt is stopped; an exchange in progress runs on. A rest timer
that runs in SENSING, with the row closed, is stopped too (DESIGN CHOICE, log entry 27). -/
def Job.onAbort (j : Job) (p : PendingEnd) (exchangeRuns : Bool) : Move :=
  let j1 : Job := { j with
    phase := .ending, pendingEnd := some p
    engine := { j.engine with openTimer := none, settleTimer := none, restTimer := none } }
  if exchangeRuns then (j1, .wait) else j1.endingNext

/-- The open timer has expired (R94, R95), none where the specification says it cannot. The withdrawal of a waiting request
is the caller's. -/
def Job.onOpenExpiry (j : Job) : Option Move :=
  match j.engine.stage with
  | .grantWait => some (j.closeRow .chunk)
  | .pulsing | .sensing => some ({ j with engine := { j.engine with openTimer := none, expired := true } }, .wait)
  | .idle | .opening | .settling | .closing | .resting | .verifying => none

/-- The rest timer has expired (R96). -/
def Job.onRest (j : Job) : Move :=
  if j.engine.stage = .resting then j.openAgain
  else ({ j with engine := { j.engine with restTimer := none } }, .wait)

/-- The open timer's time left is at most what the event reports (R93). -/
def Job.noteOpenLeft (j : Job) (left : Nat) : Job :=
  { j with engine := { j.engine with openTimer := j.engine.openTimer.map (min left) } }

end Sys2Proof.Machine
end

