-- ==== Sys2Proof/Machine/Ops.lean ====
section
/-!
DEFINITION. The shared operations of the K16: access to sites and dies, the Key Store's and the Issue Log's evaluations, the
Supply Arbiter's grant test, exchanges, the job-end event, drive cut, orderly abort, the performing of a job's act,
admission, liftoff completion and unit reset.
-/
namespace Sys2Proof.Machine

/-! ### Sites and dies -/

def State.site (s : State) (i : SiteNo) : SiteCtl := s.sites[i]

def State.setSite (s : State) (i : SiteNo) (c : SiteCtl) : State := { s with sites := s.sites.set i.val c i.isLt }

/-- The machine with a site's active job context replaced. -/
def State.setJob (s : State) (i : SiteNo) (j : Option Job) : State := s.setSite i { s.site i with job := j }

def State.setPort (s : State) (i : SiteNo) (p : Port) : State := s.setSite i { s.site i with port := p }

/-- The machine with a site's exchange in progress replaced. -/
def State.setExch (s : State) (i : SiteNo) (x : Option Exchange) : State :=
  s.setPort i { (s.site i).port with exch := x }

def State.die (s : State) (i : SiteNo) : Die := s.dies[i]

def State.setDie (s : State) (i : SiteNo) (d : Die) : State := { s with dies := s.dies.set i.val d i.isLt }

/-- The machine with one block's state replaced: the Key Store, the Issue Log, the Supply Arbiter, Touchdown Control. -/
def State.setKs (s : State) (k : KeyStore) : State := { s with ks := k }
def State.setLog (s : State) (l : IssueLog) : State := { s with log := l }
def State.setArb (s : State) (a : Arbiter) : State := { s with arb := a }
def State.setTd (s : State) (t : Touchdown) : State := { s with td := t }

/-- Membership of SITES_ENABLED (R40). -/
def State.enabled (s : State) (i : SiteNo) : Bool := s.cfg.sitesEnabled.getLsbD i.val

/-- A site has an active job. -/
def State.active (s : State) (i : SiteNo) : Bool := (s.site i).job.isSome

def State.anyActive (s : State) : Bool := allSites.any s.active

/-- An operation done at every site, in ascending order. -/
def forSites (f : State → SiteNo → State) (s : State) : State := allSites.foldl f s

def TdState.lifting : TdState → Bool
  | .liftingDrain => true
  | .liftingAbort => true
  | _ => false

/-! ### Key Store (R33, R34) and Issue Log (R143) evaluations -/

/-- The machine with POOL_LOW declared or cleared, which is reported (R33). -/
def State.reportPoolLow (s : State) (v : Bool) : State :=
  (s.setKs { s.ks with poolLow := v }).latchGlobal .poolLow

/-- The level at which POOL_LOW clears (R33). -/
def poolClearLevel (t : Nat) : Nat := min (t + 8) Config.keySlots

/-- POOL_LOW is evaluated on the free count as it stands (R33). -/
def State.evalPoolLow (s : State) : State :=
  let t := s.cfg.poolLowThreshold
  let n := s.ks.free.length
  if s.ks.poolLow then
    if poolClearLevel t ≤ n then s.reportPoolLow false else s
  else if 0 < t && n < t then s.reportPoolLow true else s

/-- POOL_LOW is evaluated against a new threshold (R34): a threshold of 0 does not hold the condition. -/
def State.evalPoolLowNew (s : State) : State :=
  if s.ks.poolLow && s.cfg.poolLowThreshold = 0 then s.reportPoolLow false else s.evalPoolLow

/-- The bound count (R36). -/
def KeyStore.boundCount (k : KeyStore) : Nat := allSites.countP (fun i => k.bound[i].isSome)

/-- Slots in use (R134). -/
def IssueLog.slotsInUse (l : IssueLog) : Nat := l.records.length + l.reservations

def State.reportLogHigh (s : State) (v : Bool) : State :=
  (s.setLog { s.log with logHigh := v }).latchGlobal .logHigh

/-- LOG_HIGH is evaluated on the slots in use as they stand (R143). -/
def State.evalLogHigh (s : State) : State :=
  if s.log.logHigh then
    if s.log.slotsInUse ≤ 224 then s.reportLogHigh false else s
  else if 240 ≤ s.log.slotsInUse then s.reportLogHigh true else s

/-! ### Supply Arbiter (R111 to R115) -/

/-- The candidate (R112): the first site with a waiting request, scanning upward from N, with its demand. -/
def Arbiter.candidate (a : Arbiter) : Option (SiteNo × Nat) :=
  (allSites.map (fun k => a.pointer + k)).findSome? (fun i => (a.waiting[i]).map (fun d => (i, d)))

/-- A grant to a site (R112, R113). -/
def Arbiter.grant (a : Arbiter) (i : SiteNo) (d : Nat) : Arbiter :=
  { a with
    waiting := a.waiting.set i.val none i.isLt
    inFlight := a.inFlight.set i.val (some d) i.isLt
    inUse := a.inUse + d
    pointer := i + 1 }

/-- The repeated test (R112) with PUMP clear: grants while the candidate fits. Each grant removes a request, so sixteen
rounds are enough. The granted sites stand in order. -/
def Arbiter.grantLoop (c : Nat) : Nat → Arbiter → Arbiter × List SiteNo
  | 0, a => (a, [])
  | n + 1, a =>
    match a.candidate with
    | none => (a, [])
    | some (i, d) =>
      if a.inUse + d ≤ c then
        let r := Arbiter.grantLoop c n (a.grant i d)
        (r.1, i :: r.2)
      else (a, [])

/-- The grant test (R112) with capacity c. -/
def Arbiter.grantTest (a : Arbiter) (c : Nat) : Arbiter × List SiteNo :=
  if a.pump then (a, []) else Arbiter.grantLoop c 16 a

/-- A request joins the waiting set (R111). -/
def Arbiter.join (a : Arbiter) (i : SiteNo) (d : Nat) : Arbiter :=
  { a with waiting := a.waiting.set i.val (some d) i.isLt }

/-- A waiting request is withdrawn (R115). -/
def Arbiter.withdraw (a : Arbiter) (i : SiteNo) : Arbiter := { a with waiting := a.waiting.set i.val none i.isLt }

/-- A grant in flight is released (R114). -/
def Arbiter.release (a : Arbiter) (i : SiteNo) : Arbiter :=
  { a with inFlight := a.inFlight.set i.val none i.isLt, inUse := a.inUse - a.inFlight[i].getD 0 }

/-! ### Exchanges (R66, R68) -/

/-- The response deadline of a command, in µs (R68). -/
def deadlineOf (cfg : Params) : DieCmd → Nat
  | .reset => 1000
  | .reload => 2000
  | .pulse _ => cfg.pulseWidth + cfg.dieResponseTimeout
  | _ => cfg.dieResponseTimeout

/-- An attempt of an exchange as it starts: the frame is being clocked out, no deadline runs, nothing is received. -/
def newAttempt (cfg : Params) (c : DieCmd) (n : Nat) (retry : Bool) : Exchange :=
  { cmd := c, attempt := n, retry := retry, deadline := deadlineOf cfg c, timer := none, rx := [] }

/-- An exchange starts at a site (R66). -/
def State.startExchange (s : State) (i : SiteNo) (c : DieCmd) (retry : Bool) : State :=
  s.setExch i (some (newAttempt s.cfg c 1 retry))

/-- A die whose selection has ended (R64): it stops sending, and the frames it still holds will bring no response. -/
def Die.deselect (d : Die) : Die :=
  { d with held := d.held.map (fun h => { h with live := false }), response := none }

def State.deselect (s : State) (i : SiteNo) : State := s.setDie i (s.die i).deselect

/-- The grant at a site: the Row Engine sends the PULSE (R90, R113). -/
def State.sendPulse (s : State) (i : SiteNo) : State :=
  match (s.site i).job with
  | some j => (s.setJob i (some j.onGrant.1)).startExchange i j.onGrant.2 false
  | none => s

/-- The grant test with its grants sent (R112, R113). -/
def State.grantTest (s : State) : State :=
  let r := s.arb.grantTest s.cfg.pumpCapacity
  r.2.foldl State.sendPulse (s.setArb r.1)

/-- The withdrawal of a site's waiting request, if it has one, and the grant test (R115). -/
def State.withdraw (s : State) (i : SiteNo) : State :=
  if s.arb.waiting[i].isSome then (s.setArb (s.arb.withdraw i)).grantTest else s

/-- The release of a site's grant in flight, if it has one, and the grant test (R114). -/
def State.release (s : State) (i : SiteNo) : State :=
  if s.arb.inFlight[i].isSome then (s.setArb (s.arb.release i)).grantTest else s

/-! ### The job-end event (R55) -/

/-- The Key Store's part of a job end (R29, R30): the bound key is erased, the site leaves the wait list. -/
def KeyStore.endJob (k : KeyStore) (i : SiteNo) : KeyStore :=
  { k with bound := k.bound.set i.val none i.isLt, waitList := k.waitList.filter (· ≠ i) }

/-- Disposition (R61). -/
def dispositionOf (key : Option Key) (o : JobOutcome) : Disposition :=
  match key with
  | none => .none
  | some _ => if o.positive then .issued else .retired

/-- Whether a record carries the failing region row (R62). -/
def JobOutcome.carriesFailingRow : JobOutcome → Bool
  | .rowUnrepairable => true
  | .lockFailed => true
  | _ => false

/-- The issue record of a job that ends (R62). -/
def State.recordOf (s : State) (i : SiteNo) (j : Job) (o : JobOutcome) : Record :=
  { seq := s.log.nextSeq
    posting := j.posting
    site := i
    touchdown := j.touchdown
    outcome := o
    disposition := dispositionOf s.ks.bound[i] o
    keyIndex := (s.ks.bound[i]).map Key.index
    relocated := relocatedCount j.map
    corrected := j.corrected
    pulses := j.pulses
    failingRow := if o.carriesFailingRow then j.failingRow else none }

/-- A number that rises by one and wraps from its highest value to 1 (R123, R140). -/
def nextNumber (n : BitVec 32) : BitVec 32 := if n = 0xFFFFFFFF then 1 else n + 1

/-- The append of a record (R139). -/
def IssueLog.append (l : IssueLog) (r : Record) : IssueLog :=
  { l with records := l.records ++ [r], reservations := l.reservations - 1, nextSeq := nextNumber l.nextSeq }

/-- A job end during a lift is counted (R130). -/
def Touchdown.countEnd (t : Touchdown) : Touchdown :=
  if t.state.lifting then { t with liftCount := t.liftCount + 1 } else t

/-- The blocks' accounts of a job end (R55): the key disposed of (R29, R30), the record appended (R139), the lift counted
(R130). -/
def State.accountEnd (s : State) (i : SiteNo) (j : Job) (o : JobOutcome) : State :=
  { s with ks := s.ks.endJob i, log := s.log.append (s.recordOf i j o), td := s.td.countEnd }

/-- The job-end event (R55): LINK is declared at LINK_LOST (R71), the key disposed of, the record appended and
RECORD_ADDED reported, the context discarded. Liftoff completion is the caller's last act. -/
def State.endJob (s : State) (i : SiteNo) (o : JobOutcome) : State :=
  match (s.site i).job with
  | none => s
  | some j =>
    let s1 := if o = .linkLost then s.changeCond i .link true else s
    ((s1.accountEnd i j o).setJob i none).latchGlobal .recordAdded

/-! ### Performing a job's act -/

/-- An act that needs no shared resource of the blocks: wait, start an exchange, or end the job. -/
def State.doAct (s : State) (i : SiteNo) : Act → State
  | .send c retry => s.startExchange i c retry
  | .finish o => s.endJob i o
  | .wait | .request _ | .bind => s

/-- A move whose act is of that kind. -/
def State.doMove (s : State) (i : SiteNo) (m : Move) : State := (s.setJob i (some m.1)).doAct i m.2

/-- An exchange in progress loses its retry (R72). -/
def Exchange.noRetry (x : Exchange) : Exchange := { x with retry := false }

/-- An orderly abort of a site's job starts (R57, R72): its waiting request is withdrawn, its exchange loses its retry.
Nothing happens without a job, or to a job in ENDING (R58). -/
def State.abort (s : State) (i : SiteNo) (p : PendingEnd) : State :=
  match (s.site i).job with
  | none => s
  | some j =>
    if j.phase = .ending then s
    else
      let x := (s.site i).port.exch
      ((s.withdraw i).setExch i (x.map Exchange.noRetry)).doMove i (j.onAbort p x.isSome)

/-- A grant request (R111): it joins the waiting set and the grant test runs, or under timeout in force its job ends
PUMP_TIMEOUT (R119). -/
def State.request (s : State) (i : SiteNo) (d : Nat) : State :=
  if s.arb.timeoutInForce then s.abort i .pumpTimeout
  else (s.setArb (s.arb.join i d)).grantTest

/-- The front key moved to a site's entry (R25, R26), the rest of the free queue staying. -/
def KeyStore.bindFront (k : KeyStore) (i : SiteNo) (key : Key) (rest : List Key) : KeyStore :=
  { k with free := rest, bound := k.bound.set i.val (some key) i.isLt }

/-- A job that holds its key goes to PROGRAM (R51). -/
def State.giveKey (s : State) (i : SiteNo) (key : Key) : State :=
  match (s.site i).job with
  | none => s
  | some j => s.doMove i (j.onKey s.unitNumber key)

/-- A job enters KEY_WAIT at the back of the wait list (R27). -/
def State.joinWaitList (s : State) (i : SiteNo) : State :=
  match (s.site i).job with
  | none => s
  | some j =>
    (s.setKs { s.ks with waitList := s.ks.waitList ++ [i] }).setJob i (some { j with phase := .keyWait })

/-- A bind request (R26, R27). In the order of R26's words: the key is bound and given, the job goes on to PROGRAM (and may
end there at once), and POOL_LOW is then evaluated. -/
def State.bindRequest (s : State) (i : SiteNo) : State :=
  match s.ks.free with
  | key :: rest => ((s.setKs (s.ks.bindFront i key rest)).giveKey i key).evalPoolLow
  | [] => s.joinWaitList i

/-- A job's move is carried out: its context is stored and its act performed. -/
def State.perform (s : State) (i : SiteNo) (m : Move) : State :=
  match m.2 with
  | .request d => (s.setJob i (some m.1)).request i d
  | .bind => (s.setJob i (some m.1)).bindRequest i
  | _ => s.doMove i m

/-! ### Drive cut (R56, R58) -/

/-- A drive cut at a site with an active job: the wires are released, the exchange abandoned, the units released or the
request withdrawn, and the job ends, with its pending end when it is in ENDING. Without an active job there is no job to end,
and wires still driven from an earlier job stay so (DESIGN CHOICE, log entry 26). -/
def State.driveCut (s : State) (i : SiteNo) (o : JobOutcome) : State :=
  match (s.site i).job with
  | none => s
  | some j =>
    let s1 := (s.setPort i { driven := false, exch := none }).deselect i
    let s2 := (s1.withdraw i).release i
    s2.endJob i (if j.phase = .ending then j.abortOutcome else o)

/-! ### Admission (R47, R48, R136) -/

/-- The first five conditions of admission, with a head job (R47, R136). -/
def State.readyToAdmit (s : State) (i : SiteNo) : Bool :=
  s.td.state = .opened && (s.site i).posture = .seated && !(s.site i).used && !s.active i
    && !s.condOf i .dieSupply && !(s.site i).queue.isEmpty

/-- The job context made at admission (R48). -/
def newJob (p : Posting) (touchdown : BitVec 32) : Job where
  posting := p
  touchdown := touchdown
  phase := .bringup
  step := 0
  pendingEnd := none
  snapshot := []
  image := none
  lockWord := none
  map := Vector.replicate 3 0
  corrected := 0
  pulses := 0
  failingRow := none
  engine := RowEngine.idle

/-- The head job of a site is admitted (R48): a slot is reserved, the used flag set, the wires driven, BRINGUP started. -/
def State.admitHead (s : State) (i : SiteNo) : State :=
  match (s.site i).queue with
  | [] => s
  | p :: rest =>
    let s1 := s.setSite i { s.site i with
      queue := rest
      used := true
      job := some (newJob p s.td.number)
      port := { driven := true, exch := none } }
    (s1.setLog { s1.log with reservations := s1.log.reservations + 1 }).startExchange i (bringupCmd s1.cfg 0) true

/-- A site joins or leaves the slot-waiter set (R136, R137). -/
def State.setSlotWaiter (s : State) (i : SiteNo) (v : Bool) : State :=
  s.setLog { s.log with slotWaiters := s.log.slotWaiters.set i.val v i.isLt }

/-- A site asks the Issue Log for a slot (R136). -/
def State.askSlot (s : State) (i : SiteNo) : State :=
  if s.log.slotsInUse < Config.logSlots then (s.admitHead i).evalLogHigh else s.setSlotWaiter i true

/-- Admission is tested at a site (R47). A site in the slot-waiter set does not ask again. -/
def State.testAdmission (s : State) (i : SiteNo) : State :=
  if s.readyToAdmit i && !s.log.slotWaiters[i] then s.askSlot i else s

/-! ### Replies and liftoff completion -/

/-- The immediate reply to a request taken, at the back of the output queue (R164, R165). -/
def State.reply (s : State) (f : InFrame) (st : Status) (fields : List Byte) : State :=
  s.push { source := .reply, kind := f.kind + 0x80, tag := f.tag, payload := st.code :: fields }

/-- The fields of a TOUCHDOWN or LIFTOFF reply after the status (R172, R177). -/
def tdFields (state : TdState) (number : BitVec 32) (count : Nat) : List Byte :=
  state.code :: bytesLE 4 number.toNat ++ [BitVec.ofNat 8 count]

/-- The deferred LIFTOFF reply (R131, R172): status OK, state CLEAR, the touchdown number and the lift count. -/
def deferredReply (tag : BitVec 6) (t : Touchdown) : OutFrame where
  source := .deferred
  kind := 0x86
  tag := tag
  payload := Status.ok.code :: tdFields .clear t.number t.liftCount

/-- A site at liftoff completion (R45). -/
def SiteCtl.liftDone (c : SiteCtl) : SiteCtl := { c with posture := .clear, debounce := none, seatTimeout := none }

/-- Liftoff completion at one site (R45, R131): posture and timers of an enabled site, force-clears at every site. -/
def State.liftSite (s : State) (i : SiteNo) : State :=
  let s1 := if s.enabled i then s.setSite i (s.site i).liftDone else s
  (s1.setCond i .contact false).setCond i .dieSupply false

/-- Liftoff completion (R131). -/
def State.completeLift (s : State) : State :=
  let s1 := forSites State.liftSite (s.setTd { s.td with state := .clear, deferred := none, liftCount := 0 })
  match s.td.deferred with
  | some tag => s1.push (deferredReply tag s.td)
  | none => s1

/-- Liftoff completion follows when a LIFTING state is left with no active job (R130, R131). -/
def State.finishLift (s : State) : State := if s.td.state.lifting && !s.anyActive then s.completeLift else s

/-! ### Unit reset (R174) -/

/-- Every block at its reset value: what stays is the inputs, the unit number, the fuse cells and controllers of the dies
(which lose their selection, R73), and the commands that wait. -/
def State.blocksReset (s : State) (cause : ResetCause) (held : Bool) : State :=
  { s with
    rst := { heldInReset := held, cause := cause, requestPending := false }
    link := { s.link with rx := Receiver.hunting, intake := [], outq := [] }
    cfg := Params.default
    td := Touchdown.afterReset
    ks := KeyStore.afterReset
    arb := Arbiter.afterReset
    log := IssueLog.afterReset
    mon := Monitor.afterReset
    sites := Vector.replicate 16 SiteCtl.afterReset
    dies := s.dies.map Die.deselect }

/-- The K16 leaves reset (R174): the straps are sampled, and PUMP is evaluated from the fault input without a latch, with the
pump hold timer started when it is declared (R122). -/
def State.leaveReset (s : State) : State :=
  { s with
    rst := { s.rst with heldInReset := false }
    link := { s.link with unitAddr := s.pins.straps }
    arb := { s.arb with
      pump := s.pins.pumpFault
      holdTimer := if s.pins.pumpFault then some s.cfg.pumpHoldLimit else none } }

end Sys2Proof.Machine
end

