-- ==== Sys2Proof/Machine/Link.lean ====
section
/-!
DEFINITION. The Link Interface (10_control_link.md, R158 to R166): the receiver, frame completion and the intake slots, the
gap timer, and the end of a sent frame.
-/
namespace Sys2Proof.Machine

/-- What a step answers. -/
abbrev StepResult := Host.Outcome State Fault Refusal

/-- The machine with its receiver replaced. -/
def State.setRx (s : State) (r : Receiver) : State := { s with link := { s.link with rx := r } }

/-- A receiver that has just begun a frame, with the header bytes it already has (R161). -/
def Receiver.inHeader (header : List Byte) : Receiver :=
  { Receiver.hunting with mode := .header, header := header, gap := some Config.gapTime }

/-- A damaged header is re-examined as if its bytes arrived in HUNT (R161). -/
def Receiver.reexamine (header : List Byte) : Receiver :=
  match header.dropWhile (· ≠ startByte) with
  | [] => Receiver.hunting
  | _ :: rest => Receiver.inHeader rest

/-- The length field of a header, high byte first (R159). -/
def headerLength (header : List Byte) : Nat := 256 * (byteAt header 2).toNat + (byteAt header 3).toNat

/-- The tag of a header (R159). -/
def headerTag (header : List Byte) : BitVec 6 := (byteAt header 1).setWidth 6

/-- The unit address of a header (R159). -/
def headerUnit (header : List Byte) : BitVec 2 := ((byteAt header 1) >>> 6).setWidth 2

/-- Passing over a number of bytes (R162). -/
def Receiver.skipping (header : List Byte) (n : Nat) (answer : Bool) : Receiver :=
  { Receiver.hunting with
    mode := .skip, header := header, skipLeft := n, skipAnswer := answer, gap := some Config.gapTime }

/-- The frame that a header and what follows it give (R163). -/
def frameOf (header : List Byte) (held : Option Status) (payload : List Byte) : InFrame :=
  { kind := byteAt header 0, tag := headerTag header, held := held, payload := payload }

/-- A header that has passed its check (R162). -/
def Receiver.route (unit : BitVec 2) (header : List Byte) : Receiver × Option InFrame :=
  let len := headerLength header
  if headerUnit header ≠ unit || 0x40 ≤ (byteAt header 0).toNat then
    if len = 0 then (Receiver.hunting, none) else (Receiver.skipping header (len + 2) false, none)
  else if Config.requestLimit < len then (Receiver.skipping header (len + 2) true, none)
  else if len = 0 then (Receiver.hunting, some (frameOf header none []))
  else ({ Receiver.hunting with mode := .payload, header := header, gap := some Config.gapTime }, none)

/-- The fifth header byte has been received (R161). -/
def Receiver.headerDone (unit : BitVec 2) (header : List Byte) : Receiver × Option InFrame :=
  if byteAt header 4 = headerCheck (byteAt header 0) (byteAt header 1) (byteAt header 2) (byteAt header 3) then
    Receiver.route unit header
  else (Receiver.reexamine header, none)

/-- The frame whose second CRC byte has been received (R160, R163): good, or held with FRAME_CHECK and its payload
discarded. -/
def crcFrame (header payload crc : List Byte) : InFrame :=
  if crc = bytesLE 2 (payloadCrc payload).toNat then frameOf header none payload
  else frameOf header (some .frameCheck) []

/-- One received byte (R161, R162, R163): the receiver after it, and the frame it completes for this unit, if any. -/
def Receiver.take (unit : BitVec 2) (r : Receiver) (b : Byte) : Receiver × Option InFrame :=
  match r.mode with
  | .hunt => if b = startByte then (Receiver.inHeader [], none) else (r, none)
  | .header =>
    let h := r.header ++ [b]
    if h.length < 5 then ({ r with header := h, gap := some Config.gapTime }, none) else Receiver.headerDone unit h
  | .payload =>
    let p := r.payload ++ [b]
    ({ r with
        mode := if p.length < headerLength r.header then .payload else .crc
        payload := p, gap := some Config.gapTime }, none)
  | .crc =>
    let c := r.crc ++ [b]
    if c.length < 2 then ({ r with crc := c, gap := some Config.gapTime }, none)
    else (Receiver.hunting, some (crcFrame r.header r.payload c))
  | .skip =>
    if 1 < r.skipLeft then ({ r with skipLeft := r.skipLeft - 1, gap := some Config.gapTime }, none)
    else (Receiver.hunting, if r.skipAnswer then some (frameOf r.header (some .badLength) []) else none)

/-- The intake slots held (R164): frames of the intake queue, and immediate replies not yet sent. -/
def Link.slotsHeld (l : Link) : Nat :=
  l.intake.length + l.outq.countP (fun f => f.source = .reply || f.source = .resetReply)

/-- The OVERRUN replies waiting in the output queue (R163). -/
def Link.overrunsWaiting (l : Link) : Nat := l.outq.countP (fun f => f.source = .overrun)

/-- A completed frame takes a slot, or is answered OVERRUN, or is discarded (R163). -/
def State.frameComplete (s : State) (f : InFrame) : State :=
  if s.link.slotsHeld < Config.intakeSlots then { s with link := { s.link with intake := s.link.intake ++ [f] } }
  else if s.link.overrunsWaiting < 2 then
    s.push { source := .overrun, kind := f.kind + 0x80, tag := f.tag, payload := [Status.overrun.code] }
  else s

/-- The receiver's result stored, and a completed frame handled. -/
def State.received (s : State) (r : Receiver × Option InFrame) : State :=
  match r.2 with
  | some f => (s.setRx r.1).frameComplete f
  | none => s.setRx r.1

/-- CONTROL_LINK_BYTE_RECEIVED (R158, R161). No byte is taken while the K16 is held in reset (R166). A byte whose stop bit
reads low drops the frame under assembly. -/
def execControlLinkByteReceived (b : Byte) (stopHigh : Bool) (s : State) : StepResult :=
  if s.rst.heldInReset then .next s
  else if stopHigh then .next (s.received (s.link.rx.take s.link.unitAddr b))
  else .next (s.setRx Receiver.hunting)

/-- GAP_TIMER_EXPIRY (R161): the frame under assembly is dropped. -/
def execGapTimerExpiry (s : State) : StepResult :=
  match s.link.rx.gap with
  | some _ => .next (s.setRx Receiver.hunting)
  | none => .fault .timerNotRunning

/-- The frame at the front of the output queue has left on the line. -/
def State.frameSent (s : State) (f : OutFrame) (rest : List OutFrame) : State :=
  { s with link := { s.link with outq := rest, lastSent := f.wire s.link.unitAddr } }

/-- FRAME_LAST_BYTE_SENT (R164, R165, R166): the frame leaves the queue and a reply's slot is free. The reply to RESET UNIT
brings the unit reset. -/
def execFrameLastByteSent (s : State) : StepResult :=
  match s.link.outq with
  | [] => .fault .nothingToSend
  | f :: rest =>
    if f.source = .resetReply then .next ((s.frameSent f rest).blocksReset .request false).leaveReset
    else .next (s.frameSent f rest)

end Sys2Proof.Machine
end

