-- ==== Sys2Proof/Machine/DiePort.lean ====
section
/-!
DEFINITION. Events of the die ports and of the Row Engines' timers (R64 to R73, R87 to R97).
-/
namespace Sys2Proof.Machine

/-- The time left on a site's open timer is noted (R93; log entry 9). -/
def State.noteOpenLeft (s : State) (i : SiteNo) (left : Nat) : State :=
  match (s.site i).job with
  | some j => s.setJob i (some (j.noteOpenLeft left))
  | none => s

/-- Whether an attempt's failure is retried (R69): attempt 1 of a command whose retry is allowed and not withdrawn. -/
def Exchange.retries (x : Exchange) (e : Ending) : Bool :=
  match e with
  | .done _ => false
  | .refused | .lost => x.attempt = 1 && x.retry

/-- An exchange has ended (R66, R70): a pulse's units are released, and the job goes on. -/
def State.exchangeEnded (s : State) (i : SiteNo) (cmd : DieCmd) (e : Ending) : State :=
  let s1 := s.setExch i none
  let s2 := if cmd.isPulse then s1.release i else s1
  match (s2.site i).job with
  | some j => s2.perform i (j.onExchange s2.cfg cmd e)
  | none => s2

/-- An attempt has ended (R66, R69): DSEL is deasserted; the command is sent again or the exchange ends. -/
def State.attemptEnded (s : State) (i : SiteNo) (x : Exchange) (e : Ending) : State :=
  let s1 := s.deselect i
  if x.retries e then s1.setExch i (some (newAttempt s1.cfg x.cmd 2 x.retry))
  else s1.exchangeEnded i x.cmd e

/-- DIE_RESPONSE_COMPLETE (R66, R67). The bytes that DDI delivered are examined from the end of the command frame on. With the
sixth byte of a response the attempt ends; a shorter delivery is held. Bytes outside a selection, or while the command frame
is still being clocked out, are not taken. -/
def execDieResponseComplete (i : SiteNo) (ddi : Wire) (openLeft : Nat) (s : State) : StepResult :=
  match (s.site i).port.exch with
  | none => .next s
  | some x =>
    match x.timer with
    | none => .next s
    | some _ =>
      let rx := takeDdi x.rx (arrives ddi ((s.die i).response.getD []))
      if rx.length < 6 then .next (s.setExch i (some { x with rx := rx }))
      else .next ((s.noteOpenLeft i openLeft).attemptEnded i x (readResponse rx)).finishLift

/-- DIE_RESPONSE_DEADLINE_EXPIRY (R66): the attempt fails by timeout. -/
def execDieResponseDeadlineExpiry (i : SiteNo) (openLeft : Nat) (s : State) : StepResult :=
  match (s.site i).port.exch with
  | none => .fault .timerNotRunning
  | some x =>
    match x.timer with
    | none => .fault .timerNotRunning
    | some _ => .next ((s.noteOpenLeft i openLeft).attemptEnded i x .lost).finishLift

/-- SETTLE_TIMER_EXPIRY (R87, R88, R96). -/
def execSettleTimerExpiry (i : SiteNo) (s : State) : StepResult :=
  match (s.site i).job with
  | none => .fault .timerNotRunning
  | some j =>
    match j.engine.settleTimer with
    | none => .fault .timerNotRunning
    | some _ => .next (s.perform i (j.onSettle s.cfg)).finishLift

/-- OPEN_TIMER_EXPIRY (R94, R95): a waiting request is withdrawn and the row closed, or the expired flag is set. -/
def execOpenTimerExpiry (i : SiteNo) (s : State) : StepResult :=
  match (s.site i).job with
  | none => .fault .timerNotRunning
  | some j =>
    match j.engine.openTimer with
    | none => .fault .timerNotRunning
    | some _ =>
      match j.onOpenExpiry with
      | some m => .next ((s.withdraw i).perform i m)
      | none => .fault .expiryCannotArise

/-- REST_TIMER_EXPIRY (R96). -/
def execRestTimerExpiry (i : SiteNo) (s : State) : StepResult :=
  match (s.site i).job with
  | none => .fault .timerNotRunning
  | some j =>
    match j.engine.restTimer with
    | none => .fault .timerNotRunning
    | some _ => .next (s.perform i j.onRest)

end Sys2Proof.Machine
end

