-- ==== Sys2Proof/Machine/Die.lean ====
section
/-!
DEFINITION. The conforming die (04_die_provisioning_port.md, R74 to R82): the frames it takes and what it does with each
command, and the end of a command frame at the K16 (R66).
-/
namespace Sys2Proof.Machine

/-- A die's answer to a command (R65). -/
inductive DieAnswer where
  | done (data : BitVec 32)
  | refused
  deriving DecidableEq, Repr

/-- The six bytes of an answer (R65). The data bytes of a REFUSED answer are 0 for every command: R65 gives 0x00 only for the
commands that return no data (DESIGN CHOICE, log entry 23). -/
def DieAnswer.bytes : DieAnswer → List Byte
  | .done data => responseBytes doneByte data
  | .refused => responseBytes refusedByte 0

/-- The command codes of R65. -/
def dieCodes : List Byte := [0x01, 0x02, 0x03, 0x10, 0x11, 0x12, 0x13, 0x20, 0x21]

/-- The answer is sent when the frame's selection is still on (R75). -/
def Die.answer (d : Die) (live : Bool) (a : DieAnswer) : Die :=
  if live then { d with response := some a.bytes } else d

/-- Frames with an unknown code at the front of those held are answered REFUSED (R75). -/
def Die.answerUnknown : List HeldFrame → Die → Die
  | [], d => { d with held := [] }
  | h :: rest, d =>
    if h.frame.code ∈ dieCodes then { d with held := h :: rest }
    else Die.answerUnknown rest (d.answer h.live .refused)

/-- A die receives the bytes of a whole selection's frame (R75): with a right check byte it holds the frame, and otherwise
discards it. -/
def Die.receive (d : Die) (bs : List Byte) : Die :=
  match readDieFrame bs with
  | some f => Die.answerUnknown (d.held ++ [{ frame := f, live := true }]) d
  | none => d

/-- COMMAND_FRAME_SENT (R66): the attempt's response deadline starts, and the die has received the frame. -/
def execCommandFrameSent (i : SiteNo) (ddo : Wire) (s : State) : StepResult :=
  match (s.site i).port.exch with
  | none => .fault .noFrameBeingSent
  | some x =>
    match x.timer with
    | some _ => .fault .noFrameBeingSent
    | none =>
      let s1 := s.setExch i (some { x with timer := some x.deadline })
      .next (s1.setDie i ((s1.die i).receive (arrives ddo x.cmd.frame)))

/-- The cells of a row that read blown (R78). -/
def readCells (r : DieRow) : Margin → Row
  | .normal => r.full ||| r.weak
  | .high => r.full

/-- A pulse over a set of cells (R78, R80): the cells of the mask that the pulse leaves fully blown, and those it leaves weakly
blown; no cell returns to a lower condition. -/
def pulseCells (r : DieRow) (mask toFull toWeak : Row) : DieRow :=
  let full := r.full ||| (mask &&& toFull)
  { full := full, weak := (r.weak ||| (mask &&& toWeak)) &&& ~~~full }

/-- The cells of one row of a die. -/
def Die.rowCells (d : Die) (r : RegionRow) : DieRow := d.cells[r]

def Die.setRow (d : Die) (r : RegionRow) (c : DieRow) : Die := { d with cells := d.cells.set r.val c r.isLt }

/-- RESET at the die (R76). -/
def Die.doReset (d : Die) (_f : DieFrame) : Die × DieAnswer :=
  ({ d with mode := .normal, openRow := none, width := none, shadow := List.replicate 48 0, loaded := false }, .done 0)

/-- CLOSE ALL at the die (R76). -/
def Die.doCloseAll (d : Die) (_f : DieFrame) : Die × DieAnswer := ({ d with openRow := none }, .done 0)

/-- ENTER PROVISIONING at the die (R77). The width stands in arg0 and arg1. -/
def Die.doEnter (d : Die) (f : DieFrame) : Die × DieAnswer :=
  let w := (f.arg.setWidth 16).toNat
  if 5 ≤ w && w ≤ 500 then ({ d with mode := .provisioning, width := some w }, .done 0) else (d, .refused)

/-- The margin that arg0 names (R78). -/
def marginOf (f : DieFrame) : Option Margin :=
  if (f.arg.setWidth 8 : Byte) = 0 then some .normal
  else if (f.arg.setWidth 8 : Byte) = 1 then some .high else none

/-- SENSE at the die (R78). -/
def Die.doSense (d : Die) (f : DieFrame) : Die × DieAnswer :=
  match d.mode, regionRowOf f.row, marginOf f with
  | .provisioning, some r, some m =>
    if d.openRow = none || d.openRow = some r then (d, .done (readCells (d.rowCells r) m)) else (d, .refused)
  | _, _, _ => (d, .refused)

/-- OPEN ROW at the die (R79). -/
def Die.doOpenRow (d : Die) (f : DieFrame) : Die × DieAnswer :=
  match d.mode, regionRowOf f.row, d.openRow with
  | .provisioning, some r, none => ({ d with openRow := some r }, .done 0)
  | _, _, _ => (d, .refused)

/-- PULSE at the die (R80). -/
def Die.doPulse (toFull toWeak : Row) (d : Die) (f : DieFrame) : Die × DieAnswer :=
  match d.mode, d.openRow with
  | .provisioning, some r => (d.setRow r (pulseCells (d.rowCells r) f.arg toFull toWeak), .done 0)
  | _, _ => (d, .refused)

/-- CLOSE ROW at the die (R79). -/
def Die.doCloseRow (d : Die) (f : DieFrame) : Die × DieAnswer :=
  match d.mode, regionRowOf f.row with
  | .provisioning, some r =>
    if d.openRow = none || d.openRow = some r then ({ d with openRow := none }, .done 0) else (d, .refused)
  | _, _ => (d, .refused)

/-- The lock-row data that RELOAD uses for its map: none where the lock row is not valid (R81). -/
def Die.lockData (d : Die) : Option (BitVec 24) := validLockData (readCells (d.rowCells lockRow) .normal)

/-- The spare at which RELOAD reads image row k, if any (R81). -/
def Die.spareFor (d : Die) (k : Fin 16) : Option (Fin 3) :=
  match d.lockData with
  | some data => spareOf data k
  | none => none

/-- The read of image row k at the place RELOAD finds it (R81). -/
def Die.imageRead (d : Die) (k : Fin 16) : Row :=
  match d.spareFor k with
  | some j => readCells (d.rowCells (spareRow j)) .normal
  | none => readCells (d.rowCells (ownRow k)) .normal

/-- The three shadow bytes of image row k (R81): the decoded data, or the data cells as they stand. -/
def Die.shadowRow (d : Die) (k : Fin 16) : List Byte :=
  let read := d.imageRead k
  let data := match (decodeRow read).data? with
    | some x => x
    | none => dataCells read
  bytesLE 3 data.toNat

/-- The corrected count of RELOAD (R81): rows whose decode outcome was corrected, the lock row included. -/
def Die.correctedCount (d : Die) : Nat :=
  (decodeRow (readCells (d.rowCells lockRow) .normal)).isCorrected.toNat
    + allSites.countP (fun k => (decodeRow (d.imageRead k)).isCorrected)

/-- The relocated count of RELOAD (R81). -/
def Die.relocatedCount (d : Die) : Nat := allSites.countP (fun k => (d.spareFor k).isSome)

/-- RELOAD at the die (R81). -/
def Die.doReload (d : Die) (_f : DieFrame) : Die × DieAnswer :=
  match d.mode, d.openRow with
  | .provisioning, none =>
    ({ d with shadow := allSites.flatMap d.shadowRow, loaded := true },
     .done (wordOf (BitVec.ofNat 8 d.correctedCount) (BitVec.ofNat 8 d.relocatedCount)
       (if d.lockData.isSome then 1 else 0) 0))
  | _, _ => (d, .refused)

/-- READ SHADOW at the die (R82). -/
def Die.doReadShadow (d : Die) (f : DieFrame) : Die × DieAnswer :=
  let w := (f.arg.setWidth 8 : Byte).toNat
  if d.mode = .provisioning && d.loaded && w < 12 then
    (d, .done (wordOf (byteAt d.shadow (4 * w)) (byteAt d.shadow (4 * w + 1)) (byteAt d.shadow (4 * w + 2))
      (byteAt d.shadow (4 * w + 3))))
  else (d, .refused)

/-- A die carries out the oldest frame it holds, when its code is the one named (R75), and answers it. -/
def Die.carryOut (d : Die) (code : Byte) (act : Die → DieFrame → Die × DieAnswer) : Option Die :=
  match d.held with
  | [] => none
  | h :: rest =>
    if h.frame.code = code then
      let r := act d h.frame
      some (Die.answerUnknown rest (r.1.answer h.live r.2))
    else none

/-- The die at a site carries out a command. -/
def State.dieCommand (s : State) (i : SiteNo) (code : Byte) (act : Die → DieFrame → Die × DieAnswer) : StepResult :=
  match (s.die i).carryOut code act with
  | some d => .next (s.setDie i d)
  | none => .fault .dieHoldsNoSuchFrame

/-- DIE_POWER_ON (R74): the fuse controller starts afresh, over the same cells or over those of another die, and no frame held or
response being sent outlives it (DESIGN CHOICE, log entry 29). -/
def execDiePowerOn (i : SiteNo) (cells : Option DieCells) (s : State) : StepResult :=
  .next (s.setDie i (Die.powerOn (cells.getD (s.die i).cells)))

/-- RESET (R76). -/
def execReset (i : SiteNo) (s : State) : StepResult := s.dieCommand i 0x01 Die.doReset

/-- CLOSE_ALL (R76). -/
def execCloseAll (i : SiteNo) (s : State) : StepResult := s.dieCommand i 0x02 Die.doCloseAll

/-- ENTER_PROVISIONING (R77). -/
def execEnterProvisioning (i : SiteNo) (s : State) : StepResult := s.dieCommand i 0x03 Die.doEnter

/-- SENSE (R78). -/
def execSense (i : SiteNo) (s : State) : StepResult := s.dieCommand i 0x10 Die.doSense

/-- OPEN_ROW (R79). -/
def execOpenRow (i : SiteNo) (s : State) : StepResult := s.dieCommand i 0x11 Die.doOpenRow

/-- PULSE (R80), with what it leaves of the driven cells (R78; log entry 8). -/
def execPulse (i : SiteNo) (toFull toWeak : Row) (s : State) : StepResult :=
  s.dieCommand i 0x12 (Die.doPulse toFull toWeak)

/-- CLOSE_ROW (R79). -/
def execCloseRow (i : SiteNo) (s : State) : StepResult := s.dieCommand i 0x13 Die.doCloseRow

/-- RELOAD (R81). -/
def execReload (i : SiteNo) (s : State) : StepResult := s.dieCommand i 0x20 Die.doReload

/-- READ_SHADOW (R82). -/
def execReadShadow (i : SiteNo) (s : State) : StepResult := s.dieCommand i 0x21 Die.doReadShadow

end Sys2Proof.Machine
end

