-- ==== Sys2Proof/Machine/Sites.lean ====
section
/-!
DEFINITION. Events of the probe sites' inputs and seat timers (R41 to R45, R148).
-/
namespace Sys2Proof.Machine

def State.setContactPin (s : State) (i : SiteNo) (v : Bool) : State :=
  { s with pins := { s.pins with contact := s.pins.contact.set i.val v i.isLt } }

def State.setOverLimitPin (s : State) (i : SiteNo) (v : Bool) : State :=
  { s with pins := { s.pins with overLimit := s.pins.overLimit.set i.val v i.isLt } }

/-- CONTACT_SENSED (R42): an UNSEATED site goes to SEATING and starts its debounce timer. -/
def execContactSensed (i : SiteNo) (s : State) : StepResult :=
  let s1 := s.setContactPin i true
  match (s1.site i).posture with
  | .unseated =>
    .next (s1.setSite i { s1.site i with posture := .seating, debounce := some s1.cfg.seatDebounce })
  | .disabled | .clear | .seating | .seated => .next s1

/-- CONTACT_DROPPED (R42, R44): a SEATING site goes back to UNSEATED; a SEATED site goes to UNSEATED with CONTACT declared,
leaves the slot-waiter set, and loses its drive. -/
def execContactDropped (i : SiteNo) (s : State) : StepResult :=
  let s1 := s.setContactPin i false
  match (s1.site i).posture with
  | .seating => .next (s1.setSite i { s1.site i with posture := .unseated, debounce := none })
  | .seated =>
    let s2 := s1.setSite i { s1.site i with posture := .unseated }
    .next ((((s2.changeCond i .contact true).setSlotWaiter i false).driveCut i .contactLost).finishLift)
  | .disabled | .clear | .unseated => .next s1

/-- A site becomes SEATED (R42): its timers stop, CONTACT is cleared if declared, and admission is tested. -/
def State.seat (s : State) (i : SiteNo) : State :=
  let s1 := s.setSite i { s.site i with posture := .seated, debounce := none, seatTimeout := none }
  let s2 := if s1.condOf i .contact then s1.changeCond i .contact false else s1
  s2.testAdmission i

/-- DEBOUNCE_EXPIRY (R42). -/
def execDebounceExpiry (i : SiteNo) (s : State) : StepResult :=
  match (s.site i).debounce with
  | none => .fault .timerNotRunning
  | some _ =>
    if (s.site i).posture = .seating then .next (s.seat i)
    else .next (s.setSite i { s.site i with debounce := none })

/-- SEAT_TIMEOUT_EXPIRY (R43): CONTACT is declared at an UNSEATED or SEATING site; the timer does not restart. -/
def execSeatTimeoutExpiry (i : SiteNo) (s : State) : StepResult :=
  match (s.site i).seatTimeout with
  | none => .fault .timerNotRunning
  | some _ =>
    let s1 := s.setSite i { s.site i with seatTimeout := none }
    match (s.site i).posture with
    | .unseated | .seating => .next (s1.changeCond i .contact true)
    | .disabled | .clear | .seated => .next s1

/-- Whether the Condition Monitor follows a site's over-limit input (R148). -/
def State.following (s : State) (i : SiteNo) : Bool := s.enabled i && s.td.state ≠ .clear

/-- DIE_SUPPLY_ASSERTED (R148): DIE_SUPPLY is declared, the site leaves the slot-waiter set, an active job's drive is cut. -/
def execDieSupplyAsserted (i : SiteNo) (s : State) : StepResult :=
  let s1 := s.setOverLimitPin i true
  if s1.following i then
    .next ((((s1.changeCond i .dieSupply true).setSlotWaiter i false).driveCut i .dieSupplyFault).finishLift)
  else .next s1

/-- DIE_SUPPLY_DEASSERTED (R148): a declared DIE_SUPPLY clears, and admission is tested. -/
def execDieSupplyDeasserted (i : SiteNo) (s : State) : StepResult :=
  let s1 := s.setOverLimitPin i false
  if s1.following i && s1.condOf i .dieSupply then .next ((s1.changeCond i .dieSupply false).testAdmission i)
  else .next s1

end Sys2Proof.Machine
end

