-- ==== Sys2Proof/Machine/Requests.lean ====
section
/-!
DEFINITION. The Request Dispatcher and the requests (11_requests_replies_and_layouts.md, R167 to R177), with the effects that the
owning blocks' chapters give. A refused request changes nothing but the intake and output queues (R167).
-/
namespace Sys2Proof.Machine

/-! ### Taking a frame (R164, R167) -/

/-- The request kinds in use (R176). -/
def requestKinds : List Byte :=
  [0x01, 0x02, 0x03, 0x04, 0x05, 0x06, 0x07, 0x10, 0x11, 0x12, 0x13, 0x14, 0x15, 0x16]

/-- A good frame of a kind. -/
def InFrame.isRequest (kind : Byte) (f : InFrame) : Bool := f.held = none && f.kind = kind

/-- The machine with the front frame taken from the intake queue. -/
def State.dropFront (s : State) : State := { s with link := { s.link with intake := s.link.intake.tail } }

/-- The Dispatcher takes the frame at the front of the intake queue (R164), when it is one the command stands for. -/
def State.takeFrame (s : State) (is : InFrame → Bool) (act : State → InFrame → State) : StepResult :=
  if s.rst.heldInReset || s.rst.requestPending then .fault .dispatcherStopped
  else match s.link.intake with
    | [] => .fault .noSuchFrameInFront
    | f :: _ => if is f then .next (act s.dropFront f) else .fault .noSuchFrameInFront

/-- The Dispatcher takes a request of a kind. A payload length the kind does not allow is refused BAD_LENGTH with the status
alone (R167). -/
def State.takeRequest (s : State) (kind : Byte) (okLength : List Byte → Bool) (act : State → InFrame → State) : StepResult :=
  s.takeFrame (InFrame.isRequest kind)
    (fun s f => if okLength f.payload then act s f else s.reply f .badLength [])

/-- The length rule of a kind whose payload has one length (R176). -/
def lengthIs (n : Nat) (p : List Byte) : Bool := p.length = n

/-- HELD_STATUS_REPLY (R167, step 1): the held status alone. -/
def State.doHeldStatus (s : State) (f : InFrame) : State :=
  match f.held with
  | some st => s.reply f st []
  | none => s

/-- HELD_STATUS_REPLY (R167). -/
def execHeldStatusReply (s : State) : StepResult := s.takeFrame (fun f => f.held.isSome) State.doHeldStatus

/-- BAD_REQUEST (R167, step 2). -/
def execBadRequest (s : State) : StepResult :=
  s.takeFrame (fun f => f.held = none && f.kind ∉ requestKinds) (fun s f => s.reply f .badRequest [])

/-! ### IDENTIFY and STATUS (R168, R169) -/

/-- The fields of the IDENTIFY reply (R168, R177). -/
def State.identifyFields (s : State) : List Byte :=
  bytesLE 2 Config.vendorCode.toNat ++ bytesLE 2 Config.partCode.toNat ++ [Config.revision]
    ++ bytesLE 4 s.unitNumber.toNat ++ [s.link.unitAddr.setWidth 8, 16]
    ++ bytesLE 2 Config.keySlots ++ bytesLE 2 Config.logSlots ++ [BitVec.ofNat 8 Config.queueDepth]
    ++ bytesLE 2 Config.requestLimit ++ bytesLE 2 Config.replyLimit

/-- IDENTIFY (R168). -/
def execIdentify (s : State) : StepResult := s.takeRequest 0x01 (lengthIs 0) (fun s f => s.reply f .ok s.identifyFields)

/-- The phase STATUS reports for a site (R39): 0 with no active job. -/
def SiteCtl.phaseCode (c : SiteCtl) : Byte :=
  match c.job with
  | some j => j.phase.code
  | none => 0

/-- The ready flag (R63). -/
def State.ready (s : State) (i : SiteNo) : Bool := s.enabled i && (s.site i).queue.length < Config.queueDepth

/-- The attention flag (R63, R157). -/
def State.attention (s : State) (i : SiteNo) : Bool := (s.smon i).cond.any || (s.smon i).flags.any

/-- The active job tag (R63). -/
def SiteCtl.jobTag (c : SiteCtl) : BitVec 16 :=
  match c.job with
  | some j => j.posting.tag
  | none => 0

/-- A site's five bytes of the STATUS reply (R63, R177). Bits 4 to 7 of byte 2, to which R177 gives no content, are sent as 0
(DESIGN CHOICE, log entry 30). -/
def State.siteEntry (s : State) (i : SiteNo) : List Byte :=
  let c := s.site i
  [c.posture.code, c.phaseCode,
   BitVec.ofNat 8 (c.queue.length % 4) ||| (if s.ready i then 4 else 0) ||| (if s.attention i then 8 else 0)]
    ++ bytesLE 2 c.jobTag.toNat

/-- The waiting count (R169). -/
def Arbiter.waitingCount (a : Arbiter) : Nat := allSites.countP (fun i => a.waiting[i].isSome)

/-- The fields of the STATUS reply (R169, R177). -/
def State.statusFields (s : State) : List Byte :=
  [s.rst.cause.code, s.td.state.code] ++ bytesLE 4 s.td.number.toNat
    ++ bytesLE 2 s.ks.free.length ++ [BitVec.ofNat 8 s.ks.boundCount] ++ bytesLE 4 s.ks.highWater.toNat
    ++ [BitVec.ofNat 8 s.ks.waitList.length]
    ++ bytesLE 2 s.log.records.length ++ [BitVec.ofNat 8 s.log.reservations] ++ bytesLE 4 s.log.nextSeq.toNat
    ++ [BitVec.ofNat 8 s.cfg.pumpCapacity, BitVec.ofNat 8 s.arb.inUse, BitVec.ofNat 8 s.arb.waitingCount]
    ++ allSites.flatMap s.siteEntry

/-- STATUS (R169). -/
def execStatus (s : State) : StepResult := s.takeRequest 0x02 (lengthIs 0) (fun s f => s.reply f .ok s.statusFields)

/-! ### CONFIGURE (R170) -/

/-- The parameters (R170). -/
inductive ParamId where
  | pulseWidth
  | maxRounds
  | rowOpenLimit
  | dieResponseTimeout
  | seatDebounce
  | seatTimeout
  | pumpHoldLimit
  | pumpCapacity
  | poolLowThreshold
  | sitesEnabled
  deriving DecidableEq, Repr

/-- The parameter ids (R170). -/
def paramOf (b : Byte) : Option ParamId :=
  match b.toNat with
  | 0x01 => some .pulseWidth
  | 0x02 => some .maxRounds
  | 0x03 => some .rowOpenLimit
  | 0x04 => some .dieResponseTimeout
  | 0x05 => some .seatDebounce
  | 0x06 => some .seatTimeout
  | 0x07 => some .pumpHoldLimit
  | 0x08 => some .pumpCapacity
  | 0x09 => some .poolLowThreshold
  | 0x0A => some .sitesEnabled
  | _ => none

/-- The ranges (R170). Every value of SITES_ENABLED within 16 bits is in range. -/
def ParamId.range : ParamId → Nat × Nat
  | .pulseWidth => (5, 500)
  | .maxRounds => (1, 8)
  | .rowOpenLimit => (200, 10000)
  | .dieResponseTimeout => (20, 1000)
  | .seatDebounce => (500, 20000)
  | .seatTimeout => (1, 200)
  | .pumpHoldLimit => (1, 1000)
  | .pumpCapacity => (8, 128)
  | .poolLowThreshold => (0, 1023)
  | .sitesEnabled => (0, 65535)

/-- A value brought within a parameter's range (R170). -/
def ParamId.clamp (p : ParamId) (v : Nat) : Nat := max p.range.1 (min v p.range.2)

def Params.get (c : Params) : ParamId → Nat
  | .pulseWidth => c.pulseWidth
  | .maxRounds => c.maxRounds
  | .rowOpenLimit => c.rowOpenLimit
  | .dieResponseTimeout => c.dieResponseTimeout
  | .seatDebounce => c.seatDebounce
  | .seatTimeout => c.seatTimeout
  | .pumpHoldLimit => c.pumpHoldLimit
  | .pumpCapacity => c.pumpCapacity
  | .poolLowThreshold => c.poolLowThreshold
  | .sitesEnabled => c.sitesEnabled.toNat

def Params.put (c : Params) (p : ParamId) (v : Nat) : Params :=
  match p with
  | .pulseWidth => { c with pulseWidth := v }
  | .maxRounds => { c with maxRounds := v }
  | .rowOpenLimit => { c with rowOpenLimit := v }
  | .dieResponseTimeout => { c with dieResponseTimeout := v }
  | .seatDebounce => { c with seatDebounce := v }
  | .seatTimeout => { c with seatTimeout := v }
  | .pumpHoldLimit => { c with pumpHoldLimit := v }
  | .pumpCapacity => { c with pumpCapacity := v }
  | .poolLowThreshold => { c with poolLowThreshold := v }
  | .sitesEnabled => { c with sitesEnabled := BitVec.ofNat 16 v }

/-- The entries of a CONFIGURE payload (R170, R176): id and 32-bit value. -/
def entriesOf : List Byte → List (Byte × Nat)
  | id :: a :: b :: c :: d :: rest => (id, numAt [a, b, c, d] 0 4) :: entriesOf rest
  | _ => []

/-- The entries with their parameters, none where an id is unknown, is named twice, or a SITES_ENABLED value has a bit above
bit 15 (R170). -/
def readEntries : List (Byte × Nat) → Option (List (ParamId × Nat))
  | [] => some []
  | (b, v) :: rest =>
    match paramOf b, readEntries rest with
    | some p, some es =>
      if es.any (fun e => e.1 = p) || (p = .sitesEnabled && 65535 < v) then none else some ((p, v) :: es)
    | _, _ => none

/-- The id of a parameter (R170). -/
def ParamId.byte : ParamId → Byte
  | .pulseWidth => 0x01
  | .maxRounds => 0x02
  | .rowOpenLimit => 0x03
  | .dieResponseTimeout => 0x04
  | .seatDebounce => 0x05
  | .seatTimeout => 0x06
  | .pumpHoldLimit => 0x07
  | .pumpCapacity => 0x08
  | .poolLowThreshold => 0x09
  | .sitesEnabled => 0x0A

/-- The entries of a CONFIGURE reply: each id with the parameter's value as it stands (R170, R177). -/
def Params.entryFields (c : Params) (es : List (ParamId × Nat)) : List Byte :=
  es.flatMap (fun e => e.1.byte :: bytesLE 4 (c.get e.1))

/-- A SITES_ENABLED value would remove a site that has queued jobs (R40). -/
def State.removesBusySite (s : State) (v : Nat) : Bool :=
  allSites.any (fun i => s.enabled i && !v.testBit i.val && !(s.site i).queue.isEmpty)

/-- The effect of a SITES_ENABLED change on one site (R40), given the set before. -/
def State.enableSite (before : SiteSet) (s : State) (i : SiteNo) : State :=
  if s.enabled i && !before.getLsbD i.val then s.setSite i { s.site i with posture := .clear, used := false }
  else if !s.enabled i && before.getLsbD i.val then s.setSite i { s.site i with posture := .disabled }
  else s

/-- One entry is applied (R34, R40, R121, R170). -/
def State.applyEntry (s : State) (e : ParamId × Nat) : State :=
  let v := e.1.clamp e.2
  let s1 : State := { s with cfg := s.cfg.put e.1 v }
  match e.1 with
  | .poolLowThreshold => if v = s.cfg.poolLowThreshold then s1 else s1.evalPoolLowNew
  | .sitesEnabled => forSites (State.enableSite s.cfg.sitesEnabled) s1
  | _ => s1

/-- CONFIGURE with its length right (R170). -/
def State.doConfigure (s : State) (f : InFrame) : State :=
  match readEntries (entriesOf f.payload) with
  | none => s.reply f .badField []
  | some es =>
    if s.td.state ≠ .clear then s.reply f .touchdownOpen (s.cfg.entryFields es)
    else if es.any (fun e => e.1 = .sitesEnabled && s.removesBusySite e.2) then
      s.reply f .siteBusy (s.cfg.entryFields es)
    else
      let s1 := es.foldl State.applyEntry s
      let st := if es.any (fun e => e.1.clamp e.2 ≠ e.2) then Status.clamped else Status.ok
      s1.reply f st (s1.cfg.entryFields es)

/-- The length rule of CONFIGURE (R170): a multiple of 5, from 5 to 50. -/
def configureLength (p : List Byte) : Bool := p.length % 5 = 0 && 5 ≤ p.length && p.length ≤ 50

/-- CONFIGURE (R170). -/
def execConfigure (s : State) : StepResult := s.takeRequest 0x03 configureLength State.doConfigure

/-! ### SET ENABLES and READ EVENTS (R152, R155) -/

/-- The enables that a SET ENABLES payload gives one site (R152, R176). -/
def State.loadEnables (p : List Byte) (s : State) (i : SiteNo) : State :=
  s.setSmon i { s.smon i with
    enable := (numAt p 0 2).testBit i.val
    source := {
      contact := (numAt p 2 2).testBit i.val
      link := (numAt p 4 2).testBit i.val
      dieSupply := (numAt p 6 2).testBit i.val } }

/-- The global enables of a SET ENABLES payload (R176); bits 4 to 7 are ignored (R173). -/
def globalEnables (p : List Byte) : GlobalBits :=
  let b := byteAt p 8
  { pump := b.getLsbD 0, poolLow := b.getLsbD 1, logHigh := b.getLsbD 2, recordAdded := b.getLsbD 3 }

/-- SET ENABLES with its length right (R152): the whole set replaced, the throttle test for all 17 scopes, then the reply. -/
def State.doSetEnables (s : State) (f : InFrame) : State :=
  let s1 := forSites (State.loadEnables f.payload) s
  let s2 : State := { s1 with mon := { s1.mon with enables := globalEnables f.payload } }
  (allScopes.foldl State.throttle s2).reply f .ok []

/-- SET_ENABLES (R152). -/
def execSetEnables (s : State) : StepResult := s.takeRequest 0x04 (lengthIs 9) State.doSetEnables

/-- The scope a byte names, none above 16 (R155). -/
def scopeOf (b : Byte) : Option Scope :=
  if h : b.toNat < 16 then some (.site ⟨b.toNat, h⟩) else if b.toNat = 16 then some .global else none

/-- A scope's change flags and its notice-pending flag cleared (R155). -/
def State.clearScope (s : State) : Scope → State
  | .site i => s.setSmon i { s.smon i with flags := SiteBits.none, pending := false }
  | .global => { s with mon := { s.mon with flags := GlobalBits.none, pending := false } }

/-- READ EVENTS with its length right (R155). -/
def State.doReadEvents (s : State) (f : InFrame) : State :=
  match scopeOf (byteAt f.payload 0) with
  | none => s.reply f .badField []
  | some sc => (s.reply f .ok (s.scopeBytes sc)).clearScope sc

/-- READ_EVENTS (R155). -/
def execReadEvents (s : State) : StepResult := s.takeRequest 0x16 (lengthIs 1) State.doReadEvents

/-! ### TOUCHDOWN and LIFTOFF (R124 to R129) -/

/-- Step 3 of TOUCHDOWN at one site (R41). -/
def State.startSeating (s : State) (i : SiteNo) : State :=
  if s.enabled i then
    let c := s.site i
    let c1 : SiteCtl := { c with used := false, seatTimeout := some s.cfg.seatTimeout }
    if s.pins.contact[i] then s.setSite i { c1 with posture := .seating, debounce := some s.cfg.seatDebounce }
    else s.setSite i { c1 with posture := .unseated }
  else s

/-- Step 5 of TOUCHDOWN at one site (R148). -/
def State.sampleDieSupply (s : State) (i : SiteNo) : State :=
  if s.enabled i && s.pins.overLimit[i] then s.changeCond i .dieSupply true else s

/-- The six steps of a TOUCHDOWN taken in CLEAR (R124). -/
def State.openTouchdown (s : State) : State :=
  let s1 := s.setTd { s.td with state := .opened, number := nextNumber s.td.number }
  let s2 := forSites State.startSeating s1
  let s3 := forSites (fun s i => s.setCond i .link false) s2
  let s4 := forSites State.sampleDieSupply s3
  forSites State.testAdmission s4

/-- TOUCHDOWN with its length right (R124, R172). -/
def State.doTouchdown (s : State) (f : InFrame) : State :=
  if s.td.state = .clear then
    let s1 := s.openTouchdown
    s1.reply f .ok (tdFields s1.td.state s1.td.number 0)
  else s.reply f .touchdownOpen (tdFields s.td.state s.td.number 0)

/-- TOUCHDOWN (R124, R172). -/
def execTouchdown (s : State) : StepResult := s.takeRequest 0x05 (lengthIs 0) State.doTouchdown

/-- An orderly abort with pending end ABORTED for every active job not already in ENDING, in ascending site number (R126). -/
def State.abortAll (s : State) : State := forSites (fun s i => s.abort i .aborted) s

/-- A LIFTOFF taken in OPEN (R126), up to liftoff completion. -/
def State.beginLift (s : State) (tag : BitVec 6) (toAbort : Bool) : State :=
  let td := { s.td with state := if toAbort then .liftingAbort else .liftingDrain, deferred := some tag, liftCount := 0 }
  let s1 := (s.setTd td).setLog { s.log with slotWaiters := Vector.replicate 16 false }
  if toAbort then s1.abortAll else s1

/-- A LIFTOFF with a known mode taken in a LIFTING state (R129): ABORT upgrades a drain, anything else changes nothing. -/
def State.mergeLift (s : State) (toAbort : Bool) : State :=
  if toAbort && s.td.state = .liftingDrain then
    (s.setTd { s.td with state := .liftingAbort }).abortAll
  else s

/-- The mode a LIFTOFF names (R172): whether it is ABORT. -/
def liftMode (b : Byte) : Option Bool := if b = 0 then some false else if b = 1 then some true else none

/-- LIFTOFF with its length right (R125, R126, R129). The refusal of an unknown mode carries the touchdown number and state
(R125; log entry 10). -/
def State.doLiftoff (s : State) (f : InFrame) : State :=
  match liftMode (byteAt f.payload 0) with
  | none => s.reply f .badField (tdFields s.td.state s.td.number 0)
  | some toAbort =>
    match s.td.state with
    | .clear => s.reply f .noTouchdown (tdFields s.td.state s.td.number 0)
    | .opened => (s.beginLift f.tag toAbort).finishLift
    | .liftingDrain | .liftingAbort =>
      let s1 := s.mergeLift toAbort
      (s1.reply f .merged (tdFields s1.td.state s1.td.number s1.td.liftCount)).finishLift

/-- LIFTOFF (R126, R172). -/
def execLiftoff (s : State) : StepResult := s.takeRequest 0x06 (lengthIs 1) State.doLiftoff

/-! ### RESET UNIT (R166, R174) -/

/-- RESET UNIT with its length right: the OK reply is placed, and the Dispatcher takes no further request. -/
def State.doResetUnit (s : State) (f : InFrame) : State :=
  let s1 := s.push { source := .resetReply, kind := f.kind + 0x80, tag := f.tag, payload := [Status.ok.code] }
  { s1 with rst := { s1.rst with requestPending := true } }

/-- RESET_UNIT (R166, R174). -/
def execResetUnit (s : State) : StepResult := s.takeRequest 0x07 (lengthIs 0) State.doResetUnit

/-! ### LOAD KEYS and DISCARD KEYS (R22 to R25, R32) -/

/-- The first n keys of a LOAD KEYS payload after its count (R176). -/
def keysOf : Nat → List Byte → List Key
  | 0, _ => []
  | n + 1, p => { index := BitVec.ofNat 32 (numAt p 0 4), bytes := (p.drop 4).take 32 } :: keysOf n (p.drop 36)

/-- The indices ascend from above a given index (R22). -/
def ascending : BitVec 32 → List Key → Bool
  | _, [] => true
  | lo, k :: ks => lo < k.index && ascending k.index ks

/-- The fields of a LOAD KEYS reply (R24, R177). -/
def State.keyFields (s : State) : List Byte :=
  bytesLE 2 s.ks.free.length ++ [BitVec.ofNat 8 s.ks.boundCount] ++ bytesLE 4 s.ks.highWater.toNat

/-- Hand-out to the waiting sites in wait-list order, while keys are free (R25). Each site goes on with its key, and may end
ROW_UNREPAIRABLE, before the next one is served (DESIGN CHOICE, log entry 28). -/
def State.handOut : List SiteNo → State → State
  | [], s => s
  | i :: is, s =>
    match s.ks.free with
    | [] => s
    | key :: rest =>
      let ks := s.ks.bindFront i key rest
      State.handOut is ((s.setKs { ks with waitList := ks.waitList.filter (· ≠ i) }).giveKey i key)

/-- An accepted LOAD KEYS (R24): the keys join, the high-water index rises, waiting sites are served, POOL_LOW is evaluated. -/
def State.acceptKeys (s : State) (keys : List Key) : State :=
  let s1 := s.setKs { s.ks with
    free := s.ks.free ++ keys, highWater := (keys.getLast?.map Key.index).getD s.ks.highWater }
  (State.handOut s1.ks.waitList s1).evalPoolLow

/-- LOAD KEYS with its length right (R22, R23, R24). The reply's bound count is the one after the whole hand-out, so a site whose
job ended ROW_UNREPAIRABLE in it is not counted (DESIGN CHOICE, log entry 28). -/
def State.doLoadKeys (s : State) (f : InFrame) : State :=
  let n := (byteAt f.payload 0).toNat
  let keys := keysOf n (f.payload.drop 1)
  if !ascending s.ks.highWater keys then s.reply f .indexOrder s.keyFields
  else if Config.keySlots < s.ks.free.length + s.ks.boundCount + n then s.reply f .storeFull s.keyFields
  else
    let s1 := s.acceptKeys keys
    (s1.reply f .ok s1.keyFields).finishLift

/-- The length rule of LOAD KEYS (R22). -/
def loadKeysLength (p : List Byte) : Bool :=
  let n := (byteAt p 0).toNat
  1 ≤ n && n ≤ 16 && p.length = 1 + 36 * n

/-- LOAD_KEYS (R22 to R25). -/
def execLoadKeys (s : State) : StepResult := s.takeRequest 0x10 loadKeysLength State.doLoadKeys

/-- The index of a key at an end of the free queue, 0 for none (R32). -/
def indexOr0 (k : Option Key) : Nat := (k.map (fun k => k.index.toNat)).getD 0

/-- DISCARD KEYS with its length right (R32). -/
def State.doDiscardKeys (s : State) (f : InFrame) : State :=
  let free := s.ks.free
  let s1 := (s.setKs { s.ks with free := [] }).evalPoolLow
  s1.reply f .ok (bytesLE 2 free.length ++ bytesLE 4 (indexOr0 free.head?) ++ bytesLE 4 (indexOr0 free.getLast?))

/-- DISCARD_KEYS (R32). -/
def execDiscardKeys (s : State) : StepResult := s.takeRequest 0x11 (lengthIs 0) State.doDiscardKeys

/-! ### PROVISION and CANCEL (R46, R60) -/

/-- The job a PROVISION payload posts (R46, R176). -/
def postingOf (p : List Byte) : Posting :=
  { tag := BitVec.ofNat 16 (numAt p 1 2), lot := BitVec.ofNat 24 (numAt p 3 3)
    wafer := byteAt p 6, x := byteAt p 7, y := byteAt p 8 }

/-- The fields of a PROVISION reply (R171, R177). -/
def provisionFields (i : SiteNo) (count : Nat) : List Byte :=
  [BitVec.ofNat 8 i.val, BitVec.ofNat 8 count]

/-- A posted job joins its site's queue, and admission is tested if the queue was empty (R46, R47). -/
def State.postJob (s : State) (i : SiteNo) (p : Posting) : State :=
  let q := (s.site i).queue
  let s1 := s.setSite i { s.site i with queue := q ++ [p] }
  if q.isEmpty then s1.testAdmission i else s1

/-- PROVISION with its length right (R46). The count reported is that after the append. -/
def State.doProvision (s : State) (f : InFrame) : State :=
  match siteAt f.payload 0 with
  | none => s.reply f .badField []
  | some i =>
    let n := (s.site i).queue.length
    if !s.enabled i then s.reply f .siteDisabled (provisionFields i n)
    else if Config.queueDepth ≤ n then s.reply f .queueFull (provisionFields i n)
    else (s.postJob i (postingOf f.payload)).reply f .ok (provisionFields i (n + 1))

/-- PROVISION (R46). -/
def execProvision (s : State) : StepResult := s.takeRequest 0x12 (lengthIs 9) State.doProvision

/-- The scope of a CANCEL (R60, R176): whether it takes the queued jobs, and whether it takes the active job. -/
def cancelScope (b : Byte) : Option (Bool × Bool) :=
  if b = 0 then some (true, false)
  else if b = 1 then some (false, true)
  else if b = 2 then some (true, true)
  else none

/-- The queued jobs of a site are dropped, and it leaves the slot-waiter set (R60). -/
def State.dropQueue (s : State) (i : SiteNo) : State :=
  (s.setSite i { s.site i with queue := [] }).setSlotWaiter i false

/-- The active result of a CANCEL that takes the active job (R60): 0 NONE, 1 ABORTING, 2 ENDING. -/
def State.activeResult (s : State) (i : SiteNo) : Byte :=
  match (s.site i).job with
  | none => 0
  | some j => if j.phase = .ending then 2 else 1

/-- The tag of the k-th removed job, 0 when there is none (R171). -/
def tagBytes (q : List Posting) (k : Nat) : List Byte := bytesLE 2 ((q[k]?.map (fun p => p.tag.toNat)).getD 0)

/-- CANCEL of a site and scope (R60). -/
def State.cancelSite (s : State) (f : InFrame) (i : SiteNo) (queued takeActive : Bool) : State :=
  let removed := if queued then (s.site i).queue else []
  let result := if takeActive then s.activeResult i else 0
  let s1 := if queued then s.dropQueue i else s
  let s2 := if takeActive then s1.abort i .aborted else s1
  (s2.reply f .ok (BitVec.ofNat 8 removed.length :: tagBytes removed 0 ++ tagBytes removed 1 ++ [result])).finishLift

/-- CANCEL with its length right (R60). -/
def State.doCancel (s : State) (f : InFrame) : State :=
  match siteAt f.payload 0, cancelScope (byteAt f.payload 1) with
  | some i, some (queued, takeActive) => s.cancelSite f i queued takeActive
  | _, _ => s.reply f .badField []

/-- CANCEL (R60). -/
def execCancel (s : State) : StepResult := s.takeRequest 0x13 (lengthIs 2) State.doCancel

/-! ### READ RECORDS and CLEAR RECORDS (R138, R141, R142) -/

/-- How many records a READ RECORDS returns (R141). -/
def readCount (maximum limit held : Nat) : Nat := min (min (max 1 (min maximum 64)) held) ((limit - 4) / 28)

/-- READ RECORDS with its length right (R141). -/
def State.doReadRecords (s : State) (f : InFrame) : State :=
  let held := s.log.records.length
  let m := readCount (numAt f.payload 0 1) (numAt f.payload 1 2) held
  s.reply f .ok (BitVec.ofNat 8 m :: bytesLE 2 held ++ (s.log.records.take m).flatMap Record.bytes)

/-- READ_RECORDS (R141). -/
def execReadRecords (s : State) : StepResult := s.takeRequest 0x14 (lengthIs 3) State.doReadRecords

/-- A freed slot is handed to a waiting site (R138). -/
def State.handSlot (s : State) (i : SiteNo) : State :=
  if s.log.slotWaiters[i] && s.log.slotsInUse < Config.logSlots then (s.setSlotWaiter i false).admitHead i else s

/-- CLEAR RECORDS with its length right (R142): records removed from the head, freed slots handed out, LOG_HIGH evaluated. -/
def State.doClearRecords (s : State) (f : InFrame) : State :=
  let n := numAt f.payload 0 2
  let removed := s.log.records.take n
  let kept := s.log.records.drop n
  let s1 := s.setLog { s.log with records := kept }
  let s2 := if s1.td.state = .opened then forSites State.handSlot s1 else s1
  s2.evalLogHigh.reply f .ok (bytesLE 2 removed.length ++ bytesLE 2 kept.length
    ++ bytesLE 4 ((removed.getLast?.map (fun r => r.seq.toNat)).getD 0))

/-- CLEAR_RECORDS (R142). -/
def execClearRecords (s : State) : StepResult := s.takeRequest 0x15 (lengthIs 2) State.doClearRecords

end Sys2Proof.Machine
end

