-- ==== Sys2Proof/Machine/Reset.lean ====
section
/-!
DEFINITION. Power-on, the reset line and release from reset (R174).
-/
namespace Sys2Proof.Machine

/-- POWER_ON (R174): unit reset with cause POWER_ON, held until release. -/
def execPowerOn (s : State) : StepResult := .next (s.blocksReset .powerOn true)

/-- RESET_LINE_ASSERTED (R174): unit reset with cause LINE, held until release. -/
def execResetLineAsserted (s : State) : StepResult := .next (s.blocksReset .line true)

/-- RESET_RELEASED (R174): straps sampled, conditions evaluated from their inputs, the receiver hunts. -/
def execResetReleased (s : State) : StepResult :=
  if s.rst.heldInReset then .next s.leaveReset else .fault .notHeldInReset

end Sys2Proof.Machine
end

