-- ==== Sys2Proof/Machine/Supply.lean ====
section
/-!
DEFINITION. Events of the programming supply (R117 to R119).
-/
namespace Sys2Proof.Machine

def State.setPumpPin (s : State) (v : Bool) : State := { s with pins := { s.pins with pumpFault := v } }

/-- PUMP_FAULT_ASSERTED (R117, R118): PUMP is declared and the pump hold timer starts. While the K16 is held in reset only the
input's level changes; PUMP is evaluated at release (R174). -/
def execPumpFaultAsserted (s : State) : StepResult :=
  let s1 := s.setPumpPin true
  if s1.rst.heldInReset then .next s1
  else .next ((s1.setArb { s1.arb with pump := true, holdTimer := some s1.cfg.pumpHoldLimit }).latchGlobal .pump)

/-- PUMP_FAULT_DEASSERTED (R117): PUMP clears, the hold timer stops, timeout in force clears, the grant test runs. -/
def execPumpFaultDeasserted (s : State) : StepResult :=
  let s1 := s.setPumpPin false
  if s1.rst.heldInReset then .next s1
  else .next ((s1.setArb { s1.arb with
    pump := false, holdTimer := none, timeoutInForce := false }).latchGlobal .pump).grantTest

/-- The orderly abort of a site whose request was in the waiting set (R119). -/
def State.abortWaiter (a : Arbiter) (s : State) (i : SiteNo) : State :=
  if a.waiting[i].isSome then s.abort i .pumpTimeout else s

/-- PUMP_HOLD_EXPIRY (R119): timeout in force is set, every waiting request is removed, and the job of each starts an orderly
abort, in ascending site number. -/
def execPumpHoldExpiry (s : State) : StepResult :=
  match s.arb.holdTimer with
  | none => .fault .timerNotRunning
  | some _ =>
    let s1 := s.setArb { s.arb with
      holdTimer := none, timeoutInForce := true, waiting := Vector.replicate 16 none }
    .next (forSites (State.abortWaiter s.arb) s1).finishLift

end Sys2Proof.Machine
end

