-- ==== Sys2Proof/Machine/Dispatch.lean ====
section
/-!
DEFINITION. What each command does to everything but the queue of waiting commands: one arm per row of the opcode table.
-/
namespace Sys2Proof.Machine

def exec (i : Instr) (s : State) : Host.Outcome State Fault Refusal :=
  match i with
  | .controlLinkByteReceived b stopHigh => Sys2Proof.Machine.execControlLinkByteReceived b stopHigh s
  | .gapTimerExpiry => Sys2Proof.Machine.execGapTimerExpiry s
  | .frameLastByteSent => Sys2Proof.Machine.execFrameLastByteSent s
  | .heldStatusReply => Sys2Proof.Machine.execHeldStatusReply s
  | .badRequest => Sys2Proof.Machine.execBadRequest s
  | .identify => Sys2Proof.Machine.execIdentify s
  | .status => Sys2Proof.Machine.execStatus s
  | .configure => Sys2Proof.Machine.execConfigure s
  | .setEnables => Sys2Proof.Machine.execSetEnables s
  | .touchdown => Sys2Proof.Machine.execTouchdown s
  | .liftoff => Sys2Proof.Machine.execLiftoff s
  | .resetUnit => Sys2Proof.Machine.execResetUnit s
  | .loadKeys => Sys2Proof.Machine.execLoadKeys s
  | .discardKeys => Sys2Proof.Machine.execDiscardKeys s
  | .provision => Sys2Proof.Machine.execProvision s
  | .cancel => Sys2Proof.Machine.execCancel s
  | .readRecords => Sys2Proof.Machine.execReadRecords s
  | .clearRecords => Sys2Proof.Machine.execClearRecords s
  | .readEvents => Sys2Proof.Machine.execReadEvents s
  | .powerOn => Sys2Proof.Machine.execPowerOn s
  | .resetLineAsserted => Sys2Proof.Machine.execResetLineAsserted s
  | .resetReleased => Sys2Proof.Machine.execResetReleased s
  | .contactSensed n => Sys2Proof.Machine.execContactSensed n s
  | .contactDropped n => Sys2Proof.Machine.execContactDropped n s
  | .debounceExpiry n => Sys2Proof.Machine.execDebounceExpiry n s
  | .seatTimeoutExpiry n => Sys2Proof.Machine.execSeatTimeoutExpiry n s
  | .dieSupplyAsserted n => Sys2Proof.Machine.execDieSupplyAsserted n s
  | .dieSupplyDeasserted n => Sys2Proof.Machine.execDieSupplyDeasserted n s
  | .pumpFaultAsserted => Sys2Proof.Machine.execPumpFaultAsserted s
  | .pumpFaultDeasserted => Sys2Proof.Machine.execPumpFaultDeasserted s
  | .pumpHoldExpiry => Sys2Proof.Machine.execPumpHoldExpiry s
  | .dieResponseComplete n ddi openLeft => Sys2Proof.Machine.execDieResponseComplete n ddi openLeft s
  | .dieResponseDeadlineExpiry n openLeft => Sys2Proof.Machine.execDieResponseDeadlineExpiry n openLeft s
  | .settleTimerExpiry n => Sys2Proof.Machine.execSettleTimerExpiry n s
  | .openTimerExpiry n => Sys2Proof.Machine.execOpenTimerExpiry n s
  | .restTimerExpiry n => Sys2Proof.Machine.execRestTimerExpiry n s
  | .diePowerOn n cells => Sys2Proof.Machine.execDiePowerOn n cells s
  | .reset n => Sys2Proof.Machine.execReset n s
  | .closeAll n => Sys2Proof.Machine.execCloseAll n s
  | .enterProvisioning n => Sys2Proof.Machine.execEnterProvisioning n s
  | .sense n => Sys2Proof.Machine.execSense n s
  | .openRow n => Sys2Proof.Machine.execOpenRow n s
  | .pulse n toFull toWeak => Sys2Proof.Machine.execPulse n toFull toWeak s
  | .closeRow n => Sys2Proof.Machine.execCloseRow n s
  | .reload n => Sys2Proof.Machine.execReload n s
  | .readShadow n => Sys2Proof.Machine.execReadShadow n s
  | .commandFrameSent n ddo => Sys2Proof.Machine.execCommandFrameSent n ddo s

end Sys2Proof.Machine
end

