-- ==== Sys2Proof/Safety.lean ====
section
/-!
DEFINITION. The invariants of the K16 that the specification states in prose, and small vocabulary for statements about
runs of commands. Each invariant's docstring names the rules it gathers.
-/
namespace Sys2Proof.Machine

/-! ### Runs of commands -/

/-- Commands carried out one after another; the first fault or refusal ends the run. -/
def execAll : List Instr → State → Host.Outcome State Fault Refusal
  | [], s => .next s
  | c :: cs, s =>
    match exec c s with
    | .next t => execAll cs t
    | .fault f => .fault f
    | .refused r => .refused r

/-- The bytes of a frame as they arrive on the receive line, every stop bit high. -/
def bytesArrive (bs : List Byte) : List Instr := bs.map (fun b => .controlLinkByteReceived b true)

/-- A command that brings a unit reset about at once (R174). -/
def Instr.isReset : Instr → Bool
  | .powerOn => true
  | .resetLineAsserted => true
  | _ => false

/-- A command that brings a unit reset about in this state: one of the two above, or the end of the reply to RESET UNIT
(R166). -/
def State.resetsAt (s : State) (c : Instr) : Bool :=
  match c with
  | .powerOn => true
  | .resetLineAsserted => true
  | .frameLastByteSent =>
    match s.link.outq with
    | f :: _ => f.source = .resetReply
    | [] => false
  | _ => false

/-! ### Requests and their replies -/

/-- The Dispatcher is ready to take a good frame of a kind, with the given rest of the intake queue behind it (R164, R167). -/
structure State.Front (s : State) (kind : Byte) (f : InFrame) (rest : List InFrame) : Prop where
  running : s.rst.heldInReset = false
  taking : s.rst.requestPending = false
  intake : s.link.intake = f :: rest
  good : f.held = none
  kind : f.kind = kind

/-- The immediate reply to a request: kind plus 0x80, the request's tag, and a payload that begins with the status
(R165, R176, R177). -/
def replyTo (f : InFrame) (st : Status) (fields : List Byte) : OutFrame :=
  { source := .reply, kind := f.kind + 0x80, tag := f.tag, payload := st.code :: fields }

/-- The site flags or states that a byte tells, in the bits that R178 names; its other bits say nothing. -/
def SiteBits.ofByte (b : Byte) : SiteBits := { contact := b.getLsbD 0, link := b.getLsbD 1, dieSupply := b.getLsbD 2 }

/-- The global flags or states that a byte tells, in the bits that R178 names; its other bits say nothing. -/
def GlobalBits.ofByte (b : Byte) : GlobalBits :=
  { pump := b.getLsbD 0, poolLow := b.getLsbD 1, logHigh := b.getLsbD 2, recordAdded := b.getLsbD 3 }

/-- The machine with the intake queue cut down to its rest and one frame placed in the output queue. -/
def State.answered (s : State) (rest : List InFrame) (o : OutFrame) : State :=
  { s with link := { s.link with intake := rest, outq := s.link.outq ++ [o] } }

/-- The machine with the intake queue cut down to its rest. -/
def State.taken (s : State) (rest : List InFrame) : State := { s with link := { s.link with intake := rest } }

/-- What holds of a site at which a queued job may be admitted (R47, but for the job and the slot). -/
structure State.MayAdmit (s : State) (i : SiteNo) : Prop where
  opened : s.td.state = .opened
  seated : (s.site i).posture = .seated
  unused : (s.site i).used = false
  noJob : (s.site i).job = none
  supply : s.condOf i .dieSupply = false

/-- A site just after the admission of a posted job (R48): the rest of its queue, the used flag set, the wires driven, a fresh
context in BRINGUP with the touchdown number, and the die RESET being sent with a deadline of 1 ms (R49, R68). -/
def SiteCtl.admitted (c : SiteCtl) (p : Posting) (rest : List Posting) (touchdown : BitVec 32) : SiteCtl :=
  { c with
    queue := rest
    used := true
    job := some { posting := p, touchdown := touchdown, phase := .bringup, step := 0, pendingEnd := none, snapshot := []
                  image := none, lockWord := none, map := Vector.replicate 3 0, corrected := 0, pulses := 0
                  failingRow := none, engine := RowEngine.idle }
    port := { driven := true, exch := some { cmd := .reset, attempt := 1, retry := true, deadline := 1000
                                             timer := none, rx := [] } } }

/-- Whether LOG_HIGH is declared after an evaluation with that many slots in use (R143). -/
def logHighAfter (before : Bool) (slots : Nat) : Bool := if before then decide (224 < slots) else decide (240 ≤ slots)

/-- The numbers of a CONFIGURE entry, id and 32-bit value low byte first (R170, R175). -/
def entryBytes (id : Byte) (v : BitVec 32) : List Byte := id :: bytesLE 4 v.toNat

/-- Whether POOL_LOW is declared after an evaluation at a threshold with that many keys free (R33). -/
def poolLowAfter (before : Bool) (threshold free : Nat) : Bool :=
  if before then decide (free < min (threshold + 8) 1024) else decide (free < threshold)

/-! ### CANCEL (R60) -/

/-- A site's queued jobs dropped, the site out of the slot-waiter set (R60). -/
def State.unqueued (s : State) (i : SiteNo) : State :=
  { s.setSite i { s.site i with queue := [] } with
    log := { s.log with slotWaiters := s.log.slotWaiters.set i.val false i.isLt } }

/-- The fields of a CANCEL reply after its status (R60, R171, R177): how many jobs were removed, their tags, oldest first, and the
active result. -/
def cancelFields (removed : List Posting) (result : Byte) : List Byte :=
  [BitVec.ofNat 8 removed.length] ++ bytesLE 2 ((removed[0]?.map (fun p => p.tag.toNat)).getD 0)
    ++ bytesLE 2 ((removed[1]?.map (fun p => p.tag.toNat)).getD 0) ++ [result]

/-- What a CANCEL that takes the active job does first (R60): scope ACTIVE removes nothing, scope ALL the queued jobs. -/
def State.CancelsFirst (s : State) (i : SiteNo) (scope : Byte) (removed : List Posting) (u : State) : Prop :=
  (scope = 1 ∧ removed = [] ∧ u = s) ∨ (scope = 2 ∧ removed = (s.site i).queue ∧ u = s.unqueued i)

/-! ### Grants (R112, R113) -/

/-- No request waits at a site that stands before this one in scan order from the rotation pointer (R112). -/
def Arbiter.First (a : Arbiter) (i : SiteNo) : Prop :=
  ∀ k : SiteNo, (k - a.pointer).val < (i - a.pointer).val → a.waiting[k] = none

/-- An exchange just started: its command frame is being clocked out, in its first attempt (R66, R68). -/
def Exchange.fresh (cfg : Params) (c : DieCmd) (retry : Bool) : Exchange :=
  { cmd := c, attempt := 1, retry := retry, deadline := deadlineOf cfg c, timer := none, rx := [] }

/-- The machine with a site's job context and its exchange in progress given. -/
def State.siteWith (s : State) (i : SiteNo) (j : Job) (x : Option Exchange) : State :=
  s.setSite i { s.site i with job := some j, port := { (s.site i).port with exch := x } }

/-- One grant (R90, R92, R113): the request of d units leaves the waiting set for the grants in flight, U rises, the pointer goes
past the site, and the job's front chunk is pulsed at once. The count of pulses rises here (log entry 11). A site that waits
has a job (R111). -/
def State.granted (s : State) (i : SiteNo) (d : Nat) : State :=
  { s with
    sites := match (s.site i).job with
      | none => s.sites
      | some j => (s.siteWith i { j with
          pulses := min (j.pulses + 1) 65535
          engine := { j.engine with stage := .pulsing, chunks := j.engine.chunks.tail } }
          (some (Exchange.fresh s.cfg (.pulse (j.engine.chunks.headD 0)) false))).sites
    arb := { s.arb with
      waiting := s.arb.waiting.set i.val none i.isLt
      inFlight := s.arb.inFlight.set i.val (some d) i.isLt
      inUse := s.arb.inUse + d
      pointer := i + 1 } }

/-- What the grant test does, as R112 has it: it ends with PUMP declared, with nobody waiting, or with a candidate that does not
fit; otherwise it grants the candidate and is run again. -/
inductive State.Grants : State → State → Prop
  | ends (s : State)
      (h : s.arb.pump = true ∨
        ∀ (i : SiteNo) (d : Nat), s.arb.waiting[i] = some d → s.arb.First i → s.cfg.pumpCapacity < s.arb.inUse + d) :
      State.Grants s s
  | grants (s t : State) (i : SiteNo) (d : Nat) (clear : s.arb.pump = false) (waits : s.arb.waiting[i] = some d)
      (first : s.arb.First i) (fits : s.arb.inUse + d ≤ s.cfg.pumpCapacity)
      (more : State.Grants (s.granted i d) t) : State.Grants s t

/-- A waiting request or none withdrawn (R115). -/
def State.unwait (s : State) (i : SiteNo) : State :=
  { s with arb := { s.arb with waiting := s.arb.waiting.set i.val none i.isLt } }

/-- A grant of d units released (R114). -/
def State.ungrant (s : State) (i : SiteNo) (d : Nat) : State :=
  { s with arb := { s.arb with inFlight := s.arb.inFlight.set i.val none i.isLt, inUse := s.arb.inUse - d } }

/-! ### What a site goes on with -/

/-- A selection has ended at a site's die (R64): it stops sending, and the frames it holds will bring no response. -/
def State.selectionOver (s : State) (i : SiteNo) : State :=
  s.setDie i { s.die i with held := (s.die i).held.map (fun h => { h with live := false }), response := none }

/-- A site whose drive is cut (R44, R47, R56, R64, R148): it is out of the slot-waiter set, its wires are released, its exchange is
abandoned, and the selection of its die is over. -/
def State.undriven (s : State) (i : SiteNo) : State :=
  ({ s with log := { s.log with slotWaiters := s.log.slotWaiters.set i.val false i.isLt } }.setSite i
    { s.site i with port := { driven := false, exch := none } }).selectionOver i

/-- An exchange at a site has ended with DONE: the selection is over, and the job goes on with another command or with none. -/
def State.goesTo (s : State) (i : SiteNo) (j : Job) (next : Option DieCmd) : State :=
  (s.selectionOver i).siteWith i j (next.map (fun c => Exchange.fresh s.cfg c true))

/-- The event that ends an attempt at a site (R66, R67): its deadline, or the bytes that, with those already received, make up the
six of a response, whatever they say; with the time left on the site's open timer (log entry 9). -/
def endsAttempt (c : Instr) (i : SiteNo) (left : Nat) (received : List Byte) (e : Ending) : Prop :=
  (c = .dieResponseDeadlineExpiry i left ∧ e = .lost) ∨
  ∃ bs, c = .dieResponseComplete i (.bytes bs) left ∧ (received ++ bs).length = 6 ∧ (received ++ bs).head? ≠ some 0 ∧
    e = readResponse (received ++ bs)

/-- A job whose CLOSE ROW has just been sent, with what follows it (R95, R98). -/
def Job.closing (j : Job) (after : AfterClose) : Job :=
  { j with engine := { j.engine with
      stage := .closing, rowOpen := false, expired := false, openTimer := none, afterClose := after } }

/-- A job in ENDING with a pending end and every timer of its attempt stopped (R57). -/
def Job.aborting (j : Job) (p : PendingEnd) : Job :=
  { j with
    phase := .ending, pendingEnd := some p
    engine := { j.engine with openTimer := none, settleTimer := none, restTimer := none } }

/-- A job in ENDING whose one CLOSE ROW has just been sent (R57). -/
def Job.lastClose (j : Job) : Job :=
  { j with engine := { j.engine with stage := .closing, rowOpen := false, expired := false } }

/-- The verify sense is sent with the row closed and no rest timer running (R98). -/
def Job.verifying (j : Job) : Job := { j with engine := { j.engine with stage := .verifying, restTimer := none } }

/-- The machine with a site's job in GRANT_WAIT and its request of d units in the waiting set (R90, R111). -/
def State.asks (s : State) (i : SiteNo) (j : Job) (d : Nat) : State :=
  { s.siteWith i { j with engine := { j.engine with stage := .grantWait } } none with
    arb := { s.arb with waiting := s.arb.waiting.set i.val (some d) i.isLt } }

/-- What the Row Engine does about the front chunk still to do, from a state without an exchange at its site, by way of the
open-time guard (R93). With the row open in time it makes a grant request, which waits and is tested (R90, R111), or under
timeout in force ends the job PUMP_TIMEOUT by one CLOSE ROW (R111, R119). With the row open and too little time left, or the
open time expired, it closes the row (R93, R95). With the row closed it reopens it: at once, after the rest, or, the reopen
count being 4, not at all, and the attempt goes to verify (R96, R97). -/
def State.TurnsToChunk (s : State) (i : SiteNo) (j : Job) (t : State) : Prop :=
  ∀ (chunk : Row) (tl : List Row), j.engine.chunks = chunk :: tl →
    (∀ n, j.engine.rowOpen = true → j.engine.openTimer = some n →
      (j.engine.expired = false → s.cfg.pulseWidth ≤ n →
        (s.arb.timeoutInForce = false → (s.asks i j (cellCount chunk)).Grants t) ∧
        (s.arb.timeoutInForce = true →
          t = s.siteWith i (j.aborting .pumpTimeout).lastClose
            (some (Exchange.fresh s.cfg (.closeRow j.engine.regionRow) false)))) ∧
      (j.engine.expired = true ∨ n < s.cfg.pulseWidth →
        t = s.siteWith i (j.closing .chunk) (some (Exchange.fresh s.cfg (.closeRow j.engine.regionRow) true)))) ∧
    (j.engine.rowOpen = true → j.engine.openTimer = none → j.engine.expired = true →
      t = s.siteWith i (j.closing .chunk) (some (Exchange.fresh s.cfg (.closeRow j.engine.regionRow) true))) ∧
    (j.engine.rowOpen = false →
      (4 ≤ j.engine.reopens →
        t = s.siteWith i ({ j with engine := { j.engine with chunks := [] } } : Job).verifying
          (some (Exchange.fresh s.cfg (.sense j.engine.regionRow .normal) true))) ∧
      (j.engine.reopens < 4 →
        (∀ r, j.engine.restTimer = some r →
          t = s.siteWith i { j with engine := { j.engine with stage := .resting } } none) ∧
        (j.engine.restTimer = none →
          t = s.siteWith i { j with engine := { j.engine with
              stage := .opening, rowOpen := true, reopens := j.engine.reopens + 1 } }
            (some (Exchange.fresh s.cfg (.openRow j.engine.regionRow) true)))))

/-- The Row Engine at the start of an attempt that goes on (R84, R85), given the snapshot row: VERIFYING when the target set is
empty, else OPENING with the row open in the K16's accounting. -/
def RowEngine.started (p : Purpose) (r : RegionRow) (word snap : Row) : RowEngine :=
  { RowEngine.idle with
    stage := if word &&& ~~~snap = 0 then .verifying else .opening
    regionRow := r
    purpose := p
    word := word
    target := word &&& ~~~snap
    conflicts := cellCount (snap &&& ~~~word)
    rowOpen := decide (word &&& ~~~snap ≠ 0) }

/-- The first die command of such an attempt (R85, R87, R98). -/
def firstCommand (r : RegionRow) (word snap : Row) : DieCmd :=
  if word &&& ~~~snap = 0 then .sense r .normal else .openRow r

/-- The issue record of a job at its end, whatever becomes of the site's context (R62). -/
def State.lastRecord (s : State) (i : SiteNo) (j : Job) (o : JobOutcome) : Record :=
  { seq := s.log.nextSeq, posting := j.posting, site := i, touchdown := j.touchdown, outcome := o
    disposition := if (s.ks.bound[i]).isNone then .none else if 0 < o.value then .issued else .retired
    keyIndex := (s.ks.bound[i]).map Key.index, relocated := relocatedCount j.map, corrected := j.corrected
    pulses := j.pulses
    failingRow := if o = .rowUnrepairable ∨ o = .lockFailed then j.failingRow else none }

/-- A job has ended at a site (R55): its context is gone, no exchange is in progress, its record stands at the tail of the log in
place of its reservation, its key is gone, and RECORD_ADDED is latched. -/
structure State.JobEnded (s t : State) (i : SiteNo) (j : Job) (o : JobOutcome) : Prop where
  job : (t.site i).job = none
  exchange : (t.site i).port = { (s.site i).port with exch := none }
  queue : (t.site i).queue = (s.site i).queue ∧ (t.site i).used = (s.site i).used
  record : t.log.records = s.log.records ++ [s.lastRecord i j o]
  reservation : t.log.reservations = s.log.reservations - 1
  key : t.ks = { s.ks with
    bound := s.ks.bound.set i.val none i.isLt, waitList := s.ks.waitList.filter (fun k => decide (k ≠ i)) }
  recordAdded : t.mon.flags = { s.mon.flags with recordAdded := true }

/-- Touchdown Control after a job has ended at a site (R130, R131): a lift counts the end, and is complete when no other job is
active. -/
def State.tdAfterEnd (s : State) (i : SiteNo) : Touchdown :=
  if s.td.state.lifting = false then s.td
  else if ∃ k : SiteNo, k ≠ i ∧ s.active k = true then { s.td with liftCount := s.td.liftCount + 1 }
  else { s.td with state := .clear, deferred := none, liftCount := 0 }

/-- What a job end at a site leaves as it was, and what it makes of a lift: no other site's job or port is touched, and without
a liftoff completion nothing else of another site either. -/
structure State.OnlyEnds (s t : State) (i : SiteNo) : Prop where
  others : ∀ k : SiteNo, k ≠ i → (t.site k).job = (s.site k).job ∧ (t.site k).port = (s.site k).port
  arb : t.arb = s.arb
  cfg : t.cfg = s.cfg
  dies : t.dies = s.dies
  td : t.td = s.tdAfterEnd i
  still : t.td.state = s.td.state → (∀ k : SiteNo, k ≠ i → t.site k = s.site k) ∧ (t.site i).posture = (s.site i).posture

/-- What a move of a job at the end of an exchange brings about: its next command sent, or its end. -/
def State.MovesOn (s : State) (i : SiteNo) (m : Move) (t : State) : Prop :=
  (∀ cmd, m.2 = .send cmd true → t = s.goesTo i m.1 (some cmd)) ∧ (∀ o, m.2 = .finish o → s.JobEnded t i m.1 o)

/-! ### Issue Log -/

/-- Sequence numbers that go up by one from record to record, with the wrap of R140. -/
def followOn : List Record → Prop
  | [] => True
  | [_] => True
  | a :: b :: rest => b.seq = nextNumber a.seq ∧ followOn (b :: rest)

/-- R140: the numbers of the records held ascend by one from head to tail, none is 0, and the next sequence number
follows the tail's. -/
structure State.SeqInv (s : State) : Prop where
  nextNonzero : s.log.nextSeq ≠ 0
  nonzero : ∀ r ∈ s.log.records, r.seq ≠ 0
  chain : followOn s.log.records
  last : ∀ r, s.log.records.getLast? = some r → s.log.nextSeq = nextNumber r.seq

/-- R135 and R137: records plus reservations never exceed 256, the reservations are the active jobs, and the slot-waiter set
holds only sites for which the first five conditions of admission hold (R47) and that have a queued job. -/
structure State.LogInv (s : State) : Prop where
  room : s.log.slotsInUse ≤ Config.logSlots
  account : s.log.reservations = allSites.countP s.active
  waiters : ∀ i : SiteNo, s.log.slotWaiters[i] = true → s.readyToAdmit i = true

/-! ### Control link -/

/-- The link after a frame for this unit is complete and the receiver hunts again (R163): it takes a free intake slot; with none,
it is answered OVERRUN while fewer than two such replies wait, and is else discarded. -/
def Link.afterFrame (l : Link) (f : InFrame) : Link :=
  if l.slotsHeld < 4 then { l with rx := Receiver.hunting, intake := l.intake ++ [f] }
  else if l.overrunsWaiting < 2 then { l with
    rx := Receiver.hunting
    outq := l.outq ++ [{ source := .overrun, kind := f.kind + 0x80, tag := f.tag, payload := [0x14] }] }
  else { l with rx := Receiver.hunting }

/-- R163 and R164: at most four intake slots are held, and at most two OVERRUN replies wait. -/
structure State.LinkInv (s : State) : Prop where
  slots : s.link.slotsHeld ≤ Config.intakeSlots
  overruns : s.link.overrunsWaiting ≤ 2

/-! ### Sites, key store and arbiter -/

/-- R40: a site is DISABLED exactly when it is not in SITES_ENABLED. -/
def State.PostureInv (s : State) : Prop :=
  ∀ i : SiteNo, (s.site i).posture = .disabled ↔ s.enabled i = false

/-- The stages in which a row attempt has no exchange in progress. -/
def Stage.idleWait : Stage → Bool
  | .settling => true
  | .grantWait => true
  | .resting => true
  | _ => false

/-- The phases before a job has its key. -/
def Phase.early : Phase → Bool
  | .bringup => true
  | .blankCheck => true
  | .keyWait => true
  | _ => false

/-- What holds at a site with an active job. -/
structure State.JobOk (s : State) (i : SiteNo) (j : Job) : Prop where
  /-- A touchdown is open or lifting (R83). -/
  touchdown : s.td.state ≠ .clear
  /-- The site is SEATED (R44, R47) and its wires are driven (R48, R56). -/
  seated : (s.site i).posture = .seated
  driven : (s.site i).port.driven = true
  /-- The used flag is set (R48). -/
  used : (s.site i).used = true
  /-- No site condition is declared (R83). -/
  noLink : s.condOf i .link = false
  noDieSupply : s.condOf i .dieSupply = false
  /-- With an exchange in progress the attempt is in none of the stages that have none (R84). -/
  exchange : (s.site i).port.exch.isSome = true → j.engine.stage.idleWait = false
  /-- A settle timer runs only in SETTLING (R87). -/
  settle : j.engine.settleTimer.isSome = true → j.engine.stage = .settling
  /-- A waiting request asks for the cells of the chunk in hand, and has no exchange and no grant beside it (R90, R111). -/
  waiting : ∀ d, s.arb.waiting[i] = some d →
    (s.site i).port.exch = none ∧ s.arb.inFlight[i] = none ∧ j.engine.stage = .grantWait ∧
      d = cellCount (j.engine.chunks.headD 0)
  /-- A grant in flight is held by one PULSE exchange, whose mask has as many cells as units were granted (R90, R113). -/
  inFlight : ∀ d, s.arb.inFlight[i] = some d →
    ∃ x m, (s.site i).port.exch = some x ∧ x.cmd = .pulse m ∧ cellCount m = d
  /-- Every PULSE exchange is under a grant (R90). -/
  pulse : ∀ x, (s.site i).port.exch = some x → x.cmd.isPulse = true → s.arb.inFlight[i].isSome = true
  /-- Before the bind point the Row Engine is IDLE (R84), no key is bound (R19) and no units are held. -/
  early : j.phase.early = true → j.engine = RowEngine.idle ∧ s.ks.bound[i] = none ∧ s.arb.inFlight[i] = none
  /-- A job in KEY_WAIT stands in the wait list and has no exchange in progress (R21, R27). -/
  keyWait : j.phase = .keyWait → i ∈ s.ks.waitList ∧ (s.site i).port.exch = none
  /-- Only a job in KEY_WAIT stands in the wait list (R21). -/
  inList : i ∈ s.ks.waitList → j.phase = .keyWait

/-- What holds at a site without an active job: nothing is in progress, waiting, granted or bound. -/
structure State.NoJobOk (s : State) (i : SiteNo) : Prop where
  exchange : (s.site i).port.exch = none
  waiting : s.arb.waiting[i] = none
  inFlight : s.arb.inFlight[i] = none
  bound : s.ks.bound[i] = none
  inList : i ∉ s.ks.waitList

/-- What holds at every site. -/
structure State.SiteOk (s : State) (i : SiteNo) : Prop where
  job : ∀ j, (s.site i).job = some j → s.JobOk i j
  noJob : (s.site i).job = none → s.NoJobOk i
  /-- CONTACT is not declared on a SEATED site (R47, R149). -/
  contact : (s.site i).posture = .seated → s.condOf i .contact = false
  /-- A declared LINK goes with a used flag until the next TOUCHDOWN (R71). -/
  link : s.condOf i .link = true → (s.site i).used = true ∨ s.td.state = .clear

/-- The units of all grants in flight (R110). -/
def Arbiter.unitsInFlight (a : Arbiter) : Nat := (allSites.map (fun i => a.inFlight[i].getD 0)).sum

/-- R83, R110, R111, R113, R21 and R19 together: what ties sites, ports, Supply Arbiter and Key Store to each other. -/
structure State.SiteInv (s : State) : Prop where
  sites : ∀ i, s.SiteOk i
  /-- U is the sum of the grants in flight (R110). -/
  units : s.arb.inUse = s.arb.unitsInFlight
  /-- The units granted and not yet released never exceed PUMP_CAPACITY (R113). -/
  capacity : s.arb.inUse ≤ s.cfg.pumpCapacity
  /-- The wait list holds each site at most once, and is empty while a key is free (R21). -/
  once : s.ks.waitList.Nodup
  waitEmpty : s.ks.waitList ≠ [] → s.ks.free = []

/-- R18 and R20: the free indices ascend strictly, none exceeds the high-water index, and free and bound keys together are at
most 1024. -/
structure State.KeyInv (s : State) : Prop where
  ascending : s.ks.free.Pairwise (fun a b => a.index < b.index)
  below : ∀ k ∈ s.ks.free, k.index ≤ s.ks.highWater
  room : s.ks.free.length + s.ks.boundCount ≤ Config.keySlots

/-- R170: every parameter is within its range. -/
structure State.RangeInv (s : State) : Prop where
  pulseWidth : 5 ≤ s.cfg.pulseWidth ∧ s.cfg.pulseWidth ≤ 500
  maxRounds : 1 ≤ s.cfg.maxRounds ∧ s.cfg.maxRounds ≤ 8
  rowOpenLimit : 200 ≤ s.cfg.rowOpenLimit ∧ s.cfg.rowOpenLimit ≤ 10000
  dieResponseTimeout : 20 ≤ s.cfg.dieResponseTimeout ∧ s.cfg.dieResponseTimeout ≤ 1000
  seatDebounce : 500 ≤ s.cfg.seatDebounce ∧ s.cfg.seatDebounce ≤ 20000
  seatTimeout : 1 ≤ s.cfg.seatTimeout ∧ s.cfg.seatTimeout ≤ 200
  pumpHoldLimit : 1 ≤ s.cfg.pumpHoldLimit ∧ s.cfg.pumpHoldLimit ≤ 1000
  pumpCapacity : 8 ≤ s.cfg.pumpCapacity ∧ s.cfg.pumpCapacity ≤ 128
  poolLowThreshold : s.cfg.poolLowThreshold ≤ 1023

/-- R126, R130 and R131: while LIFTING some job is active, and a deferred reply is owed exactly while LIFTING. -/
structure State.LiftInv (s : State) : Prop where
  active : s.td.state.lifting = true → s.anyActive = true
  deferred : s.td.deferred.isSome = s.td.state.lifting

/-! ### Dies -/

/-- A frame whose code is that of a die command (R65). -/
def HeldFrame.Known (h : HeldFrame) : Prop :=
  h.frame.code ∈ ([0x01, 0x02, 0x03, 0x10, 0x11, 0x12, 0x13, 0x20, 0x21] : List Byte)

/-- R75: a die answers a frame of an unknown code as soon as it comes to it, with no command of the table (DEDUCED, log entry 19),
so the oldest frame it holds is of a known code. -/
def State.DieInv (s : State) : Prop := ∀ i : SiteNo, ∀ h ∈ (s.die i).held.head?, h.Known

/-- A die has carried out the oldest frame it held, and the frames behind it are left to it. The answer, a status byte and data,
is sent when the selection of that frame is still on (R75). -/
def State.dieAnswered (s : State) (i : SiteNo) (live : Bool) (more : List HeldFrame) (d : Die) (status : Byte)
    (data : BitVec 32) : StepResult :=
  .next (s.setDie i { d with held := more, response := if live then some (responseBytes status data) else d.response })

/-- The data that a RELOAD takes from an image-row read (R81): the decoded data, or data cells 0 to 23 as they stand. -/
def reloadedData (read : Row) : BitVec 24 :=
  match decodeRow read with
  | .clean data => data
  | .corrected data => data
  | .uncorrectable => read.setWidth 24

/-- The decoded data of a lock-row read by the four conditions of R16, none where one of them fails. -/
def lockReadData (read : Row) : Option (BitVec 24) :=
  (decodeRow read).data?.filter (fun data => read.getLsbD 31 && data.toNat % 256 = 0xC3 && data.getLsbD 23)

/-- Map entry e of decoded lock-row data (R10). -/
def entryAt (data : BitVec 24) (e : Fin 3) : Nat := data.toNat / 2 ^ (8 + 5 * e.val) % 32

/-- The region row at which a RELOAD reads image row k (R81), given the data of a valid lock-row read or none: that of the
lowest spare whose entry names k, or its own. -/
def ReadAt (map : Option (BitVec 24)) (k : Fin 16) (r : RegionRow) : Prop :=
  (∃ data e, map = some data ∧ entryAt data e = k.val + 1 ∧ (∀ e' : Fin 3, e' < e → entryAt data e' ≠ k.val + 1) ∧
    r = spareRow e) ∨
  ((∀ data, map = some data → ∀ e : Fin 3, entryAt data e ≠ k.val + 1) ∧ r = ownRow k)

end Sys2Proof.Machine
end

