-- ==== Sys2Proof/Certificates/Slice0/Obligations.lean ====
section
/-!
DEFINITION. The statements about the K16 for the provers. Each docstring names the rules it formalises; where a statement
rests on a choice of the model it says so and names the log entry. -/
open Sys2Proof Sys2Proof.Machine


/-! ### The queue of commands and unit reset -/

/-- The command in front is carried out on the state without it, and nothing else happens in a step (the block's queue;
95_what_each_step_holds.md). On an empty queue a step changes nothing, which is the model's choice (log entry 14). -/
def Obligations.StepTakesFrontCommand : Prop :=
  (∀ (s : State) (c : Instr) (rest : List Instr), s.pending = c :: rest → step s = exec c { s with pending := rest }) ∧
  (∀ s : State, s.pending = [] → step s = .next s)

/-- R174, with each block's own values (R37, R122, R123, R134, R147, R166, R170): power-on and the reset line bring every block
to its reset value and hold the K16 in reset. The inputs, the unit number, the dies' cells and the waiting commands stay. That
the reset ends a die's selection, so that the frames it holds bring no response, and leaves its cells is inferred from R73 and
R74 (log entry 19). PUMP clear while held is the model's choice (log entry 15). -/
def Obligations.PowerOnAndResetLineResetEveryBlock : Prop :=
  ∀ s : State, ∀ p ∈ ([(.powerOn, .powerOn), (.resetLineAsserted, .line)] : List (Instr × ResetCause)),
    ∃ t, exec p.1 s = .next t ∧
      t.rst = { heldInReset := true, cause := p.2, requestPending := false } ∧
      t.link.rx = { mode := .hunt, header := [], payload := [], crc := [], skipLeft := 0, skipAnswer := false, gap := none } ∧
      t.link.intake = [] ∧ t.link.outq = [] ∧
      t.cfg = { pulseWidth := 20, maxRounds := 3, rowOpenLimit := 2000, dieResponseTimeout := 100, seatDebounce := 2000,
                seatTimeout := 20, pumpHoldLimit := 50, pumpCapacity := 48, poolLowThreshold := 32,
                sitesEnabled := 0xFFFF } ∧
      t.td = { state := .clear, number := 0, deferred := none, liftCount := 0 } ∧
      t.ks = { free := [], bound := Vector.replicate 16 none, highWater := 0, waitList := [], poolLow := true } ∧
      t.arb = { inUse := 0, pointer := 0, waiting := Vector.replicate 16 none, inFlight := Vector.replicate 16 none,
                pump := false, holdTimer := none, timeoutInForce := false } ∧
      t.log = { records := [], reservations := 0, nextSeq := 1, slotWaiters := Vector.replicate 16 false,
                logHigh := false } ∧
      t.mon.pending = false ∧
      t.mon.flags = { pump := false, poolLow := false, logHigh := false, recordAdded := false } ∧
      t.mon.enables = { pump := false, poolLow := false, logHigh := false, recordAdded := false } ∧
      (∀ i : SiteNo, t.smon i =
        { cond := { contact := false, link := false, dieSupply := false }
          flags := { contact := false, link := false, dieSupply := false }
          source := { contact := false, link := false, dieSupply := false }
          enable := false, pending := false }) ∧
      (∀ i : SiteNo, t.site i =
        { posture := .clear, debounce := none, seatTimeout := none, queue := [], used := false, job := none
          port := { driven := false, exch := none } }) ∧
      (∀ i : SiteNo, (t.die i).cells = (s.die i).cells ∧ (t.die i).response = none ∧
        ∀ h ∈ (t.die i).held, h.live = false) ∧
      t.pins = s.pins ∧ t.unitNumber = s.unitNumber ∧ t.pending = s.pending

/-- R174, R166, R122: release from reset samples the straps and evaluates PUMP from its input without latching a flag, with
the pump hold timer started when PUMP is declared. A release while not held in reset is a fault of the model
(log entry 7). -/
def Obligations.ReleaseSamplesStrapsAndPump : Prop :=
  (∀ s : State, s.rst.heldInReset = true →
    exec .resetReleased s = .next { s with
      rst := { s.rst with heldInReset := false }
      link := { s.link with unitAddr := s.pins.straps }
      arb := { s.arb with
        pump := s.pins.pumpFault
        holdTimer := if s.pins.pumpFault then some s.cfg.pumpHoldLimit else none } }) ∧
  (∀ s : State, s.rst.heldInReset = false → exec .resetReleased s = .fault .notHeldInReset)

/-- R166, R174: RESET UNIT places its OK reply, stops the Dispatcher, and changes nothing else; the unit reset comes with the
last byte of that reply, with cause REQUEST and the straps and PUMP taken from the inputs. At each die it ends the selection, so
that a frame still held brings no response and a response being sent stops, while the die keeps its mode, open row, pulse width,
shadow and cells: this is inferred from R64, R73 and R74, which do not name a unit reset (log entry 19). State keeps the bytes
of that reply as the last frame sent (log entry 5). -/
def Obligations.ResetUnitWaitsForItsReply : Prop :=
  (∀ (s : State) (f : InFrame) (rest : List InFrame), s.Front 0x07 f rest → f.payload = [] →
    exec .resetUnit s = .next
      { s.answered rest { source := .resetReply, kind := 0x87, tag := f.tag, payload := [0x00] } with
        rst := { s.rst with requestPending := true } }) ∧
  (∀ (s : State) (o : OutFrame) (rest : List OutFrame), s.link.outq = o :: rest → o.source = .resetReply →
    ∃ t, exec .frameLastByteSent s = .next t ∧
      t.rst = { heldInReset := false, cause := .request, requestPending := false } ∧
      t.link = { rx := Receiver.hunting, unitAddr := s.pins.straps, intake := [], outq := []
                 lastSent := frameBytes s.link.unitAddr o.kind o.tag o.payload } ∧
      t.cfg = Params.default ∧ t.td = Touchdown.afterReset ∧ t.ks = KeyStore.afterReset ∧ t.log = IssueLog.afterReset ∧
      t.mon = Monitor.afterReset ∧ t.sites = Vector.replicate 16 SiteCtl.afterReset ∧
      t.arb = { Arbiter.afterReset with
        pump := s.pins.pumpFault, holdTimer := if s.pins.pumpFault then some 50 else none } ∧
      t.dies = s.dies.map Die.deselect ∧ t.pins = s.pins ∧ t.unitNumber = s.unitNumber ∧ t.pending = s.pending)

/-! ### Control link -/

/-- R158, R161, R163, R166: a received byte always completes and touches nothing but the receiver and the two queues: at most one
frame joins the intake queue, when a slot is free, or one OVERRUN reply the output queue, when none is free and fewer than two
wait; the receiver then hunts. Held in reset a byte changes nothing; a low stop bit drops the frame under assembly; in HUNT a
byte that is not 0xA6 changes nothing and 0xA6 begins a header with the gap timer at 1 ms. A header grows by each byte up to
its fifth; a header whose check fails is dropped, and its bytes after the first 0xA6 among them begin a new one. The gap
timer's expiry drops the frame under assembly and returns to HUNT; with the timer stopped there is no such event
(log entry 7). -/
def Obligations.ReceiverHandlesByteAndGap : Prop :=
  (∀ (s : State) (b : Byte) (stopHigh : Bool), ∃ l : Link,
    exec (.controlLinkByteReceived b stopHigh) s = .next { s with link := l } ∧
    l.unitAddr = s.link.unitAddr ∧ l.lastSent = s.link.lastSent ∧
    ((l.intake = s.link.intake ∧ l.outq = s.link.outq) ∨
      (∃ f : InFrame, s.link.slotsHeld < 4 ∧ l.rx = Receiver.hunting ∧ l.intake = s.link.intake ++ [f] ∧
        l.outq = s.link.outq) ∨
      (∃ (k : Byte) (tag : BitVec 6), 4 ≤ s.link.slotsHeld ∧ s.link.overrunsWaiting < 2 ∧ l.rx = Receiver.hunting ∧
        l.intake = s.link.intake ∧
        l.outq = s.link.outq ++ [{ source := .overrun, kind := k + 0x80, tag := tag, payload := [0x14] }])) ∧
    (s.rst.heldInReset = true → l = s.link) ∧
    (s.rst.heldInReset = false → stopHigh = false → l = { s.link with rx := Receiver.hunting }) ∧
    (s.rst.heldInReset = false → stopHigh = true → s.link.rx.mode = .hunt → b ≠ 0xA6 → l = s.link) ∧
    (s.rst.heldInReset = false → stopHigh = true → s.link.rx.mode = .hunt → b = 0xA6 →
      l = { s.link with rx := { Receiver.hunting with mode := .header, gap := some 1 } })) ∧
  (∀ (s : State) (b : Byte), s.rst.heldInReset = false → s.link.rx.mode = .header →
    (s.link.rx.header.length < 4 → exec (.controlLinkByteReceived b true) s = .next
      { s with link := { s.link with rx := { s.link.rx with header := s.link.rx.header ++ [b], gap := some 1 } } }) ∧
    (∀ h0 h1 h2 h3, s.link.rx.header = [h0, h1, h2, h3] → b ≠ 0xFF ^^^ h0 ^^^ h1 ^^^ h2 ^^^ h3 →
      (0xA6 ∉ [h0, h1, h2, h3, b] → exec (.controlLinkByteReceived b true) s = .next
        { s with link := { s.link with rx := Receiver.hunting } }) ∧
      (∀ before after, [h0, h1, h2, h3, b] = before ++ 0xA6 :: after → 0xA6 ∉ before →
        exec (.controlLinkByteReceived b true) s = .next { s with link := { s.link with
          rx := { Receiver.hunting with mode := .header, header := after, gap := some 1 } } }))) ∧
  (∀ (s : State) (n : Nat), s.link.rx.gap = some n →
    exec .gapTimerExpiry s = .next { s with link := { s.link with rx := Receiver.hunting } }) ∧
  (∀ s : State, s.link.rx.gap = none → exec .gapTimerExpiry s = .fault .timerNotRunning)

/-- R164, R165: at its last byte the front frame leaves the output queue and nothing else changes; its bytes on the line are the
start byte, the header with its check, the payload and the CRC (R159, R160). With no frame there is no such event (log entry 7).
That State keeps the bytes of the last frame sent is the model's own (log entry 5). -/
def Obligations.SentFrameLeavesTheOutputQueue : Prop :=
  (∀ (s : State) (o : OutFrame) (rest : List OutFrame), s.link.outq = o :: rest → o.source ≠ .resetReply →
    exec .frameLastByteSent s = .next { s with link := { s.link with
      outq := rest, lastSent := frameBytes s.link.unitAddr o.kind o.tag o.payload } }) ∧
  (∀ s : State, s.link.outq = [] → exec .frameLastByteSent s = .fault .nothingToSend)

/-- R159 to R164: a whole frame sent to this unit as its bytes, with a free intake slot, ends as one good frame at the back of
the intake queue with the kind, tag and payload sent, the receiver hunting again, and nothing else changed. -/
def Obligations.WholeFrameReachesTheIntakeQueue : Prop :=
  ∀ (s : State) (kind : Byte) (tag : BitVec 6) (p : List Byte),
    s.rst.heldInReset = false → s.link.rx = Receiver.hunting → kind.toNat < 0x40 → p.length ≤ 600 →
    s.link.slotsHeld < 4 →
    execAll (bytesArrive (frameBytes s.link.unitAddr kind tag p)) s = .next { s with link := { s.link with
      intake := s.link.intake ++ [{ kind := kind, tag := tag, held := none, payload := p }] } }

/-- R162: a frame for another unit, or of a kind of 0x40 or above, passes without a trace, whatever its payload. -/
def Obligations.ForeignFrameLeavesNoTrace : Prop :=
  ∀ (s : State) (unit : BitVec 2) (kind : Byte) (tag : BitVec 6) (p : List Byte),
    s.rst.heldInReset = false → s.link.rx = Receiver.hunting → (unit ≠ s.link.unitAddr ∨ 0x40 ≤ kind.toNat) →
    p.length < 65536 → execAll (bytesArrive (frameBytes unit kind tag p)) s = .next s

/-- R162, R163: the three ways in which a frame for this unit is complete. In the CRC state, the second CRC byte completes the
frame; a wrong CRC gives a frame held with FRAME_CHECK and no payload. A frame of length 0 is complete at its header check. A
frame of more than 600 bytes is passed over, payload and CRC, and at the last of those bytes is held with BAD_LENGTH and no
payload; a frame passed over for another unit or of another kind leaves nothing. With all four slots held a complete frame is
answered OVERRUN while fewer than two such replies wait, and is discarded otherwise. -/
def Obligations.CompletedFrameTakesSlotOrOverruns : Prop :=
  (∀ (s : State) (b0 b1 : Byte), s.rst.heldInReset = false → s.link.rx.mode = .crc → s.link.rx.crc = [b0] →
    ∀ f : InFrame, f.kind = byteAt s.link.rx.header 0 → f.tag = (byteAt s.link.rx.header 1).setWidth 6 →
      (b1 ++ b0 = payloadCrc s.link.rx.payload → f.held = none ∧ f.payload = s.link.rx.payload) →
      (b1 ++ b0 ≠ payloadCrc s.link.rx.payload → f.held = some .frameCheck ∧ f.payload = []) →
      exec (.controlLinkByteReceived b1 true) s = .next { s with link :=
        if s.link.slotsHeld < 4 then { s.link with rx := Receiver.hunting, intake := s.link.intake ++ [f] }
        else if s.link.overrunsWaiting < 2 then { s.link with
          rx := Receiver.hunting
          outq := s.link.outq ++ [{ source := .overrun, kind := f.kind + 0x80, tag := f.tag, payload := [0x14] }] }
        else { s.link with rx := Receiver.hunting } }) ∧
  (∀ (s : State) (k ut hi lo b : Byte), s.rst.heldInReset = false → s.link.rx.mode = .header →
    s.link.rx.header = [k, ut, hi, lo] → b = 0xFF ^^^ k ^^^ ut ^^^ hi ^^^ lo → (ut >>> 6).setWidth 2 = s.link.unitAddr →
    k.toNat < 0x40 →
    (256 * hi.toNat + lo.toNat = 0 → exec (.controlLinkByteReceived b true) s = .next { s with
      link := s.link.afterFrame { kind := k, tag := ut.setWidth 6, held := none, payload := [] } }) ∧
    (600 < 256 * hi.toNat + lo.toNat → exec (.controlLinkByteReceived b true) s = .next { s with link := { s.link with
      rx := { Receiver.hunting with
        mode := .skip, header := [k, ut, hi, lo, b], skipLeft := 256 * hi.toNat + lo.toNat + 2, skipAnswer := true
        gap := some 1 } } })) ∧
  (∀ (s : State) (b : Byte), s.rst.heldInReset = false → s.link.rx.mode = .skip →
    (1 < s.link.rx.skipLeft → exec (.controlLinkByteReceived b true) s = .next { s with link := { s.link with
      rx := { s.link.rx with skipLeft := s.link.rx.skipLeft - 1, gap := some 1 } } }) ∧
    (s.link.rx.skipLeft = 1 →
      (s.link.rx.skipAnswer = true → exec (.controlLinkByteReceived b true) s = .next { s with
        link := s.link.afterFrame {
          kind := byteAt s.link.rx.header 0, tag := (byteAt s.link.rx.header 1).setWidth 6
          held := some .badLength, payload := [] } }) ∧
      (s.link.rx.skipAnswer = false → exec (.controlLinkByteReceived b true) s = .next
        { s with link := { s.link with rx := Receiver.hunting } })))

/-- R163, R164: at most four intake slots are held and at most two OVERRUN replies wait, after every step as before it. -/
def Obligations.StepKeepsIntakeSlots : Prop :=
  ∀ s t : State, s.LinkInv → step s = .next t → t.LinkInv

/-! ### The Request Dispatcher -/

/-- R167, steps 1 and 2: a frame held with a status is answered with that status alone, and a good frame of a kind not in use
is answered BAD_REQUEST with the status alone. Nothing else changes. -/
def Obligations.HeldAndUnknownFramesAnswered : Prop :=
  (∀ (s : State) (f : InFrame) (rest : List InFrame) (st : Status),
    s.rst.heldInReset = false → s.rst.requestPending = false → s.link.intake = f :: rest → f.held = some st →
    exec .heldStatusReply s = .next (s.answered rest (replyTo f st []))) ∧
  (∀ (s : State) (f : InFrame) (rest : List InFrame) (kind : Byte), s.Front kind f rest →
    kind ∉ ([0x01, 0x02, 0x03, 0x04, 0x05, 0x06, 0x07, 0x10, 0x11, 0x12, 0x13, 0x14, 0x15, 0x16] : List Byte) →
    exec .badRequest s = .next (s.answered rest (replyTo f .badRequest [])))

/-- R167, R176: a request whose payload length its kind does not allow is refused BAD_LENGTH with the status alone, and
nothing else changes. The list gives each request's command, its kind and the lengths it allows. -/
def Obligations.WrongLengthRefused : Prop :=
  ∀ r ∈ ([(.identify, 0x01, fun p => p.length = 0), (.status, 0x02, fun p => p.length = 0),
      (.configure, 0x03, fun p => p.length % 5 = 0 ∧ 5 ≤ p.length ∧ p.length ≤ 50),
      (.setEnables, 0x04, fun p => p.length = 9), (.touchdown, 0x05, fun p => p.length = 0),
      (.liftoff, 0x06, fun p => p.length = 1), (.resetUnit, 0x07, fun p => p.length = 0),
      (.loadKeys, 0x10, fun p => ∃ n : Nat, (p.head?.map BitVec.toNat) = some n ∧ 1 ≤ n ∧ n ≤ 16 ∧ p.length = 1 + 36 * n),
      (.discardKeys, 0x11, fun p => p.length = 0), (.provision, 0x12, fun p => p.length = 9),
      (.cancel, 0x13, fun p => p.length = 2), (.readRecords, 0x14, fun p => p.length = 3),
      (.clearRecords, 0x15, fun p => p.length = 2), (.readEvents, 0x16, fun p => p.length = 1)] :
      List (Instr × Byte × (List Byte → Prop))),
    ∀ (s : State) (f : InFrame) (rest : List InFrame), s.Front r.2.1 f rest → ¬ r.2.2 f.payload →
      exec r.1 s = .next (s.answered rest (replyTo f .badLength []))

/-- R168, R169, R177, R63, R36, R145: IDENTIFY answers vendor, part, revision, unit number, unit address, sites, key slots, log
slots, queue depth, largest request and largest reply payload; STATUS answers the state of every block at its event. Each
changes nothing else. Bits 4 to 7 of byte 2 of a site's entry, to which R177 gives no content, are 0 by the model's choice (log
entry 30). -/
def Obligations.IdentifyAndStatusReport : Prop :=
  (∀ (s : State) (f : InFrame) (rest : List InFrame), s.Front 0x01 f rest → f.payload = [] →
    exec .identify s = .next (s.answered rest (replyTo f .ok
      ([0x3E, 0x0A, 0x16, 0x0B, 0x01] ++ bytesLE 4 s.unitNumber.toNat
        ++ [s.link.unitAddr.setWidth 8, 16, 0x00, 0x04, 0x00, 0x01, 2, 0x58, 0x02, 0x00, 0x08])))) ∧
  (∀ (s : State) (f : InFrame) (rest : List InFrame), s.Front 0x02 f rest → f.payload = [] →
    exec .status s = .next (s.answered rest (replyTo f .ok
      ([s.rst.cause.code, s.td.state.code] ++ bytesLE 4 s.td.number.toNat
        ++ bytesLE 2 s.ks.free.length
        ++ [BitVec.ofNat 8 (allSites.countP (fun i => s.ks.bound[i].isSome))]
        ++ bytesLE 4 s.ks.highWater.toNat ++ [BitVec.ofNat 8 s.ks.waitList.length]
        ++ bytesLE 2 s.log.records.length ++ [BitVec.ofNat 8 s.log.reservations] ++ bytesLE 4 s.log.nextSeq.toNat
        ++ [BitVec.ofNat 8 s.cfg.pumpCapacity, BitVec.ofNat 8 s.arb.inUse,
            BitVec.ofNat 8 (allSites.countP (fun i => s.arb.waiting[i].isSome))]
        ++ allSites.flatMap (fun i =>
            [(s.site i).posture.code, ((s.site i).job.map (fun j : Job => j.phase.code)).getD 0,
             BitVec.ofNat 8 ((s.site i).queue.length % 4)
               ||| (if s.cfg.sitesEnabled.getLsbD i.val && decide ((s.site i).queue.length < 2) then 4 else 0)
               ||| (if (s.smon i).cond.any || (s.smon i).flags.any then 8 else 0)]
            ++ bytesLE 2 (((s.site i).job.map (fun j : Job => j.posting.tag)).getD 0).toNat)))))

/-! ### Configuration, enables and events -/

/-- The effect of a CONFIGURE that is accepted (R170, R34, R40): every named parameter takes its value brought within its range,
every other parameter keeps its value; POOL_LOW is evaluated against a threshold that changes; a site brought into SITES_ENABLED
is CLEAR and unused, a site taken out is DISABLED, no other site changes; the reply comes last, with status CLAMPED exactly when
a value was changed and with each parameter as it then stands. Nothing else changes. In a NOTICE the bits that R178 gives no
content are 0 by the model's choice (log entry 30). -/
def Obligations.ConfigureAppliesEveryEntry : Prop :=
  ∀ (s : State) (f : InFrame) (rest : List InFrame) (es : List (ParamId × Nat)), s.Front 0x03 f rest →
    es ≠ [] → (es.map Prod.fst).Nodup → (∀ e ∈ es, e.2 < 2 ^ 32) → (∀ e ∈ es, e.1 = .sitesEnabled → e.2 < 65536) →
    f.payload = es.flatMap (fun e => e.1.byte :: bytesLE 4 e.2) → s.td.state = .clear →
    (∀ v, (ParamId.sitesEnabled, v) ∈ es → ∀ i : SiteNo, s.enabled i = true → (s.site i).queue ≠ [] → v.testBit i.val = true) →
    ∃ t : State, exec .configure s = .next t ∧
      (∀ p : ParamId, (∀ v, (p, v) ∉ es) → t.cfg.get p = s.cfg.get p) ∧
      (∀ e ∈ es, t.cfg.get e.1 = max e.1.range.1 (min e.2 e.1.range.2)) ∧
      (∀ i : SiteNo, t.site i =
        if t.enabled i && !s.enabled i then { s.site i with posture := .clear, used := false }
        else if s.enabled i && !t.enabled i then { s.site i with posture := .disabled } else s.site i) ∧
      t.ks = { s.ks with poolLow :=
        (if t.cfg.poolLowThreshold = s.cfg.poolLowThreshold then s.ks.poolLow
         else if s.ks.poolLow then
           decide (t.cfg.poolLowThreshold ≠ 0 ∧ s.ks.free.length < min (t.cfg.poolLowThreshold + 8) 1024)
         else decide (s.ks.free.length < t.cfg.poolLowThreshold)) } ∧
      t.link = { s.link with
        intake := rest
        outq := s.link.outq
          ++ (if t.ks.poolLow ≠ s.ks.poolLow ∧ s.mon.pending = false ∧ t.enabledFlag .global = true
              then [t.noticeOf .global] else [])
          ++ [replyTo f (if ∃ e ∈ es, t.cfg.get e.1 ≠ e.2 then .clamped else .ok)
                (es.flatMap (fun e => e.1.byte :: bytesLE 4 (t.cfg.get e.1)))] } ∧
      t.mon = (if t.ks.poolLow = s.ks.poolLow then s.mon else
        { s.mon with
          flags := { s.mon.flags with poolLow := true }
          pending := s.mon.pending || t.enabledFlag .global }) ∧
      t = { s with cfg := t.cfg, sites := t.sites, ks := t.ks, mon := t.mon, link := t.link }

/-- R152, R153, R154, R176: SET ENABLES replaces every enable by the bit its payload gives and changes no condition state and no
change flag. Then every scope with an enabled latched flag and no notice pending gets one notice, sites ascending and the global
scope last, and is marked pending. The OK reply comes after the notices. Nothing else changes. In a NOTICE the bits that R178
gives no content are 0 by the model's choice (log entry 30). -/
def Obligations.SetEnablesReplacesEnables : Prop :=
  ∀ (s : State) (f : InFrame) (rest : List InFrame), s.Front 0x04 f rest → f.payload.length = 9 →
    ∃ t : State, exec .setEnables s = .next t ∧
      (∀ i : SiteNo, t.smon i = { s.smon i with
        enable := (numAt f.payload 0 2).testBit i.val
        source := { contact := (numAt f.payload 2 2).testBit i.val
                    link := (numAt f.payload 4 2).testBit i.val
                    dieSupply := (numAt f.payload 6 2).testBit i.val }
        pending := (s.smon i).pending || t.enabledFlag (.site i) }) ∧
      t.mon.flags = s.mon.flags ∧
      t.mon.enables = { pump := (byteAt f.payload 8).getLsbD 0, poolLow := (byteAt f.payload 8).getLsbD 1
                        logHigh := (byteAt f.payload 8).getLsbD 2, recordAdded := (byteAt f.payload 8).getLsbD 3 } ∧
      t.mon.pending = (s.mon.pending || t.enabledFlag .global) ∧
      t.link = { s.link with
        intake := rest
        outq := s.link.outq
          ++ ((allSites.map Scope.site ++ [Scope.global]).filter (fun sc => !s.noticePending sc && t.enabledFlag sc)).map
               s.noticeOf
          ++ [replyTo f .ok []] } ∧
      t = { s with mon := t.mon, link := t.link }

/-- R155: READ EVENTS of a scope answers OK with the scope, its change flags and its condition states, each in the bit a NOTICE
has it in (the other bits of the two bytes are LatchRunsThrottleTest's), then clears its change flags and its notice-pending
flag; the enables, the condition states and every other scope stay. A scope above 16 is refused BAD_FIELD and nothing changes.
No touchdown state or enable is asked. -/
def Obligations.ReadEventsReturnsAndClears : Prop :=
  ∀ (s : State) (f : InFrame) (rest : List InFrame) (b : Byte), s.Front 0x16 f rest → f.payload = [b] →
    (∀ i : SiteNo, b.toNat = i.val → ∃ t : State, exec .readEvents s = .next t ∧
      (∃ fl st : Byte, t.link = (s.answered rest (replyTo f .ok [b, fl, st])).link ∧
        SiteBits.ofByte fl = (s.smon i).flags ∧ SiteBits.ofByte st = (s.smon i).cond) ∧
      t.smon i = { s.smon i with flags := { contact := false, link := false, dieSupply := false }, pending := false } ∧
      (∀ k : SiteNo, k ≠ i → t.smon k = s.smon k) ∧
      t.mon = { s.mon with site := t.mon.site } ∧ t = { s with link := t.link, mon := t.mon }) ∧
    (b = 16 → ∃ fl st : Byte,
      exec .readEvents s = .next
        { s.answered rest (replyTo f .ok [16, fl, st]) with
          mon := { s.mon with
            flags := { pump := false, poolLow := false, logHigh := false, recordAdded := false }, pending := false } } ∧
      GlobalBits.ofByte fl = s.mon.flags ∧
      GlobalBits.ofByte st = { pump := s.arb.pump, poolLow := s.ks.poolLow, logHigh := s.log.logHigh, recordAdded := false }) ∧
    (16 < b.toNat → exec .readEvents s = .next (s.answered rest (replyTo f .badField [])))

/-- R151, R153, R154, R150, R144, R132, R157: over every command but a unit reset and its release: a site condition whose state
differs after it has its change flag latched and its scope tested (an enabled latched flag is never left without a notice
pending), unless it was force-cleared: LINK by TOUCHDOWN, CONTACT and DIE_SUPPLY where the touchdown returns to CLEAR. A global
condition has no such exception, and an appended record latches RECORD_ADDED. Of the operations that report: declaring or
clearing a site condition sets its state and latches its change flag; a report of a global flag latches that flag; a notice is
placed exactly when the scope has none pending and some latched flag is enabled, and the scope is then marked pending; nothing
else changes. A NOTICE and the READ EVENTS reply send flags and states as one byte each: every bit R178 names tells its flag or
state, and the bits it gives no content are 0, which is the model's choice (log entry 30). -/
def Obligations.LatchRunsThrottleTest : Prop :=
  (∀ (c : Instr) (s t : State), exec c s = .next t → s.resetsAt c = false → c ≠ .resetReleased →
    (∀ (i : SiteNo) (cond : SiteCond), t.condOf i cond ≠ s.condOf i cond →
      ((t.smon i).flags.get cond = true ∧ (t.enabledFlag (.site i) = true → (t.smon i).pending = true)) ∨
      (t.condOf i cond = false ∧ ((cond = .link ∧ c = .touchdown) ∨
        (cond ≠ .link ∧ s.td.state ≠ .clear ∧ t.td.state = .clear)))) ∧
    ((t.arb.pump ≠ s.arb.pump → t.mon.flags.pump = true) ∧ (t.ks.poolLow ≠ s.ks.poolLow → t.mon.flags.poolLow = true) ∧
      (t.log.logHigh ≠ s.log.logHigh → t.mon.flags.logHigh = true) ∧
      (s.log.records.length < t.log.records.length → t.mon.flags.recordAdded = true)) ∧
    (t.globalStates ≠ s.globalStates ∨ s.log.records.length < t.log.records.length →
      t.enabledFlag .global = true → t.mon.pending = true)) ∧
  (∀ (s : State) (i : SiteNo) (c : SiteCond) (v : Bool),
    (s.changeCond i c v).smon i =
      { s.smon i with
        cond := (s.smon i).cond.put c v
        flags := (s.smon i).flags.put c true
        pending := (s.smon i).pending || (s.changeCond i c v).enabledFlag (.site i) } ∧
    (∀ k : SiteNo, k ≠ i → (s.changeCond i c v).smon k = s.smon k) ∧
    (s.changeCond i c v).link = { s.link with outq := s.link.outq ++
      (if (s.smon i).pending = false ∧ (s.changeCond i c v).enabledFlag (.site i) = true then
        [{ source := .notice, kind := 0xC0, tag := 0
           payload := [BitVec.ofNat 8 i.val, ((s.smon i).flags.put c true).byte, ((s.smon i).cond.put c v).byte] }] else []) } ∧
    (s.changeCond i c v) = { s with
      link := (s.changeCond i c v).link, mon := { s.mon with site := (s.changeCond i c v).mon.site } }) ∧
  (∀ (s : State) (g : GlobalFlag),
    s.latchGlobal g = { s with
      mon := { s.mon with
        flags := s.mon.flags.put g true
        pending := s.mon.pending || (s.latchGlobal g).enabledFlag .global }
      link := { s.link with outq := s.link.outq ++
        (if s.mon.pending = false ∧ (s.latchGlobal g).enabledFlag .global = true then
          [{ source := .notice, kind := 0xC0, tag := 0
             payload := [16, (s.mon.flags.put g true).byte, s.globalStates.byte] }] else []) } }) ∧
  (∀ b : SiteBits, SiteBits.ofByte b.byte = b ∧ b.byte.toNat < 8) ∧
  (∀ g : GlobalBits, GlobalBits.ofByte g.byte = g ∧ g.byte.toNat < 16) ∧
  (∀ (s : State) (f : InFrame) (rest : List InFrame) (b : Byte), s.Front 0x16 f rest → f.payload = [b] →
    (∀ i : SiteNo, b.toNat = i.val → ∃ t : State, exec .readEvents s = .next t ∧
      t.link = (s.answered rest (replyTo f .ok [b, (s.smon i).flags.byte, (s.smon i).cond.byte])).link) ∧
    (b = 16 → ∃ t : State, exec .readEvents s = .next t ∧
      t.link = (s.answered rest (replyTo f .ok [16, s.mon.flags.byte, s.globalStates.byte])).link))

/-! ### The touchdown cycle -/

/-- R124, R41, R123, R132, R148, R172: TOUCHDOWN in CLEAR goes to OPEN, raises the touchdown number (wrapping to 1), starts
seating at every enabled site and clears its used flag, force-clears LINK everywhere without a latch, declares DIE_SUPPLY at
every enabled site whose input is asserted, and answers OK after any notices. No site is admitted at it and nothing else
changes. Disabled sites stay as they are. In a NOTICE the bits that R178 gives no content are 0 by the model's choice (log entry
30). -/
def Obligations.TouchdownOpensACycle : Prop :=
  ∀ (s : State) (f : InFrame) (rest : List InFrame), s.Front 0x05 f rest → f.payload = [] → s.td.state = .clear →
    s.PostureInv →
    ∃ t : State, exec .touchdown s = .next t ∧
      t.td = { s.td with state := .opened, number := if s.td.number = 0xFFFFFFFF then 1 else s.td.number + 1 } ∧
      (∀ i : SiteNo, t.site i = if s.enabled i then
          { s.site i with
            used := false
            seatTimeout := some s.cfg.seatTimeout
            posture := if s.pins.contact[i] then .seating else .unseated
            debounce := if s.pins.contact[i] then some s.cfg.seatDebounce else (s.site i).debounce }
        else s.site i) ∧
      (∀ i : SiteNo, t.smon i =
        { s.smon i with
          cond := { (s.smon i).cond with
            link := false, dieSupply := (s.smon i).cond.dieSupply || (s.enabled i && s.pins.overLimit[i]) }
          flags := { (s.smon i).flags with
            dieSupply := (s.smon i).flags.dieSupply || (s.enabled i && s.pins.overLimit[i]) }
          pending := (s.smon i).pending || (s.enabled i && s.pins.overLimit[i] && t.enabledFlag (.site i)) }) ∧
      t.link = { s.link with
        intake := rest
        outq := s.link.outq
          ++ (allSites.filter (fun i => s.enabled i && s.pins.overLimit[i] && !(s.smon i).pending
                && t.enabledFlag (.site i))).map (fun i => t.noticeOf (.site i))
          ++ [replyTo f .ok (1 :: bytesLE 4 t.td.number.toNat ++ [0])] } ∧
      t = { s with td := t.td, sites := t.sites, mon := { s.mon with site := t.mon.site }, link := t.link }

/-- R126, R137, R130, R131, R132, R45, R172: LIFTOFF DRAIN in OPEN with an active job goes to LIFTING(drain), empties the
slot-waiter set, holds the tag for the deferred reply and clears the lift count; no job is touched and nothing is answered.
With no active job LIFTOFF completes at once, in either mode: the state is CLEAR, every enabled site is CLEAR with its seat
timers stopped, CONTACT and DIE_SUPPLY are force-cleared without a latch, and the deferred reply with a count of 0 goes last
into the output queue. LINK, the used flags and the queued jobs stay. -/
def Obligations.LiftoffDrainWaitsOrCompletes : Prop :=
  (∀ (s : State) (f : InFrame) (rest : List InFrame), s.Front 0x06 f rest → f.payload = [0x00] → s.td.state = .opened →
    s.anyActive = true →
    exec .liftoff s = .next { s.taken rest with
      td := { s.td with state := .liftingDrain, deferred := some f.tag, liftCount := 0 }
      log := { s.log with slotWaiters := Vector.replicate 16 false } }) ∧
  (∀ (s : State) (f : InFrame) (rest : List InFrame) (m : Byte), s.Front 0x06 f rest → f.payload = [m] → m.toNat ≤ 1 →
    s.td.state = .opened → s.anyActive = false →
    ∃ t : State, exec .liftoff s = .next t ∧
      t.td = { s.td with state := .clear, deferred := none, liftCount := 0 } ∧
      (∀ i : SiteNo, t.site i = if s.enabled i then
          { s.site i with posture := .clear, debounce := none, seatTimeout := none } else s.site i) ∧
      (∀ i : SiteNo, t.smon i =
        { s.smon i with cond := { (s.smon i).cond with contact := false, dieSupply := false } }) ∧
      t.link = { s.link with
        intake := rest
        outq := s.link.outq ++ [{ source := .deferred, kind := 0x86, tag := f.tag
                                  payload := 0x00 :: 0x00 :: bytesLE 4 s.td.number.toNat ++ [0] }] } ∧
      t.log = { s.log with slotWaiters := Vector.replicate 16 false } ∧
      t = { s with td := t.td, sites := t.sites, mon := { s.mon with site := t.mon.site }, link := t.link, log := t.log })

/-- R126, R130, R131, R57, R58, R72, R90, R112, R113, R115, R165, R172: after LIFTOFF ABORT in OPEN every job still active was active
before and is in ENDING. While one is, the K16 is in LIFTING(abort), holds the tag for the deferred reply and has counted the
jobs that ended, and places no frame but notices. When none is, it is back in CLEAR, and the deferred reply with that count
follows the notices. A job with an exchange in progress keeps it, without its
retry, has every timer of its attempt stopped and holds the pending end ABORTED; a job already in ENDING is left alone. A job
without an exchange and with no request waiting (SETTLING, RESTING, KEY_WAIT) sends one CLOSE ROW without a retry if its row
is open, and else ends at once in an ABORTED record. A job in GRANT_WAIT loses its request and sends the CLOSE ROW, unless an
earlier site's withdrawal let it be granted, when its PULSE runs on (the pulse counts at the grant; log entry 11). That a rest
timer running in SENSING is stopped too is the model's choice (log entry 27). -/
def Obligations.LiftoffAbortEndsEveryJob : Prop :=
  ∀ (s : State) (f : InFrame) (rest : List InFrame), s.Front 0x06 f rest → f.payload = [0x01] → s.td.state = .opened →
    s.SiteInv →
    ∃ t : State, exec .liftoff s = .next t ∧
      t.log.slotWaiters = Vector.replicate 16 false ∧
      (∃ (count : Nat) (notices : List OutFrame),
        count = allSites.countP (fun i => s.active i && !t.active i) ∧ (∀ o ∈ notices, o.source = .notice) ∧
        (t.anyActive = true →
          t.td = { s.td with state := .liftingAbort, deferred := some f.tag, liftCount := count } ∧
          t.link = { s.link with intake := rest, outq := s.link.outq ++ notices }) ∧
        (t.anyActive = false →
          t.td = { s.td with state := .clear, deferred := none, liftCount := 0 } ∧
          t.link = { s.link with
            intake := rest
            outq := s.link.outq ++ notices ++ [
              { source := .deferred, kind := 0x86, tag := f.tag
                payload := 0x00 :: 0x00 :: bytesLE 4 s.td.number.toNat ++ [BitVec.ofNat 8 count] }] })) ∧
      (∀ (i : SiteNo) (j : Job), (t.site i).job = some j → j.phase = .ending ∧ s.active i = true) ∧
      (∀ (i : SiteNo) (j : Job) (x : Exchange), (s.site i).job = some j → (s.site i).port.exch = some x →
        (j.phase = .ending → (t.site i).job = some j ∧ (t.site i).port.exch = some x) ∧
        (j.phase ≠ .ending →
          (t.site i).job = some { j with
            phase := .ending, pendingEnd := some .aborted
            engine := { j.engine with openTimer := none, settleTimer := none, restTimer := none } } ∧
          (t.site i).port.exch = some { x with retry := false })) ∧
      (∀ (i : SiteNo) (j : Job), (s.site i).job = some j → (s.site i).port.exch = none → j.phase ≠ .ending →
        (s.arb.waiting[i] = none →
          (j.engine.rowOpen = false → (t.site i).job = none ∧
            ∃ r ∈ t.log.records, r.site = i ∧ r.posting = j.posting ∧ r.outcome = .aborted) ∧
          (j.engine.rowOpen = true → (t.site i).job = some (j.aborting .aborted).lastClose ∧
            (t.site i).port.exch = some (Exchange.fresh s.cfg (.closeRow j.engine.regionRow) false))) ∧
        (∀ d, s.arb.waiting[i] = some d → j.engine.rowOpen = true → t.arb.waiting[i] = none ∧
          (((t.site i).job = some (j.aborting .aborted).lastClose ∧
              (t.site i).port.exch = some (Exchange.fresh s.cfg (.closeRow j.engine.regionRow) false)) ∨
            (s.arb.pump = false ∧
              (t.site i).job = some (({ j with
                pulses := min (j.pulses + 1) 65535
                engine := { j.engine with stage := .pulsing, chunks := j.engine.chunks.tail } } : Job).aborting .aborted) ∧
              (t.site i).port.exch = some (Exchange.fresh s.cfg (.pulse (j.engine.chunks.headD 0)) false)))))

/-- R129, R130, R131, R165, R172: in a LIFTING state LIFTOFF is answered MERGED with the state, the number and the lift count so
far. DRAIN in either state, and ABORT in LIFTING(abort), change nothing else. ABORT in LIFTING(drain) goes to LIFTING(abort)
and leaves only jobs in ENDING; each job that it ends adds one to the lift count. Its MERGED reply stands behind any notices,
with state LIFTING(abort) and the lift count after it. With a job still active the deferred reply stays owed; with none left
the lift completes: the deferred reply, with the same count, follows the MERGED one, and the state returns to CLEAR. -/
def Obligations.LiftoffWhileLiftingMerges : Prop :=
  (∀ (s : State) (f : InFrame) (rest : List InFrame) (m : Byte), s.Front 0x06 f rest → f.payload = [m] → s.anyActive = true →
    (s.td.state = .liftingDrain ∧ m = 0 ∨ s.td.state = .liftingAbort ∧ m.toNat ≤ 1) →
    exec .liftoff s = .next (s.answered rest (replyTo f .merged
      (s.td.state.code :: bytesLE 4 s.td.number.toNat ++ [BitVec.ofNat 8 s.td.liftCount])))) ∧
  (∀ (s : State) (f : InFrame) (rest : List InFrame), s.Front 0x06 f rest → f.payload = [0x01] →
    s.td.state = .liftingDrain →
    ∃ t : State, exec .liftoff s = .next t ∧
      (∀ (i : SiteNo) (j : Job), (t.site i).job = some j → j.phase = .ending ∧ s.active i = true) ∧
      (∃ (count : Nat) (notices : List OutFrame) (merged : OutFrame),
        count = s.td.liftCount + allSites.countP (fun i => s.active i && !t.active i) ∧
        (∀ o ∈ notices, o.source = .notice) ∧
        merged = replyTo f .merged (3 :: bytesLE 4 s.td.number.toNat ++ [BitVec.ofNat 8 count]) ∧
        (t.anyActive = true →
          t.td = { s.td with state := .liftingAbort, liftCount := count } ∧
          t.link = { s.link with intake := rest, outq := s.link.outq ++ notices ++ [merged] }) ∧
        (t.anyActive = false →
          t.td = { s.td with state := .clear, deferred := none, liftCount := 0 } ∧
          ∀ tag, s.td.deferred = some tag → t.link = { s.link with
            intake := rest
            outq := s.link.outq ++ notices ++ [merged,
              { source := .deferred, kind := 0x86, tag := tag
                payload := 0x00 :: 0x00 :: bytesLE 4 s.td.number.toNat ++ [BitVec.ofNat 8 count] }] })))

/-- R130: a LIFTING state is left at the event that ends its last active job, whatever the command: while LIFTING some job is
active, and a deferred reply is owed exactly then. -/
def Obligations.StepKeepsLiftOpenOnlyWithJobs : Prop :=
  ∀ s t : State, s.LiftInv → step s = .next t → t.LiftInv

/-- R130, R131: whatever command ends the last active job of a lift, the last frame it places is the deferred LIFTOFF reply: OK,
state CLEAR, the touchdown number, and as its count the jobs that ended during the lift, those of this event included. -/
def Obligations.LiftCompletionSendsDeferredReply : Prop :=
  ∀ (c : Instr) (s t : State) (tag : BitVec 6), exec c s = .next t → s.resetsAt c = false → s.td.state.lifting = true →
    s.td.deferred = some tag → t.td.state = .clear →
    t.link.outq.getLast? = some { source := .deferred, kind := 0x86, tag := tag
                                  payload := 0x00 :: 0x00 :: bytesLE 4 s.td.number.toNat
                                    ++ [BitVec.ofNat 8 (s.td.liftCount + allSites.countP s.active)] }

/-- R123, R124, R170, R152, R20: outside a unit reset the touchdown number is changed only by TOUCHDOWN, the parameters only by
CONFIGURE, the enables only by SET ENABLES and the high-water index only by LOAD KEYS; no command changes the unit number. -/
def Obligations.OwnersOfSlowState : Prop :=
  ∀ (c : Instr) (s t : State), exec c s = .next t →
    t.unitNumber = s.unitNumber ∧
    (s.resetsAt c = false →
      (c ≠ .touchdown → t.td.number = s.td.number) ∧
      (c ≠ .configure → t.cfg = s.cfg) ∧
      (c ≠ .setEnables → t.mon.enables = s.mon.enables ∧
        ∀ i : SiteNo, (t.smon i).enable = (s.smon i).enable ∧ (t.smon i).source = (s.smon i).source) ∧
      (c ≠ .loadKeys → t.ks.highWater = s.ks.highWater))

/-! ### Key Store -/

/-- R22, R24, R25, R33, R171, R176: LOAD KEYS of n keys, 1 to 16, whose indices ascend from above the high-water index and that
find room, with no site waiting for a key. The keys join the free queue in order, the high-water index becomes the last index,
POOL_LOW is evaluated on the new free count, and the OK reply follows any notice. Nothing else changes. In a NOTICE the bits
that R178 gives no content are 0 by the model's choice (log entry 30). -/
def Obligations.LoadKeysAppendsToTheFreeQueue : Prop :=
  ∀ (s : State) (f : InFrame) (rest : List InFrame) (keys : List Key) (last : Key), s.Front 0x10 f rest → s.LiftInv →
    keys.length ≤ 16 → (∀ k ∈ keys, k.bytes.length = 32) → keys.getLast? = some last →
    f.payload = BitVec.ofNat 8 keys.length :: keys.flatMap (fun k => bytesLE 4 k.index.toNat ++ k.bytes) →
    keys.Pairwise (fun a b => a.index < b.index) → (∀ k ∈ keys, s.ks.highWater < k.index) →
    s.ks.free.length + s.ks.boundCount + keys.length ≤ 1024 → s.ks.waitList = [] →
    ∃ t : State, exec .loadKeys s = .next t ∧
      t.ks = { s.ks with
        free := s.ks.free ++ keys
        highWater := last.index
        poolLow := if s.ks.poolLow
          then decide (s.ks.free.length + keys.length < min (s.cfg.poolLowThreshold + 8) 1024)
          else decide (s.ks.free.length + keys.length < s.cfg.poolLowThreshold) } ∧
      t.mon = (if t.ks.poolLow = s.ks.poolLow then s.mon else { s.mon with
        flags := { s.mon.flags with poolLow := true }, pending := s.mon.pending || t.enabledFlag .global }) ∧
      t.link = { s.link with
        intake := rest
        outq := s.link.outq
          ++ (if t.ks.poolLow ≠ s.ks.poolLow ∧ s.mon.pending = false ∧ t.enabledFlag .global = true
              then [t.noticeOf .global] else [])
          ++ [replyTo f .ok (bytesLE 2 t.ks.free.length ++ [BitVec.ofNat 8 s.ks.boundCount]
                ++ bytesLE 4 last.index.toNat)] } ∧
      t = { s with ks := t.ks, mon := t.mon, link := t.link }

/-- R24, R25, R33, R21, R2, R3, R4, R5, R52, R85: an accepted LOAD KEYS serves the waiting sites in wait-list order, the oldest
waiter with the lowest index. Keys left over stay free, sites left over stay waiting. The high-water index becomes the last
index, POOL_LOW is evaluated on the free count after the hand-out, a change latching its flag, and the OK reply carries the free
and bound counts after it. A served site whose own region row 0 has at most one conflict
cell holds its key, has its image built, and begins the row attempt of image row 0: SENSE for verify when no cell is left to
blow, else OPEN ROW. The image is 48 bytes: the key, its index, the lot code, wafer, X and Y, the engine unit number, low bytes
first, and the sum of those 46 bytes modulo 65536; row r carries bytes 3r, 3r + 1 and 3r + 2, and its row word is formed from
them. That the bound count of the reply leaves out a site whose job ended ROW_UNREPAIRABLE at this event is the model's choice
(log entry 28). -/
def Obligations.LoadKeysServesWaitingSites : Prop :=
  (∀ (key : Key) (p : Posting) (unit : BitVec 32) (bytes : List Byte), key.bytes.length = 32 →
    bytes = imageBytes key p unit →
    bytes.length = 48 ∧ bytes.take 32 = key.bytes ∧ numAt bytes 32 4 = key.index.toNat ∧
    numAt bytes 36 3 = p.lot.toNat ∧ byteAt bytes 39 = p.wafer ∧ byteAt bytes 40 = p.x ∧ byteAt bytes 41 = p.y ∧
    numAt bytes 42 4 = unit.toNat ∧ numAt bytes 46 2 = ((bytes.take 46).map BitVec.toNat).sum % 65536 ∧
    (buildImage key p unit).bytes = bytes ∧
    ∀ r : Fin 16,
      (imageRow bytes r.val).toNat = (byteAt bytes (3 * r.val)).toNat + 256 * (byteAt bytes (3 * r.val + 1)).toNat
        + 65536 * (byteAt bytes (3 * r.val + 2)).toNat ∧
      (buildImage key p unit).words[r.val]? = some (rowWord (imageRow bytes r.val))) ∧
  ∀ (s : State) (f : InFrame) (rest : List InFrame) (keys : List Key), s.Front 0x10 f rest → s.SiteInv →
    keys ≠ [] → keys.length ≤ 16 → (∀ k ∈ keys, k.bytes.length = 32) →
    f.payload = BitVec.ofNat 8 keys.length :: keys.flatMap (fun k => bytesLE 4 k.index.toNat ++ k.bytes) →
    keys.Pairwise (fun a b => a.index < b.index) → (∀ k ∈ keys, s.ks.highWater < k.index) →
    s.ks.free.length + s.ks.boundCount + keys.length ≤ 1024 → s.ks.waitList ≠ [] →
    ∃ t : State, exec .loadKeys s = .next t ∧
      t.ks.waitList = s.ks.waitList.drop keys.length ∧ t.ks.free = keys.drop s.ks.waitList.length ∧
      keys.getLast?.map Key.index = some t.ks.highWater ∧
      t.ks.poolLow = poolLowAfter s.ks.poolLow s.cfg.poolLowThreshold (keys.length - s.ks.waitList.length) ∧
      (t.ks.poolLow ≠ s.ks.poolLow → t.mon.flags.poolLow = true) ∧
      replyTo f .ok (bytesLE 2 (keys.length - s.ks.waitList.length) ++ [BitVec.ofNat 8 t.ks.boundCount]
        ++ bytesLE 4 t.ks.highWater.toNat) ∈ t.link.outq ∧
      ∀ (m : Nat) (i : SiteNo) (key : Key) (j : Job) (word : Row),
        s.ks.waitList[m]? = some i → keys[m]? = some key → (s.site i).job = some j →
        word = rowWord (imageRow (imageBytes key j.posting s.unitNumber) 0) →
        cellCount (j.snapshot.getD 0 0 &&& ~~~word) ≤ 1 →
        t.ks.bound[i] = some key ∧
        (t.site i).job = some { j with
          phase := .program
          step := 0
          image := some (buildImage key j.posting s.unitNumber)
          engine := { RowEngine.idle with
            stage := if word &&& ~~~(j.snapshot.getD 0 0) = 0 then .verifying else .opening
            regionRow := 0
            purpose := .own 0
            word := word
            target := word &&& ~~~(j.snapshot.getD 0 0)
            conflicts := cellCount (j.snapshot.getD 0 0 &&& ~~~word)
            rowOpen := decide (word &&& ~~~(j.snapshot.getD 0 0) ≠ 0) } } ∧
        (t.site i).port.exch = some {
          cmd := if word &&& ~~~(j.snapshot.getD 0 0) = 0 then .sense 0 .normal else .openRow 0
          attempt := 1, retry := true, deadline := s.cfg.dieResponseTimeout, timer := none, rx := [] }

/-- R32, R33: DISCARD KEYS empties the free queue and answers how many keys went with the lowest and the highest index, 0 for
none. POOL_LOW is evaluated on a free count of 0, so it is declared unless the threshold is 0. The high-water index, the bound
keys and the wait list stay. Nothing else changes. In a NOTICE the bits that R178 gives no content are 0 by the model's choice
(log entry 30). -/
def Obligations.DiscardKeysEmptiesTheFreeQueue : Prop :=
  ∀ (s : State) (f : InFrame) (rest : List InFrame), s.Front 0x11 f rest → f.payload = [] →
    ∃ t : State, exec .discardKeys s = .next t ∧
      t.ks = { s.ks with free := [], poolLow := s.ks.poolLow || decide (0 < s.cfg.poolLowThreshold) } ∧
      t.mon = (if t.ks.poolLow = s.ks.poolLow then s.mon else { s.mon with
        flags := { s.mon.flags with poolLow := true }, pending := s.mon.pending || t.enabledFlag .global }) ∧
      t.link = { s.link with
        intake := rest
        outq := s.link.outq
          ++ (if t.ks.poolLow ≠ s.ks.poolLow ∧ s.mon.pending = false ∧ t.enabledFlag .global = true
              then [t.noticeOf .global] else [])
          ++ [replyTo f .ok (bytesLE 2 s.ks.free.length
                ++ bytesLE 4 ((s.ks.free.head?.map (fun k => k.index.toNat)).getD 0)
                ++ bytesLE 4 ((s.ks.free.getLast?.map (fun k => k.index.toNat)).getD 0))] } ∧
      t = { s with ks := t.ks, mon := t.mon, link := t.link }

/-! ### Posting, admission and cancelling of jobs -/

/-- R46, R171: PROVISION is refused BAD_FIELD for a site above 15, SITE_DISABLED for a site not in SITES_ENABLED and QUEUE_FULL
for a site with two queued jobs, and changes nothing. Behind one queued job the job joins the queue and nothing else changes. -/
def Obligations.ProvisionRefusalsAndSecondJob : Prop :=
  (∀ (s : State) (f : InFrame) (rest : List InFrame) (b : Byte) (tl : List Byte), s.Front 0x12 f rest → f.payload = b :: tl →
    tl.length = 8 → 15 < b.toNat → exec .provision s = .next (s.answered rest (replyTo f .badField []))) ∧
  (∀ (s : State) (f : InFrame) (rest : List InFrame) (i : SiteNo) (p : Posting), s.Front 0x12 f rest →
    f.payload = BitVec.ofNat 8 i.val :: bytesLE 2 p.tag.toNat ++ bytesLE 3 p.lot.toNat ++ [p.wafer, p.x, p.y] →
    (s.enabled i = false → exec .provision s = .next (s.answered rest
      (replyTo f .siteDisabled [BitVec.ofNat 8 i.val, BitVec.ofNat 8 (s.site i).queue.length]))) ∧
    (s.enabled i = true → 2 ≤ (s.site i).queue.length → exec .provision s = .next (s.answered rest
      (replyTo f .queueFull [BitVec.ofNat 8 i.val, BitVec.ofNat 8 (s.site i).queue.length]))) ∧
    (∀ q, s.enabled i = true → (s.site i).queue = [q] → exec .provision s = .next
      ((s.answered rest (replyTo f .ok [BitVec.ofNat 8 i.val, 2])).setSite i { s.site i with queue := [q, p] })))

/-- R46, R47, R48, R136, R143: a job posted to an empty queue. With the touchdown OPEN, the site SEATED and not used, no active
job and DIE_SUPPLY clear it is admitted when the log has a free slot: one reservation more, the used flag set, the wires driven,
a fresh context in BRINGUP and the die RESET sent with a deadline of 1 ms; LOG_HIGH is evaluated. With the log full the job is
queued and the site joins the slot-waiter set. In every other case the job is queued and nothing else changes. In a NOTICE the
bits that R178 gives no content are 0 by the model's choice (log entry 30). -/
def Obligations.ProvisionAdmitsQueuesOrWaits : Prop :=
  ∀ (s : State) (f : InFrame) (rest : List InFrame) (i : SiteNo) (p : Posting), s.Front 0x12 f rest →
    f.payload = BitVec.ofNat 8 i.val :: bytesLE 2 p.tag.toNat ++ bytesLE 3 p.lot.toNat ++ [p.wafer, p.x, p.y] →
    s.enabled i = true → (s.site i).queue = [] → s.log.slotWaiters[i] = false →
    (¬ s.MayAdmit i → exec .provision s = .next
        ((s.answered rest (replyTo f .ok [BitVec.ofNat 8 i.val, 1])).setSite i { s.site i with queue := [p] })) ∧
    (s.MayAdmit i →
      (256 ≤ s.log.records.length + s.log.reservations → exec .provision s = .next
        { (s.answered rest (replyTo f .ok [BitVec.ofNat 8 i.val, 1])).setSite i { s.site i with queue := [p] } with
          log := { s.log with slotWaiters := s.log.slotWaiters.set i.val true i.isLt } }) ∧
      (s.log.records.length + s.log.reservations < 256 → ∃ t : State, exec .provision s = .next t ∧
        t.site i = (s.site i).admitted p [] s.td.number ∧
        (∀ k : SiteNo, k ≠ i → t.site k = s.site k) ∧
        t.log = { s.log with
          reservations := s.log.reservations + 1
          logHigh := logHighAfter s.log.logHigh (s.log.records.length + (s.log.reservations + 1)) } ∧
        t.mon = (if t.log.logHigh = s.log.logHigh then s.mon else { s.mon with
          flags := { s.mon.flags with logHigh := true }, pending := s.mon.pending || t.enabledFlag .global }) ∧
        t.link = { s.link with
          intake := rest
          outq := s.link.outq
            ++ (if t.log.logHigh ≠ s.log.logHigh ∧ s.mon.pending = false ∧ t.enabledFlag .global = true
                then [t.noticeOf .global] else [])
            ++ [replyTo f .ok [BitVec.ofNat 8 i.val, 1]] } ∧
        t = { s with sites := t.sites, log := t.log, mon := t.mon, link := t.link }))

/-- R60, R171, R137, R55, R57, R72, R112, R113, R115: CANCEL of a site above 15 or a scope above 2 is refused BAD_FIELD and changes
nothing. CANCEL QUEUED drops the site's queued jobs without a record, takes the site out of the slot-waiter set, and answers
their number and tags with active result NONE. CANCEL ACTIVE removes no queued job, and CANCEL ALL removes them first, as QUEUED
does; each then takes the active job. Without one, nothing more changes (NONE), nor with one in ENDING (ENDING). A job
with an exchange in progress goes to ENDING with pending end ABORTED, every timer of its attempt stopped and the
exchange's retry taken away (ABORTING), and nothing more changes. A job without an exchange sends one CLOSE ROW without a retry
if its row is open (SETTLING, or GRANT_WAIT, whose request is withdrawn and the grant test run), and else ends at once in an
ABORTED record (RESTING, KEY_WAIT). That a rest timer running in SENSING is stopped too (log entry 27), and that the pulse of
another site counts at its grant (log entry 11), are the model's choices. -/
def Obligations.CancelQueuedAndActive : Prop :=
  (∀ (s : State) (f : InFrame) (rest : List InFrame) (b c : Byte), s.Front 0x13 f rest → f.payload = [b, c] →
    (15 < b.toNat ∨ 2 < c.toNat) → exec .cancel s = .next (s.answered rest (replyTo f .badField []))) ∧
  (∀ (s : State) (f : InFrame) (rest : List InFrame) (i : SiteNo), s.Front 0x13 f rest → s.LiftInv →
    f.payload = [BitVec.ofNat 8 i.val, 0] →
    exec .cancel s = .next ((s.unqueued i).answered rest (replyTo f .ok (cancelFields (s.site i).queue 0)))) ∧
  (∀ (s u : State) (f : InFrame) (rest : List InFrame) (i : SiteNo) (scope : Byte) (removed : List Posting),
    s.Front 0x13 f rest → f.payload = [BitVec.ofNat 8 i.val, scope] → s.CancelsFirst i scope removed u →
    (s.LiftInv →
      ((s.site i).job = none → exec .cancel s = .next (u.answered rest (replyTo f .ok (cancelFields removed 0)))) ∧
      (∀ j, (s.site i).job = some j → j.phase = .ending →
        exec .cancel s = .next (u.answered rest (replyTo f .ok (cancelFields removed 2))))) ∧
    (∀ (j : Job) (x : Exchange), (s.site i).job = some j → j.phase ≠ .ending → (s.site i).port.exch = some x →
      s.arb.waiting[i] = none →
      exec .cancel s = .next ((u.answered rest (replyTo f .ok (cancelFields removed 1))).setSite i { u.site i with
        job := some { j with
          phase := .ending, pendingEnd := some .aborted
          engine := { j.engine with openTimer := none, settleTimer := none, restTimer := none } }
        port := { (s.site i).port with exch := some { x with retry := false } } })) ∧
    (∀ j : Job, (s.site i).job = some j → j.phase ≠ .ending → (s.site i).port.exch = none →
      (j.engine.rowOpen = true → ∃ t v : State, exec .cancel s = .next t ∧
        v = (u.answered rest (replyTo f .ok (cancelFields removed 1))).siteWith i (j.aborting .aborted).lastClose
          (some (Exchange.fresh s.cfg (.closeRow j.engine.regionRow) false)) ∧
        (s.arb.waiting[i] = none → t = v) ∧ (∀ d, s.arb.waiting[i] = some d → (v.unwait i).Grants t)) ∧
      (j.engine.rowOpen = false → s.arb.waiting[i] = none → ∃ t : State, exec .cancel s = .next t ∧
        u.JobEnded t i j .aborted ∧ u.OnlyEnds t i ∧ replyTo f .ok (cancelFields removed 1) ∈ t.link.outq)))

/-- R57, R60, R55, R61, R62, R139, R144, R30: CANCEL ALL of a site whose job is in KEY_WAIT drops its queue, and the job ends at
once with outcome ABORTED and disposition NONE: its record is appended in place of its reservation, RECORD_ADDED latches, the
site leaves the wait list, and the reply follows any notice. In a NOTICE the bits that R178 gives no content are 0 by the
model's choice (log entry 30). -/
def Obligations.CancelAllEndsAWaitingJob : Prop :=
  ∀ (s : State) (f : InFrame) (rest : List InFrame) (i : SiteNo) (j : Job), s.Front 0x13 f rest → s.SiteInv →
    f.payload = [BitVec.ofNat 8 i.val, 2] → (s.site i).job = some j → j.phase = .keyWait → s.td.state = .opened →
    ∃ t : State, exec .cancel s = .next t ∧
      t.site i = { s.site i with queue := [], job := none } ∧ (∀ k : SiteNo, k ≠ i → t.site k = s.site k) ∧
      t.ks = { s.ks with waitList := s.ks.waitList.filter (fun k => decide (k ≠ i)) } ∧
      t.log = { s.log with
        records := s.log.records ++ [
          { seq := s.log.nextSeq, posting := j.posting, site := i, touchdown := j.touchdown, outcome := .aborted
            disposition := .none, keyIndex := none, relocated := relocatedCount j.map, corrected := j.corrected
            pulses := j.pulses, failingRow := none }]
        reservations := s.log.reservations - 1
        nextSeq := if s.log.nextSeq = 0xFFFFFFFF then 1 else s.log.nextSeq + 1
        slotWaiters := s.log.slotWaiters.set i.val false i.isLt } ∧
      t.mon = { s.mon with
        flags := { s.mon.flags with recordAdded := true }, pending := s.mon.pending || t.enabledFlag .global } ∧
      t.link = { s.link with
        intake := rest
        outq := s.link.outq
          ++ (if s.mon.pending = false ∧ t.enabledFlag .global = true then [t.noticeOf .global] else [])
          ++ [replyTo f .ok ([BitVec.ofNat 8 (s.site i).queue.length]
                ++ bytesLE 2 (((s.site i).queue[0]?.map (fun p => p.tag.toNat)).getD 0)
                ++ bytesLE 2 (((s.site i).queue[1]?.map (fun p => p.tag.toNat)).getD 0) ++ [1])] } ∧
      t = { s with sites := t.sites, ks := t.ks, log := t.log, mon := t.mon, link := t.link }

/-! ### Issue Log -/

/-- R55, R62, R135, R139: outside a unit reset and CLEAR RECORDS, records are only ever added at the tail, one for each job that
ends, with that job's site, posting and touchdown number; and a job that goes on keeps its posting and touchdown number. -/
def Obligations.EveryEndedJobLeavesOneRecord : Prop :=
  ∀ (c : Instr) (s t : State), exec c s = .next t → s.resetsAt c = false → c ≠ .clearRecords →
    ∃ new : List Record, t.log.records = s.log.records ++ new ∧
      new.length = allSites.countP (fun i => s.active i && !t.active i) ∧
      ∀ (i : SiteNo) (j : Job), (s.site i).job = some j →
        ((t.site i).job = none →
          ∃ r ∈ new, r.site = i ∧ r.posting = j.posting ∧ r.touchdown = j.touchdown) ∧
        (∀ j', (t.site i).job = some j' → j'.posting = j.posting ∧ j'.touchdown = j.touchdown)

/-- R141, R178, R175, R61, R62: READ RECORDS answers OK with the number of records returned, the number held, and the records
from the head on, oldest first, and changes nothing else. The count is the least of the maximum (0 taken as 1, above 64 as
64), the records held, and what the byte limit has room for. Each record is 28 bytes, field by field as given here. -/
def Obligations.ReadRecordsReturnsOldestFirst : Prop :=
  (∀ (s : State) (f : InFrame) (rest : List InFrame) (m : Byte) (limit : BitVec 16), s.Front 0x14 f rest →
    f.payload = m :: bytesLE 2 limit.toNat →
    ∃ n : Nat, n = min (max 1 (min m.toNat 64)) (min s.log.records.length ((limit.toNat - 4) / 28)) ∧
      exec .readRecords s = .next (s.answered rest (replyTo f .ok
        (BitVec.ofNat 8 n :: bytesLE 2 s.log.records.length ++ (s.log.records.take n).flatMap Record.bytes)))) ∧
  (∀ r : Record, r.bytes.length = 28 ∧
    numAt r.bytes 0 4 = r.seq.toNat ∧ numAt r.bytes 4 2 = r.posting.tag.toNat ∧ numAt r.bytes 6 1 = r.site.val ∧
    numAt r.bytes 7 4 = r.touchdown.toNat ∧ numAt r.bytes 11 3 = r.posting.lot.toNat ∧
    byteAt r.bytes 14 = r.posting.wafer ∧ byteAt r.bytes 15 = r.posting.x ∧ byteAt r.bytes 16 = r.posting.y ∧
    (∀ q, r.failingRow = some q → numAt r.bytes 17 1 = q.val) ∧ (r.failingRow = none → numAt r.bytes 17 1 = 0xFF) ∧
    (byteAt r.bytes 18).toInt = r.outcome.value ∧
    numAt r.bytes 19 1 = (match r.disposition with | .none => 0 | .issued => 1 | .retired => 2) ∧
    (∀ k, r.keyIndex = some k → numAt r.bytes 20 4 = k.toNat) ∧ (r.keyIndex = none → numAt r.bytes 20 4 = 0) ∧
    (r.relocated < 256 → numAt r.bytes 24 1 = r.relocated) ∧ (r.corrected < 256 → numAt r.bytes 25 1 = r.corrected) ∧
    (r.pulses < 65536 → numAt r.bytes 26 2 = r.pulses))

/-- R142, R138, R48, R143, R136: CLEAR RECORDS of n removes the n oldest records, or all when fewer are held. The freed slots go
to the waiting sites in ascending site number, one each while slots last: such a site leaves the set and its head job is
admitted. LOG_HIGH is evaluated on what is left, and the reply, after any notice, carries the number removed, the number held,
and the last sequence number removed or 0. Nothing else changes. In a NOTICE the bits that R178 gives no content are 0 by the
model's choice (log entry 30). -/
def Obligations.ClearRecordsHandsSlotsInSiteOrder : Prop :=
  ∀ (s : State) (f : InFrame) (rest : List InFrame) (n : BitVec 16) (free : Nat), s.Front 0x15 f rest →
    f.payload = bytesLE 2 n.toNat → s.LogInv →
    free = 256 - ((s.log.records.drop n.toNat).length + s.log.reservations) →
    ∃ t : State, exec .clearRecords s = .next t ∧
      t.log = { s.log with
        records := s.log.records.drop n.toNat
        reservations := s.log.reservations + min free (allSites.countP (fun i => s.log.slotWaiters[i]))
        slotWaiters := t.log.slotWaiters
        logHigh := logHighAfter s.log.logHigh (t.log.records.length + t.log.reservations) } ∧
      (∀ i : SiteNo,
        (s.log.slotWaiters[i] = true →
            allSites.countP (fun k => decide (k < i) && s.log.slotWaiters[k]) < free →
          t.log.slotWaiters[i] = false ∧ ∃ p q, (s.site i).queue = p :: q ∧
            t.site i = (s.site i).admitted p q s.td.number) ∧
        (s.log.slotWaiters[i] = false ∨
            free ≤ allSites.countP (fun k => decide (k < i) && s.log.slotWaiters[k]) →
          t.log.slotWaiters[i] = s.log.slotWaiters[i] ∧ t.site i = s.site i)) ∧
      t.mon = (if t.log.logHigh = s.log.logHigh then s.mon else { s.mon with
        flags := { s.mon.flags with logHigh := true }, pending := s.mon.pending || t.enabledFlag .global }) ∧
      t.link = { s.link with
        intake := rest
        outq := s.link.outq
          ++ (if t.log.logHigh ≠ s.log.logHigh ∧ s.mon.pending = false ∧ t.enabledFlag .global = true
              then [t.noticeOf .global] else [])
          ++ [replyTo f .ok (bytesLE 2 (min n.toNat s.log.records.length)
                ++ bytesLE 2 (s.log.records.length - n.toNat)
                ++ bytesLE 4 (((s.log.records.take n.toNat).getLast?.map (fun r => r.seq.toNat)).getD 0))] } ∧
      t = { s with sites := t.sites, log := t.log, mon := t.mon, link := t.link }

/-- R140: the sequence numbers held ascend by one from head to tail with the wrap from 4 294 967 295 to 1, none is 0, and the
next number follows the tail's, after every step as before it. -/
def Obligations.StepKeepsSequenceNumbers : Prop :=
  ∀ s t : State, s.SeqInv → step s = .next t → t.SeqInv

/-- R135, R136, R137: records and reservations never exceed the 256 slots, the reservations are exactly the active jobs, and only
sites ready for admission wait for a slot, after every step as before it. -/
def Obligations.StepKeepsLogAccount : Prop :=
  ∀ s t : State, s.LogInv → step s = .next t → t.LogInv

/-! ### Refusals -/

/-- R167, R170, R40, R124, R125, R172, R22, R23, R24: what a refusal answers, and that it changes nothing else. CONFIGURE:
BAD_FIELD with the status alone for an unknown id, an id named twice or a SITES_ENABLED value above 16 bits; TOUCHDOWN_OPEN
outside CLEAR and SITE_BUSY when it would take out a site with queued jobs, with the values as they stand. TOUCHDOWN outside
CLEAR: TOUCHDOWN_OPEN; LIFTOFF in CLEAR: NO_TOUCHDOWN; LIFTOFF with a mode above 1: BAD_FIELD; each with the touchdown state,
the number and a count of 0 (the form of the BAD_FIELD reply follows R125; log entry 10). LOAD KEYS: INDEX_ORDER when an
index does not ascend from above the high-water index, else STORE_FULL beyond 1024 keys, with the counts as they stand. -/
def Obligations.RefusedRequestsChangeNothing : Prop :=
  (∀ (s : State) (f : InFrame) (rest : List InFrame) (es : List (Byte × BitVec 32)), s.Front 0x03 f rest →
    1 ≤ es.length → es.length ≤ 10 → f.payload = es.flatMap (fun e => entryBytes e.1 e.2) →
    ((∃ e ∈ es, e.1 = 0 ∨ 0x0A < e.1) ∨ ¬ (es.map Prod.fst).Nodup ∨ (∃ e ∈ es, e.1 = 0x0A ∧ 65535 < e.2.toNat)) →
    exec .configure s = .next (s.answered rest (replyTo f .badField []))) ∧
  (∀ (s : State) (f : InFrame) (rest : List InFrame) (es : List (ParamId × Nat)), s.Front 0x03 f rest →
    es ≠ [] → (es.map Prod.fst).Nodup → (∀ e ∈ es, e.2 < 2 ^ 32) → (∀ e ∈ es, e.1 = .sitesEnabled → e.2 < 65536) →
    f.payload = es.flatMap (fun e => e.1.byte :: bytesLE 4 e.2) →
    (s.td.state ≠ .clear → exec .configure s = .next (s.answered rest (replyTo f .touchdownOpen
      (es.flatMap (fun e => e.1.byte :: bytesLE 4 (s.cfg.get e.1)))))) ∧
    (s.td.state = .clear →
      (∃ v, (ParamId.sitesEnabled, v) ∈ es ∧ ∃ i : SiteNo, s.enabled i = true ∧ (s.site i).queue ≠ [] ∧ v.testBit i.val = false) →
      exec .configure s = .next (s.answered rest (replyTo f .siteBusy
        (es.flatMap (fun e => e.1.byte :: bytesLE 4 (s.cfg.get e.1))))))) ∧
  (∀ (s : State) (f : InFrame) (rest : List InFrame), s.Front 0x05 f rest → f.payload = [] → s.td.state ≠ .clear →
    exec .touchdown s = .next (s.answered rest (replyTo f .touchdownOpen
      (s.td.state.code :: bytesLE 4 s.td.number.toNat ++ [0])))) ∧
  (∀ (s : State) (f : InFrame) (rest : List InFrame) (m : Byte), s.Front 0x06 f rest → f.payload = [m] →
    (1 < m.toNat → exec .liftoff s = .next (s.answered rest (replyTo f .badField
      (s.td.state.code :: bytesLE 4 s.td.number.toNat ++ [0])))) ∧
    (m.toNat ≤ 1 → s.td.state = .clear → exec .liftoff s = .next (s.answered rest (replyTo f .noTouchdown
      (0 :: bytesLE 4 s.td.number.toNat ++ [0]))))) ∧
  (∀ (s : State) (f : InFrame) (rest : List InFrame) (keys : List Key), s.Front 0x10 f rest →
    keys ≠ [] → keys.length ≤ 16 → (∀ k ∈ keys, k.bytes.length = 32) →
    f.payload = BitVec.ofNat 8 keys.length :: keys.flatMap (fun k => bytesLE 4 k.index.toNat ++ k.bytes) →
    (¬ ((∀ k ∈ keys, s.ks.highWater < k.index) ∧ keys.Pairwise (fun a b => a.index < b.index)) →
      exec .loadKeys s = .next (s.answered rest (replyTo f .indexOrder
        (bytesLE 2 s.ks.free.length ++ [BitVec.ofNat 8 s.ks.boundCount] ++ bytesLE 4 s.ks.highWater.toNat)))) ∧
    ((∀ k ∈ keys, s.ks.highWater < k.index) → keys.Pairwise (fun a b => a.index < b.index) →
      1024 < s.ks.free.length + s.ks.boundCount + keys.length →
      exec .loadKeys s = .next (s.answered rest (replyTo f .storeFull
        (bytesLE 2 s.ks.free.length ++ [BitVec.ofNat 8 s.ks.boundCount] ++ bytesLE 4 s.ks.highWater.toNat)))))

/-! ### Site inputs and seat timers -/

/-- R42, R43, R44, R148: what the site inputs and timers do where no job is admitted and none ends. CONTACT_SENSED starts
seating at an UNSEATED site. CONTACT_DROPPED sends a SEATING site back and takes a SEATED site to UNSEATED with CONTACT
declared. DIE_SUPPLY_ASSERTED declares DIE_SUPPLY at an enabled site outside CLEAR; both losses take the site out of the
slot-waiter set. The seat timeout declares CONTACT at a site not yet seated. Elsewhere each event changes only the input's level
or stops only its timer. That a loss at a site without an active job leaves its die-port wires as they are is the model's choice
(log entry 26). In a NOTICE the bits that R178 gives no content are 0 by the model's choice (log entry 30). -/
def Obligations.SiteInputsFollowed : Prop :=
  (∀ (s : State) (i : SiteNo),
    exec (.contactSensed i) s = .next (if (s.site i).posture = .unseated
      then (s.setContactPin i true).setSite i { s.site i with posture := .seating, debounce := some s.cfg.seatDebounce }
      else s.setContactPin i true)) ∧
  (∀ (s : State) (i : SiteNo), (s.site i).posture ≠ .seated →
    exec (.contactDropped i) s = .next (if (s.site i).posture = .seating
      then (s.setContactPin i false).setSite i { s.site i with posture := .unseated, debounce := none }
      else s.setContactPin i false)) ∧
  (∀ (s : State) (i : SiteNo), (s.site i).posture = .seated → (s.site i).job = none → s.LiftInv →
    exec (.contactDropped i) s = .next
      ((((s.setContactPin i false).setSite i { s.site i with posture := .unseated }).changeCond i .contact true).setSlotWaiter
        i false)) ∧
  (∀ (s : State) (i : SiteNo) (n : Nat), (s.site i).seatTimeout = some n →
    exec (.seatTimeoutExpiry i) s = .next (if (s.site i).posture = .unseated ∨ (s.site i).posture = .seating
      then (s.setSite i { s.site i with seatTimeout := none }).changeCond i .contact true
      else s.setSite i { s.site i with seatTimeout := none })) ∧
  (∀ (s : State) (i : SiteNo) (n : Nat), (s.site i).debounce = some n → (s.site i).posture ≠ .seating →
    exec (.debounceExpiry i) s = .next (s.setSite i { s.site i with debounce := none })) ∧
  (∀ (s : State) (i : SiteNo), (s.enabled i = false ∨ s.td.state = .clear) →
    exec (.dieSupplyAsserted i) s = .next (s.setOverLimitPin i true)) ∧
  (∀ (s : State) (i : SiteNo), s.enabled i = true → s.td.state ≠ .clear → (s.site i).job = none → s.LiftInv →
    exec (.dieSupplyAsserted i) s = .next
      (((s.setOverLimitPin i true).changeCond i .dieSupply true).setSlotWaiter i false)) ∧
  (∀ (s : State) (i : SiteNo), (s.enabled i = false ∨ s.td.state = .clear ∨ s.condOf i .dieSupply = false) →
    exec (.dieSupplyDeasserted i) s = .next (s.setOverLimitPin i false))

/-- R42, R47, R48, R136, R148: the debounce expiry at a SEATING site makes it SEATED, stops its timers and clears a declared
CONTACT; the end of over-limit clears a declared DIE_SUPPLY. Each then tests admission. Where the site may start its head job
and has a queued job, the head job is admitted if the log has a free slot, LOG_HIGH being evaluated, and otherwise the site
joins the slot-waiter set. Where it may not, or has no queued job, or already waits for a slot, nothing more happens. In a
NOTICE the bits that R178 gives no content are 0 by the model's choice (log entry 30). -/
def Obligations.AdmissionTestedAtSeatingAndSupply : Prop :=
  ∀ (s u : State) (i : SiteNo) (c : Instr),
    ((∃ n, c = .debounceExpiry i ∧ (s.site i).debounce = some n ∧ (s.site i).posture = .seating ∧
        u = (if s.condOf i .contact
          then (s.setSite i { s.site i with posture := .seated, debounce := none, seatTimeout := none }).changeCond i
            .contact false
          else s.setSite i { s.site i with posture := .seated, debounce := none, seatTimeout := none })) ∨
      (c = .dieSupplyDeasserted i ∧ s.enabled i = true ∧ s.td.state ≠ .clear ∧ s.condOf i .dieSupply = true ∧
        u = (s.setOverLimitPin i false).changeCond i .dieSupply false)) →
    (¬ u.MayAdmit i ∨ (s.site i).queue = [] ∨ s.log.slotWaiters[i] = true → exec c s = .next u) ∧
    (∀ p q, u.MayAdmit i → (s.site i).queue = p :: q → s.log.slotWaiters[i] = false →
      (256 ≤ s.log.records.length + s.log.reservations → exec c s = .next
        { u with log := { s.log with slotWaiters := s.log.slotWaiters.set i.val true i.isLt } }) ∧
      (s.log.records.length + s.log.reservations < 256 → ∃ t : State, exec c s = .next t ∧
        t.site i = (u.site i).admitted p q s.td.number ∧ (∀ k : SiteNo, k ≠ i → t.site k = s.site k) ∧
        t.log = { s.log with
          reservations := s.log.reservations + 1
          logHigh := logHighAfter s.log.logHigh (s.log.records.length + (s.log.reservations + 1)) } ∧
        (t.log.logHigh = s.log.logHigh → t.mon = u.mon ∧ t.link = u.link) ∧
        (t.log.logHigh ≠ s.log.logHigh → t.mon.flags.logHigh = true ∧ t.mon.site = u.mon.site) ∧
        t = { u with sites := t.sites, log := t.log, mon := t.mon, link := t.link }))

/-- R44, R56, R58, R73, R112, R113, R114, R115, R130, R131, R148: loss of contact at a SEATED site, or an over-limit input at an
enabled site outside CLEAR, ends the site's active job at that event. The condition is declared and latched first. The wires are
released and the exchange abandoned; the die loses its selection; a waiting request is withdrawn, a grant gives its units back,
and the grant test runs after each; then the job ends, and its key is disposed of. The record carries CONTACT_LOST or
DIE_SUPPLY_FAULT, or the pending end of a job in ENDING. A lift counts the end, and is complete with the last; the condition
stays declared unless this is so. That the pulse of another site counts at its grant is the model's choice (log entry 11). In a
NOTICE the bits that R178 gives no content are 0 by the model's choice (log entry 30). -/
def Obligations.DriveCutEndsTheJob : Prop :=
  ∀ (s u : State) (i : SiteNo) (j : Job) (c : Instr) (cond : SiteCond) (o : JobOutcome), (s.site i).job = some j →
    ((c = .contactDropped i ∧ (s.site i).posture = .seated ∧ cond = .contact ∧ o = .contactLost ∧
        u = (((s.setContactPin i false).setSite i { s.site i with posture := .unseated }).changeCond i .contact true).undriven i) ∨
      (c = .dieSupplyAsserted i ∧ s.enabled i = true ∧ s.td.state ≠ .clear ∧ cond = .dieSupply ∧ o = .dieSupplyFault ∧
        u = ((s.setOverLimitPin i true).changeCond i .dieSupply true).undriven i)) →
    ∃ v w t : State, exec c s = .next t ∧
      (s.arb.waiting[i] = none → v = u) ∧ (∀ d, s.arb.waiting[i] = some d → (u.unwait i).Grants v) ∧
      (s.arb.inFlight[i] = none → w = v) ∧ (∀ d, s.arb.inFlight[i] = some d → (v.ungrant i d).Grants w) ∧
      w.JobEnded t i j (if j.phase = .ending then (if j.pendingEnd = some .pumpTimeout then .pumpTimeout else .aborted) else o) ∧
      w.OnlyEnds t i ∧ t.td = s.tdAfterEnd i ∧
      (t.site i).port = { driven := false, exch := none } ∧ (t.site i).queue = (s.site i).queue ∧
      (t.site i).used = (s.site i).used ∧
      t.arb.waiting[i] = none ∧ t.arb.inFlight[i] = none ∧ t.ks.bound[i] = none ∧ i ∉ t.ks.waitList ∧
      t.ks.free = s.ks.free ∧ t.log.slotWaiters[i] = false ∧
      t.die i = { s.die i with
        held := (s.die i).held.map (fun h => { h with live := false }), response := none } ∧
      t.log.records = s.log.records ++ [{
        seq := s.log.nextSeq, posting := j.posting, site := i, touchdown := j.touchdown
        outcome := if j.phase = .ending then (if j.pendingEnd = some .pumpTimeout then .pumpTimeout else .aborted) else o
        disposition := if (s.ks.bound[i]).isSome then .retired else .none
        keyIndex := (s.ks.bound[i]).map Key.index
        relocated := relocatedCount j.map, corrected := j.corrected, pulses := j.pulses, failingRow := none }] ∧
      t.log.reservations = s.log.reservations - 1 ∧
      (t.smon i).flags.get cond = true ∧ t.mon.flags.recordAdded = true ∧
      (t.td.state = s.td.state → t.condOf i cond = true) ∧
      (∀ k : SiteNo, k ≠ i → (t.site k).posture = (s.site k).posture ∨ t.td.state = .clear)

/-! ### Programming supply -/

/-- R117, R118, R112, R113, R90: PUMP follows the fault input. Its assertion declares PUMP and starts the hold timer. Its
deassertion clears PUMP, stops the timer, clears timeout in force, latches PUMP, and grants: a granted request leaves the
waiting set, its units are in flight and its PULSE is sent at once; a site not granted is left as it was. Granting goes on until
no request waits or the first waiter from the rotation pointer does not fit: the grants are those of R112 and R113, one after
another from the state in which PUMP is clear and has latched. While held in reset only the level changes, which is the model's
choice (log entry 15). That the pulse counts as issued at the grant is the model's choice (log entry 11). In a NOTICE the bits
that R178 gives no content are 0 by the model's choice (log entry 30). -/
def Obligations.PumpFollowsItsInput : Prop :=
  (∀ s : State, s.rst.heldInReset = true →
    exec .pumpFaultAsserted s = .next (s.setPumpPin true) ∧ exec .pumpFaultDeasserted s = .next (s.setPumpPin false)) ∧
  (∀ s : State, s.rst.heldInReset = false →
    exec .pumpFaultAsserted s = .next
      ({ s.setPumpPin true with arb := { s.arb with pump := true, holdTimer := some s.cfg.pumpHoldLimit } }.latchGlobal .pump)) ∧
  (∀ s : State, s.rst.heldInReset = false → ∃ t : State, exec .pumpFaultDeasserted s = .next t ∧
    ({ s.setPumpPin false with
      arb := { s.arb with pump := false, holdTimer := none, timeoutInForce := false } }.latchGlobal .pump).Grants t ∧
    t.arb.pump = false ∧ t.arb.holdTimer = none ∧ t.arb.timeoutInForce = false ∧
    t.mon = ({ s with arb := { s.arb with pump := false } }.latchGlobal .pump).mon ∧
    t.link = ({ s with arb := { s.arb with pump := false } }.latchGlobal .pump).link ∧
    (∀ i : SiteNo,
      (t.arb.waiting[i] = s.arb.waiting[i] ∧ t.arb.inFlight[i] = s.arb.inFlight[i] ∧ t.site i = s.site i) ∨
      (∃ d, s.arb.waiting[i] = some d ∧ t.arb.waiting[i] = none ∧ t.arb.inFlight[i] = some d ∧
        ∀ j, (s.site i).job = some j → t.site i = { s.site i with
          job := some { j with
            pulses := min (j.pulses + 1) 65535
            engine := { j.engine with stage := .pulsing, chunks := j.engine.chunks.tail } }
          port := { (s.site i).port with exch := some {
            cmd := .pulse (j.engine.chunks.headD 0), attempt := 1, retry := false
            deadline := s.cfg.pulseWidth + s.cfg.dieResponseTimeout, timer := none, rx := [] } } })) ∧
    (∀ (i : SiteNo) (d : Nat), t.arb.waiting[i] = some d →
      (∀ k : SiteNo, (k - t.arb.pointer).val < (i - t.arb.pointer).val → t.arb.waiting[k] = none) →
      t.cfg.pumpCapacity < t.arb.inUse + d) ∧
    (∀ (i : SiteNo) (d : Nat), s.arb.waiting[i] = some d →
      (∀ k : SiteNo, (k - s.arb.pointer).val < (i - s.arb.pointer).val → s.arb.waiting[k] = none) →
      s.arb.inUse + d ≤ s.cfg.pumpCapacity → t.arb.inFlight[i] = some d) ∧
    (s.arb.inUse ≤ s.cfg.pumpCapacity → t.arb.inUse ≤ s.cfg.pumpCapacity) ∧
    t.log = s.log ∧ t.ks = s.ks ∧ t.td = s.td ∧ t.cfg = s.cfg ∧ t.dies = s.dies)

/-- R119, R57: the hold timer's expiry sets timeout in force and empties the waiting set; grants in flight and the rotation
pointer stay. A job whose request was waiting, with its row open, goes to ENDING with pending end PUMP_TIMEOUT, and one
CLOSE ROW without a retry is sent; with its row closed it ends at once in a PUMP_TIMEOUT record. No other site's job or port
is touched. -/
def Obligations.PumpHoldExpiryAbortsWaiters : Prop :=
  ∀ (s : State) (n : Nat), s.arb.holdTimer = some n → s.SiteInv →
    ∃ t : State, exec .pumpHoldExpiry s = .next t ∧
      t.arb = { s.arb with holdTimer := none, timeoutInForce := true, waiting := Vector.replicate 16 none } ∧
      ∀ i : SiteNo,
        (s.arb.waiting[i] = none → (t.site i).job = (s.site i).job ∧ (t.site i).port = (s.site i).port) ∧
        (∀ (d : Nat) (j : Job), s.arb.waiting[i] = some d → (s.site i).job = some j → j.phase ≠ .ending →
          (j.engine.rowOpen = true →
            (t.site i).job = some { j with
              phase := .ending, pendingEnd := some .pumpTimeout
              engine := { j.engine with
                openTimer := none, settleTimer := none, restTimer := none, stage := .closing, rowOpen := false
                expired := false } } ∧
            (t.site i).port = { (s.site i).port with exch := some {
              cmd := .closeRow j.engine.regionRow, attempt := 1, retry := false, deadline := s.cfg.dieResponseTimeout
              timer := none, rx := [] } }) ∧
          (j.engine.rowOpen = false → (t.site i).job = none ∧
            ∃ r ∈ t.log.records, r.site = i ∧ r.posting = j.posting ∧ r.outcome = .pumpTimeout))

/-! ### Invariants over the sites -/

/-- R83, R110, R111, R113, R19, R21, R84: what ties sites, ports, Supply Arbiter and Key Store to each other holds after every
step when it and the Issue Log's account hold before it. In particular the units granted and not yet released are the sum of
the grants in flight and never exceed PUMP_CAPACITY, each grant is held by one PULSE whose mask has as many cells, and a job
exists only at a SEATED, driven, used site with LINK and DIE_SUPPLY clear. -/
def Obligations.StepKeepsSiteInvariant : Prop :=
  ∀ s t : State, s.LogInv → s.SiteInv → step s = .next t → t.SiteInv

/-- R170, R40, R18, R20, R23, R75: after every step as before it, every parameter stays within its range; a site is DISABLED
exactly when it is not in SITES_ENABLED; and the free indices ascend strictly, none exceeds the high-water index, and free and
bound keys together are at most 1024; and the oldest frame a die holds is of a known code. The last holds because a frame of an
unknown code is answered at the moment it becomes the oldest, with no command of the table, which is the model's reading of R75
(log entry 19). -/
def Obligations.StepKeepsRangesPosturesKeysAndFrames : Prop :=
  (∀ s t : State, s.RangeInv → step s = .next t → t.RangeInv) ∧
  (∀ s t : State, s.PostureInv → step s = .next t → t.PostureInv) ∧
  (∀ s t : State, s.KeyInv → step s = .next t → t.KeyInv) ∧
  (∀ s t : State, s.DieInv → step s = .next t → t.DieInv)

/-- The reset state meets every invariant stated here. Where an invariant reads an input, the unit number, the straps or a
die's cells, their values at reset are the model's choice (log entries 2, 3, 4). -/
def Obligations.ResetMeetsInvariants : Prop :=
  State.reset.SeqInv ∧ State.reset.LogInv ∧ State.reset.LinkInv ∧ State.reset.PostureInv ∧ State.reset.SiteInv ∧
  State.reset.KeyInv ∧ State.reset.RangeInv ∧ State.reset.LiftInv ∧ State.reset.DieInv

/-! ### Die ports -/

/-- R66, R64, R73, R75: at the end of the command frame the attempt's response deadline starts. The die holds a frame that came
unharmed, behind any earlier frame that it is still carrying out. What a wire damages is given from outside (log entry 6); a
frame damaged so that its check fails changes nothing at the die. A whole frame with an unknown code is answered REFUSED, with
data 0, which is the model's choice (log entry 23): at once when the die holds no other frame, and else when it comes to it
(DieCarriesOutItsCommands). That this takes no command of the table is the model's reading of R75 (log entry 19). -/
def Obligations.CommandFrameReachesTheDie : Prop :=
  ∀ (s : State) (i : SiteNo) (x : Exchange), (s.site i).port.exch = some x → x.timer = none →
    (∀ h ∈ (s.die i).held.head?, h.Known) →
    exec (.commandFrameSent i .clean) s = .next
      ((s.setExch i (some { x with timer := some x.deadline })).setDie i { s.die i with
        held := (s.die i).held ++
          [{ frame := { code := x.cmd.fields.1, row := x.cmd.fields.2.1, arg := x.cmd.fields.2.2 }, live := true }] }) ∧
    (∀ bs, readDieFrame bs = none → exec (.commandFrameSent i (.bytes bs)) s = .next
      (s.setExch i (some { x with timer := some x.deadline }))) ∧
    (∀ bs f, readDieFrame bs = some f → f.code ∉ ([1, 2, 3, 0x10, 0x11, 0x12, 0x13, 0x20, 0x21] : List Byte) →
      ((s.die i).held = [] → exec (.commandFrameSent i (.bytes bs)) s = .next
        ((s.setExch i (some { x with timer := some x.deadline })).setDie i { s.die i with
          response := some (responseBytes 0xE2 0) })) ∧
      ((s.die i).held ≠ [] → exec (.commandFrameSent i (.bytes bs)) s = .next
        ((s.setExch i (some { x with timer := some x.deadline })).setDie i { s.die i with
          held := (s.die i).held ++ [{ frame := f, live := true }] })))

/-- R65, R68, R179: the seven bytes of each command frame and its response deadline; two commands never have the same frame; a
die reads back what was sent; and no frame or response with one byte changed passes its check. -/
def Obligations.DiePortFramesRoundTrip : Prop :=
  (∀ p ∈ ([(.reset, 0x01, 0, fun _ => 1000), (.closeAll, 0x02, 0, fun c => c.dieResponseTimeout),
      (.reload, 0x20, 0, fun _ => 2000)] : List (DieCmd × Byte × Byte × (Params → Nat))),
    p.1.frame = [p.2.1, p.2.2.1, 0, 0, 0, 0, p.2.1 ^^^ p.2.2.1 ^^^ 0x3C] ∧ ∀ c, deadlineOf c p.1 = p.2.2.2 c) ∧
  (∀ r : RegionRow, ∀ p ∈ ([(.sense r .normal, 0x10, 0), (.sense r .high, 0x10, 1), (.openRow r, 0x11, 0),
      (.closeRow r, 0x13, 0)] : List (DieCmd × Byte × Byte)),
    p.1.frame = [p.2.1, BitVec.ofNat 8 r.val, p.2.2, 0, 0, 0, p.2.1 ^^^ BitVec.ofNat 8 r.val ^^^ p.2.2 ^^^ 0x3C] ∧
    ∀ c, deadlineOf c p.1 = c.dieResponseTimeout) ∧
  (∀ (w : BitVec 16) (c : Params), (DieCmd.enterProvisioning w).frame.take 6 = [0x03, 0] ++ bytesLE 2 w.toNat ++ [0, 0] ∧
    deadlineOf c (.enterProvisioning w) = c.dieResponseTimeout) ∧
  (∀ (m : Row) (c : Params), (DieCmd.pulse m).frame.take 6 = [0x12, 0] ++ bytesLE 4 m.toNat ∧
    deadlineOf c (.pulse m) = c.pulseWidth + c.dieResponseTimeout) ∧
  (∀ (w : Fin 12) (c : Params), (DieCmd.readShadow w).frame.take 6 = [0x21, 0, BitVec.ofNat 8 w.val, 0, 0, 0] ∧
    deadlineOf c (.readShadow w) = c.dieResponseTimeout) ∧
  (∀ c c' : DieCmd, c.frame = c'.frame → c = c') ∧
  (∀ c : DieCmd, readDieFrame c.frame = some { code := c.fields.1, row := c.fields.2.1, arg := c.fields.2.2 }) ∧
  (∀ (c : DieCmd) (k : Nat) (b : Byte), k < 7 → c.frame[k]? ≠ some b → readDieFrame (c.frame.set k b) = none) ∧
  (∀ data : BitVec 32, readResponse (responseBytes 0xD1 data) = .done data ∧
    readResponse (responseBytes 0xE2 data) = .refused) ∧
  (∀ (st : Byte) (data : BitVec 32) (k : Nat) (b : Byte), k < 6 → (responseBytes st data)[k]? ≠ some b →
    readResponse ((responseBytes st data).set k b) = .lost)

/-- R67, R66: fill before the first byte that is not 0x00 is passed over, a response of fewer than six bytes is held and ends
nothing, and bytes after the sixth are not sampled. With no deadline running at the site no byte is taken. That a
DIE_RESPONSE_COMPLETE may bring fewer than six bytes, which are held, is the model's choice (log entry 6), and that one with
no attempt waiting changes nothing is its inference (log entry 19). -/
def Obligations.ResponseBytesAreGathered : Prop :=
  (∀ (n : Nat) (bs more : List Byte), bs.length = 6 → bs.head? ≠ some 0 →
    takeDdi [] (List.replicate n 0 ++ bs ++ more) = bs) ∧
  (∀ (s : State) (i : SiteNo) (x : Exchange) (n m left : Nat) (bs : List Byte), (s.site i).port.exch = some x →
    x.timer = some m → x.rx = [] → bs.length < 6 → bs.head? ≠ some 0 →
    exec (.dieResponseComplete i (.bytes (List.replicate n 0 ++ bs)) left) s = .next
      (s.setExch i (some { x with rx := bs }))) ∧
  (∀ (s : State) (i : SiteNo) (ddi : Wire) (left : Nat), (∀ x, (s.site i).port.exch = some x → x.timer = none) →
    exec (.dieResponseComplete i ddi left) s = .next s)

/-- R66, R69, R71, R59, R61, R57, R58, R72, R112, R113, R114: an attempt that fails, by its deadline, by REFUSED or by a check
error, is sent once more when it is the first and its retry stands; the job goes on, and only the port, the die's selection and
the noted time left on the open timer (the lesser of the noted and the reported time; log entry 9) change. When it is the last,
and the command is no PULSE and the job not in ENDING, the job ends at that event: DIE_REFUSED after REFUSED, else LINK_LOST
with LINK declared and latched; a lift counts it, and returns to CLEAR with the last. In ENDING, where no retry is left, the
exchange's ending is not used, whatever it is, but a PULSE's units are released: with a row open one CLOSE ROW is sent without a
retry, and with none open the job ends with its pending end as outcome and LINK untouched. The release lets other sites be
granted, whose pulses count at the grant, the model's choice (log entry 11). A PULSE outside ENDING is PulseEndReleasesItsUnits. -/
def Obligations.FailedAttemptRetriesOnceThenEndsTheJob : Prop :=
  ∀ (s : State) (i : SiteNo) (j j1 : Job) (x : Exchange) (m left : Nat) (c : Instr) (e : Ending),
    (s.site i).job = some j → (s.site i).port.exch = some x → x.timer = some m → endsAttempt c i left x.rx e →
    j1 = { j with engine := { j.engine with openTimer := j.engine.openTimer.map (min left) } } →
    (e = .refused ∨ e = .lost → x.attempt = 1 → x.retry = true → exec c s = .next
      ((s.selectionOver i).siteWith i j1 (some {
        cmd := x.cmd, attempt := 2, retry := true, deadline := deadlineOf s.cfg x.cmd, timer := none, rx := [] }))) ∧
    (∀ o : JobOutcome, (e = .refused ∧ o = .dieRefused ∨ e = .lost ∧ o = .linkLost) → (x.attempt ≠ 1 ∨ x.retry = false) →
      x.cmd.isPulse = false → j.phase ≠ .ending →
      ∃ t : State, exec c s = .next t ∧ s.JobEnded t i j o ∧ (s.selectionOver i).OnlyEnds t i ∧
        (t.smon i).flags = (if o = .linkLost then { (s.smon i).flags with link := true } else (s.smon i).flags) ∧
        (t.smon i).cond.link = (if o = .linkLost then true else (s.smon i).cond.link)) ∧
    (j.phase = .ending → x.retry = false → s.arb.waiting[i] = none →
      ∃ v t : State, exec c s = .next t ∧
        (x.cmd.isPulse = false → v = (s.selectionOver i).siteWith i j1 none) ∧
        (∀ d, x.cmd.isPulse = true → s.arb.inFlight[i] = some d →
          (((s.selectionOver i).siteWith i j1 none).ungrant i d).Grants v) ∧
        (j.engine.rowOpen = true →
          t = v.siteWith i j1.lastClose (some (Exchange.fresh s.cfg (.closeRow j.engine.regionRow) false))) ∧
        (j.engine.rowOpen = false →
          v.JobEnded t i j1 (if j.pendingEnd = some .pumpTimeout then .pumpTimeout else .aborted) ∧ v.OnlyEnds t i ∧
          (t.smon i).flags = (s.smon i).flags ∧ (t.smon i).cond.link = (s.smon i).cond.link))

/-- R59, R70, R71, R90, R91, R93, R95, R96, R97, R109, R111, R112, R113, R114, R119: a PULSE that ends outside ENDING, by DONE,
REFUSED, a check error or its deadline, releases its units, and the grant test runs. REFUSED ends the job DIE_REFUSED at that
event, with LINK untouched; a lift counts it, and returns to CLEAR with the last. By the other endings the job does not end. With no
chunk left the Row Engine senses the row at HIGH margin, or closes the row first when its open time has expired. With a chunk
left it turns to it by way of the open-time guard: a grant request, tested at once or left waiting under PUMP, or ended by timeout
in force; or CLOSE ROW, when too little time is left or the open time has expired. The time left is the lesser of the noted and
the reported time (log entry 9), a pulse counts as issued at its grant (log entry 11), and a guard that fails at a reopen count
of 4 keeps the chunks through CLOSING (log entry 24): these are the model's choices. -/
def Obligations.PulseEndReleasesItsUnits : Prop :=
  ∀ (s : State) (i : SiteNo) (j j1 : Job) (x : Exchange) (mask : Row) (m d left : Nat) (c : Instr) (e : Ending),
    (s.site i).job = some j → (s.site i).port.exch = some x → x.timer = some m → x.cmd = .pulse mask → x.retry = false →
    (j.phase = .program ∨ j.phase = .lock) → j.engine.stage = .pulsing → s.arb.inFlight[i] = some d →
    s.arb.waiting[i] = none → endsAttempt c i left x.rx e →
    j1 = { j with engine := { j.engine with openTimer := j.engine.openTimer.map (min left) } } →
    ∃ v t : State, exec c s = .next t ∧ (((s.selectionOver i).siteWith i j1 none).ungrant i d).Grants v ∧
      (e = .refused →
        v.JobEnded t i j1 .dieRefused ∧ v.OnlyEnds t i ∧
        (t.smon i).flags = (s.smon i).flags ∧ (t.smon i).cond.link = (s.smon i).cond.link ∧ t.td = s.tdAfterEnd i) ∧
      (e ≠ .refused →
        t.log = s.log ∧ t.ks = s.ks ∧ t.mon = s.mon ∧ t.link = s.link ∧ t.td = s.td ∧ t.active i = true ∧
        (j.engine.chunks = [] →
          (j.engine.expired = false →
            t = v.siteWith i { j1 with engine := { j1.engine with stage := .sensing } }
              (some (Exchange.fresh s.cfg (.sense j.engine.regionRow .high) true))) ∧
          (j.engine.expired = true → j.engine.rowOpen = true →
            t = v.siteWith i (j1.closing .sense) (some (Exchange.fresh s.cfg (.closeRow j.engine.regionRow) true)))) ∧
        (j.engine.chunks ≠ [] → v.TurnsToChunk i j1 t))

/-! ### The job's phases -/

/-- R49, R50, R65: the exchanges of BRINGUP in order, RESET, CLOSE ALL, ENTER PROVISIONING with PULSE_WIDTH, and SENSE of row 0
twice; then SENSE at NORMAL margin of rows 0 to 19 in ascending order, each read stored in the snapshot. Each DONE response
sends the next command at once, and nothing else changes. -/
def Obligations.BringupAndBlankCheckSequence : Prop :=
  ∀ (s : State) (i : SiteNo) (j : Job) (x : Exchange) (m left : Nat) (data : BitVec 32),
    (s.site i).job = some j → (s.site i).port.exch = some x → x.timer = some m → x.rx = [] → x.cmd.isPulse = false →
    j.engine.openTimer = none →
    ∀ (j' : Job) (next : DieCmd),
      ((j.phase = .bringup ∧ j.step < 4 ∧ j' = { j with step := j.step + 1 } ∧
          next = [DieCmd.reset, .closeAll, .enterProvisioning (BitVec.ofNat 16 s.cfg.pulseWidth), .sense 0 .normal,
            .sense 0 .normal].getD (j.step + 1) .reset) ∨
        (j.phase = .bringup ∧ j.step = 4 ∧ j' = { j with phase := .blankCheck, step := 0 } ∧ next = .sense 0 .normal) ∨
        (j.phase = .blankCheck ∧ ∃ h : j.step + 1 < 20,
          j' = { j with snapshot := j.snapshot ++ [data], step := j.step + 1 } ∧ next = .sense ⟨j.step + 1, h⟩ .normal)) →
      exec (.dieResponseComplete i (.bytes (responseBytes 0xD1 data)) left) s = .next
        ((s.setSite i { s.site i with
          job := some j'
          port := { (s.site i).port with exch := some {
            cmd := next, attempt := 1, retry := true, deadline := s.cfg.dieResponseTimeout, timer := none, rx := [] } } }).setDie
          i { s.die i with held := (s.die i).held.map (fun h => { h with live := false }), response := none })

/-- R50, R51, R26, R27, R33, R52, R85, R53, R54, R55, R61, R127, R130, R131: the judgements that a DONE response brings, in OPEN
and while lifting alike. The last row of BLANK_CHECK: a lock row with no cell blown goes to the bind point, which binds the
front key, builds the image and makes what image row 0 leads to: with at most one conflict cell its row attempt with the first
die command, else a spare's or the end ROW_UNREPAIRABLE; POOL_LOW is then evaluated on the reduced free count and latches when
it changes, and a lift left without a job completes. With no key free the job waits in KEY_WAIT at the back of the wait list; a
valid lock row ends the job ALREADY_LOCKED, any other REGION_NOT_BLANK. SHADOW_CHECK: counts and lock flag that agree lead to
READ SHADOW of word 0, a word that matches to the next, the last to PROVISIONED, or PROVISIONED_REPAIRED when a row was
corrected or relocated; any difference ends the job SHADOW_MISMATCH. Each ended job leaves its record; a lift counts it, and
returns to CLEAR with the last. In a NOTICE the bits that R178 gives no content are 0 by the model's choice (log entry 30). -/
def Obligations.BlankAndShadowChecksDecide : Prop :=
  ∀ (s : State) (i : SiteNo) (j : Job) (x : Exchange) (m left : Nat) (data : BitVec 32),
    (s.site i).job = some j → (s.site i).port.exch = some x → x.timer = some m → x.rx = [] → x.cmd.isPulse = false →
    ∃ t : State, exec (.dieResponseComplete i (.bytes (responseBytes 0xD1 data)) left) s = .next t ∧
      (∀ o, ((j.phase = .blankCheck ∧ 19 ≤ j.step ∧ data ≠ 0 ∧
              o = if lockRowValid data then .alreadyLocked else .regionNotBlank) ∨
            (j.phase = .shadowCheck ∧ j.step = 0 ∧ o = .shadowMismatch ∧
              ¬ (data.toNat % 256 = j.corrected ∧ data.toNat / 256 % 256 = relocatedCount j.map ∧
                data.toNat / 65536 % 256 = 1)) ∨
            (∃ w im, j.phase = .shadowCheck ∧ j.step = w + 1 ∧ j.image = some im ∧ o = .shadowMismatch ∧
              wordBytes data ≠ (List.range 4).map (fun k => byteAt im.bytes (4 * w + k))) ∨
            (∃ im, j.phase = .shadowCheck ∧ j.step = 12 ∧ j.image = some im ∧
              wordBytes data = (List.range 4).map (fun k => byteAt im.bytes (44 + k)) ∧
              o = if j.corrected = 0 ∧ relocatedCount j.map = 0 then .provisioned else .provisionedRepaired)) →
          s.JobEnded t i j o ∧ (s.selectionOver i).OnlyEnds t i ∧ (t.smon i).flags = (s.smon i).flags ∧
          (t.smon i).cond.link = (s.smon i).cond.link) ∧
      (j.phase = .blankCheck → 19 ≤ j.step → data = 0 →
        (s.ks.free = [] → t.ks = { s.ks with waitList := s.ks.waitList ++ [i] } ∧
          ((t.site i).job.map (fun j' => (j'.phase, j'.snapshot))) = some (.keyWait, j.snapshot ++ [0]) ∧
          (t.site i).port.exch = none) ∧
        (∀ key rest, s.ks.free = key :: rest → t.ks.free = rest ∧
          (∀ j', (t.site i).job = some j' → t.ks.bound[i] = some key ∧ j'.phase = .program ∧
            j'.image = some (buildImage key j.posting s.unitNumber)) ∧
          ((t.site i).job = none → ∃ r ∈ t.log.records, r.site = i ∧ r.outcome = .rowUnrepairable ∧
            r.keyIndex = some key.index ∧ r.disposition = .retired) ∧
          ∀ (j0 : Job) (snap word : Row) (ks : KeyStore) (low : Bool),
            j0 = { j with
              snapshot := j.snapshot ++ [0], phase := .program, step := 0
              image := some (buildImage key j.posting s.unitNumber) } →
            snap = j0.snapshot.getD 0 0 → word = rowWord (imageRow (imageBytes key j.posting s.unitNumber) 0) →
            ks = { s.ks with free := rest, bound := s.ks.bound.set i.val (some key) i.isLt } →
            low = poolLowAfter s.ks.poolLow s.cfg.poolLowThreshold rest.length →
            (∃ v w : State, { s with ks := ks }.MovesOn i (j0.startImageRow 0) v ∧
              w = (if low = s.ks.poolLow then v
                else State.latchGlobal { v with ks := { v.ks with poolLow := low } } .poolLow) ∧
              (s.td.state.lifting = false ∨ w.anyActive = true → t = w) ∧
              (t.ks = w.ks ∧ t.log = w.log ∧ t.mon.flags = w.mon.flags) ∧
              (∀ o, (j0.startImageRow 0).2 = .finish o → ({ s with ks := ks }.selectionOver i).OnlyEnds t i)) ∧
            (cellCount (snap &&& ~~~word) ≤ 1 →
              t.site i = { s.site i with
                job := some { j0 with engine := RowEngine.started (.own 0) 0 word snap }
                port := { (s.site i).port with exch := some (Exchange.fresh s.cfg (firstCommand 0 word snap) true) } } ∧
              t.ks = { ks with poolLow := low }))) ∧
      (∀ next, ((j.phase = .shadowCheck ∧ j.step = 0 ∧ data.toNat % 256 = j.corrected ∧
              data.toNat / 256 % 256 = relocatedCount j.map ∧ data.toNat / 65536 % 256 = 1 ∧ next = .readShadow 0) ∨
            (∃ w im, ∃ h : w + 1 < 12, j.phase = .shadowCheck ∧ j.step = w + 1 ∧ j.image = some im ∧
              wordBytes data = (List.range 4).map (fun k => byteAt im.bytes (4 * w + k)) ∧
              next = .readShadow ⟨w + 1, h⟩)) →
          t.log = s.log ∧ ((t.site i).job.map (fun j' => (j'.phase, j'.step))) = some (.shadowCheck, j.step + 1) ∧
          ((t.site i).port.exch.map Exchange.cmd) = some next)

/-! ### The Row Engine -/

/-- R85, R87, R88, R90, R91, R93, R95 to R105, R111 to R113, R119: the rules of a row attempt. A cell set is split into chunks in ascending cell number: none is
empty or larger than L, all but the last hold L cells, no cell is lost and none is doubled. A verify read is GOOD when it is
the word, CORRECTED when one cell other than W differs, and FAILED otherwise. An attempt starts at its own row, or fails there
at once by two or more conflict cells and goes to a spare: the lowest with entry 0, void entries and spares in use being
passed over; with none left the job ends ROW_UNREPAIRABLE; and a spare with two or more conflict cells goes void at once.

Over DIE_RESPONSE_COMPLETE with DONE, in PROGRAM and LOCK: OPEN ROW starts the open timer and the 10 µs settle. The HIGH-margin
sense begins a new round of the target cells that read unblown, by way of the guard, or goes to verify when none does or
MAX_ROUNDS is reached. CLOSE ROW is followed by the verify sense, or after a start of the 50 µs rest by the HIGH-margin sense,
or by the rest, or at a reopen count of 4 by the verify sense (the chunks are dropped here; log entry 24). The verify sense
judges the attempt: an accepted image row leads to the next one or to LOCK, with its spare's entry set and a CORRECTED row
counted; a failed one to a spare, a failed spare being void; the lock row to RELOAD or to LOCK_FAILED. The time left on the
open timer is the lesser of the noted and the reported time (log entry 9), a pulse counts as issued at its grant (log entry 11),
and a guard that fails at a reopen count of 4 keeps the chunks through CLOSING (log entry 24): these are the model's choices. -/
def Obligations.RowAttemptRules : Prop :=
  (∀ (l : Nat) (w : Row), 1 ≤ l →
    (splitChunks l w).flatMap cellsOf = cellsOf w ∧
    (∀ c ∈ splitChunks l w, 1 ≤ cellCount c ∧ cellCount c ≤ l) ∧
    (∀ c ∈ (splitChunks l w).dropLast, cellCount c = l)) ∧
  (∀ word read : Row, word.getLsbD 31 = true →
    (judgeRow word read = .good ↔ read = word) ∧
    (judgeRow word read = .corrected ↔ ∃ k : Nat, k < 31 ∧ read = word ^^^ (1#32 <<< k)) ∧
    (read.getLsbD 31 = false → judgeRow word read = .failed)) ∧
  (∀ (j : Job) (k : Fin 16) (word : Row),
    ((∀ e : Fin 3, j.map[e] ≠ 0) → Job.trySpares k word allSpares j = (j, .finish .rowUnrepairable)) ∧
    (∀ e : Fin 3, j.map[e] = 0 → (∀ e' : Fin 3, e' < e → j.map[e'] ≠ 0) →
      (j.conflictsAt (spareRow e) word ≤ 1 → Job.trySpares k word allSpares j =
        ({ j with engine := RowEngine.started (.spare k e) (spareRow e) word (j.snapRow (spareRow e)) },
          .send (firstCommand (spareRow e) word (j.snapRow (spareRow e))) true)) ∧
      (2 ≤ j.conflictsAt (spareRow e) word →
        Job.trySpares k word allSpares j = Job.trySpares k word allSpares
          { j with map := j.map.set e.val 31 e.isLt, failingRow := some (spareRow e), engine := RowEngine.idle })) ∧
    (∀ im, j.image = some im → im.words[k.val]? = some word →
      (j.conflictsAt (ownRow k) word ≤ 1 → j.startImageRow k =
        ({ j with engine := RowEngine.started (.own k) (ownRow k) word (j.snapRow (ownRow k)) },
          .send (firstCommand (ownRow k) word (j.snapRow (ownRow k))) true)) ∧
      (2 ≤ j.conflictsAt (ownRow k) word → j.startImageRow k =
        Job.trySpares k word allSpares { j with failingRow := some (ownRow k), engine := RowEngine.idle })) ∧
    (word = lockWordOf j.map → j.conflictsAt lockRow word ≤ 1 → j.startLock =
      ({ j with
          phase := .lock, lockWord := some word
          engine := RowEngine.started .lock lockRow word (j.snapRow lockRow) },
        .send (firstCommand lockRow word (j.snapRow lockRow)) true))) ∧
  (∀ (s : State) (i : SiteNo) (j j1 : Job) (x : Exchange) (m left : Nat) (c : Instr) (data : BitVec 32),
    (s.site i).job = some j → (s.site i).port.exch = some x → x.timer = some m → x.cmd.isPulse = false →
    (j.phase = .program ∨ j.phase = .lock) → s.arb.waiting[i] = none → endsAttempt c i left x.rx (.done data) →
    j1 = { j with engine := { j.engine with openTimer := j.engine.openTimer.map (min left) } } →
    (j.engine.stage = .opening → exec c s = .next (s.goesTo i { j with engine := { j.engine with
      stage := .settling, openTimer := some s.cfg.rowOpenLimit, settleTimer := some 10 } } none)) ∧
    (j.engine.stage = .sensing →
      ((j.engine.target &&& ~~~data = 0 ∨ s.cfg.maxRounds ≤ j.engine.round) →
        (j.engine.rowOpen = true →
          exec c s = .next (s.goesTo i (j.closing .verify) (some (.closeRow j.engine.regionRow)))) ∧
        (j.engine.rowOpen = false →
          exec c s = .next (s.goesTo i j1.verifying (some (.sense j.engine.regionRow .normal))))) ∧
      (j.engine.target &&& ~~~data ≠ 0 → j.engine.round < s.cfg.maxRounds →
        ∃ t : State, exec c s = .next t ∧ (s.goesTo i j1 none).TurnsToChunk i { j1 with engine := { j1.engine with
          round := j.engine.round + 1
          chunks := splitChunks (min s.cfg.pumpCapacity 32) (j.engine.target &&& ~~~data) } } t)) ∧
    (j.engine.stage = .closing → j.engine.rowOpen = false →
      (j.engine.afterClose = .verify →
        exec c s = .next (s.goesTo i j1.verifying (some (.sense j.engine.regionRow .normal)))) ∧
      (j.engine.afterClose = .sense →
        exec c s = .next (s.goesTo i { j1 with engine := { j1.engine with stage := .sensing, restTimer := some 50 } }
          (some (.sense j.engine.regionRow .high)))) ∧
      (j.engine.afterClose = .chunk →
        (j.engine.reopens < 4 → exec c s = .next
          (s.goesTo i { j1 with engine := { j1.engine with stage := .resting, restTimer := some 50 } } none)) ∧
        (4 ≤ j.engine.reopens → exec c s = .next
          (s.goesTo i ({ j1 with engine := { j1.engine with chunks := [] } } : Job).verifying
            (some (.sense j.engine.regionRow .normal)))))) ∧
    (j.engine.stage = .verifying → ∃ t : State, exec c s = .next t ∧
      ∀ (r : RowResult) (k : Fin 16) (accepted : Job), r = judgeRow j.engine.word data →
        accepted = { j with
          engine := RowEngine.idle, corrected := if r = .corrected then j.corrected + 1 else j.corrected } →
        (r = .failed →
          (j.engine.purpose = .own k → s.MovesOn i (Job.trySpares k j.engine.word allSpares
            { j with failingRow := some j.engine.regionRow, engine := RowEngine.idle }) t) ∧
          (∀ e, j.engine.purpose = .spare k e → s.MovesOn i (Job.trySpares k j.engine.word allSpares
            { j with
              failingRow := some j.engine.regionRow, engine := RowEngine.idle
              map := j.map.set e.val 31 e.isLt }) t) ∧
          (j.engine.purpose = .lock → s.JobEnded t i { j with failingRow := some j.engine.regionRow } .lockFailed)) ∧
        (r ≠ .failed →
          (∀ placed : Job, ((j.engine.purpose = .own k ∧ placed = accepted) ∨
              ∃ e, j.engine.purpose = .spare k e ∧
                placed = { accepted with map := j.map.set e.val (BitVec.ofNat 5 (k.val + 1)) e.isLt }) →
            (∀ k' : Fin 16, k'.val = k.val + 1 → s.MovesOn i (placed.startImageRow k') t) ∧
            (k.val = 15 → s.MovesOn i placed.startLock t)) ∧
          (j.engine.purpose = .lock →
            t = s.goesTo i { accepted with phase := .shadowCheck, step := 0 } (some .reload)))))

/-- R87, R88, R93, R90, R96, R97, R95, R94, R111, R112, R113, R115, R119: the Row Engine's timers. At the settle expiry of a first opening
round 1 begins with the chunks of the target set, and at that of a reopening the round goes on (in a job not in ENDING, where
the settle timer is stopped); the Row Engine turns to the front chunk by way of the guard: a grant request, tested at once with PUMP clear, left waiting with PUMP declared, or ending
the job PUMP_TIMEOUT under timeout in force; or CLOSE ROW with too little time left. The open timer's expiry in GRANT_WAIT
withdraws the request, runs the grant test and closes the row; in PULSING or SENSING it only sets the expired flag. The rest
expiry in RESTING opens the row again and counts the reopening; in another stage it only stops the timer. The time left that
the guard sees, 10 µs less than noted (log entry 9), the count of a pulse at its grant (log entry 11), and that the guard's close
and the open-timer expiry keep the chunks through CLOSING also at a reopen count of 4 (log entry 24) are the model's choices. -/
def Obligations.RowEngineTimersAct : Prop :=
  ∀ (s : State) (i : SiteNo) (j : Job), (s.site i).job = some j →
    (∀ (a : Nat) (j1 : Job), j.engine.settleTimer = some a → j.engine.stage = .settling → j.phase ≠ .ending →
      (s.site i).port.exch = none → s.arb.waiting[i] = none →
      j1 = { j with engine := { j.engine with
        settleTimer := none, openTimer := j.engine.openTimer.map (fun n => n - 10)
        round := if j.engine.round = 0 then 1 else j.engine.round
        chunks := if j.engine.round = 0 then splitChunks (min s.cfg.pumpCapacity 32) j.engine.target
          else j.engine.chunks } } →
      ∃ t : State, exec (.settleTimerExpiry i) s = .next t ∧ s.TurnsToChunk i j1 t) ∧
    (∀ n d, j.engine.openTimer = some n → j.engine.stage = .grantWait → s.arb.waiting[i] = some d →
      ∃ t : State, exec (.openTimerExpiry i) s = .next t ∧
        ((s.siteWith i (j.closing .chunk)
          (some (Exchange.fresh s.cfg (.closeRow j.engine.regionRow) true))).unwait i).Grants t) ∧
    (∀ n, j.engine.openTimer = some n → s.arb.waiting[i] = none → (j.engine.stage = .pulsing ∨ j.engine.stage = .sensing) →
      exec (.openTimerExpiry i) s = .next
        (s.setJob i (some { j with engine := { j.engine with openTimer := none, expired := true } }))) ∧
    (∀ n, j.engine.restTimer = some n →
      (j.engine.stage = .resting → exec (.restTimerExpiry i) s = .next (s.setSite i { s.site i with
        job := some { j with engine := { j.engine with
          stage := .opening, rowOpen := true, reopens := j.engine.reopens + 1, restTimer := none } }
        port := { (s.site i).port with exch := some {
          cmd := .openRow j.engine.regionRow, attempt := 1, retry := true, deadline := s.cfg.dieResponseTimeout
          timer := none, rx := [] } } })) ∧
      (j.engine.stage ≠ .resting → exec (.restTimerExpiry i) s = .next
        (s.setJob i (some { j with engine := { j.engine with restTimer := none } }))))

/-! ### The die -/

/-- R74 to R82, R65, R73, R16: what each die command does at a conforming die that holds it as its oldest frame, and what the
die answers when the frame's selection is still on; a frame whose selection has ended is carried out whole and not answered, and
the frames behind it stay held. A frame of an unknown code behind the one carried out, with any frames behind it in turn, is
answered REFUSED as soon as the die comes to it, in the same event and with no command of the table, which is the model's
reading of R75 (log entry 19). RELOAD decodes the lock row and each image row where the map of a valid lock row places it, or at
its own row where the lock row is not valid; an uncorrectable image row gives its data cells as they stand; every corrected read
is counted, that of the lock row too. All but RESET, CLOSE ALL and ENTER PROVISIONING are refused in NORMAL mode; OPEN ROW is
refused with a row open, CLOSE ROW and SENSE with another row open, PULSE with none, RELOAD with one; a refusal changes nothing.
What a pulse leaves of a driven cell is given from outside (log entry 8), and the data bytes of a refusal are 0 by the model's
choice (log entry 23). The die's own power-on leaves only the fuse cells, the same or another die's (log entry 6); that it also
drops the frames held and a response being sent is the model's choice (log entry 29). -/
def Obligations.DieCarriesOutItsCommands : Prop :=
  (∀ (s : State) (i : SiteNo) (cells : Option DieCells),
    exec (.diePowerOn i cells) s = .next (s.setDie i {
      cells := cells.getD (s.die i).cells, mode := .normal, openRow := none, width := none
      shadow := List.replicate 48 0, loaded := false, held := [], response := none })) ∧
  (∀ (s : State) (i : SiteNo) (d : Die) (c : Instr) (h u : HeldFrame) (more : List HeldFrame) (t : State)
    (toFull toWeak : Row), s.die i = { d with held := h :: u :: more } → ¬ u.Known →
    c ∈ ([.reset i, .closeAll i, .enterProvisioning i, .sense i, .openRow i, .pulse i toFull toWeak, .closeRow i, .reload i,
      .readShadow i] : List Instr) →
    exec c (s.setDie i { d with held := h :: more }) = .next t →
    exec c s = .next (if u.live then t.setDie i { t.die i with response := some (responseBytes 0xE2 0) } else t)) ∧
  (∀ (s : State) (i : SiteNo) (d : Die) (f : DieFrame) (live : Bool) (more : List HeldFrame), s.die i = d →
    d.held = { frame := f, live := live } :: more → (∀ h ∈ more.head?, h.Known) →
      (f.code = 0x01 → exec (.reset i) s = s.dieAnswered i live more
        { d with mode := .normal, openRow := none, width := none, shadow := List.replicate 48 0, loaded := false } 0xD1 0) ∧
      (f.code = 0x02 → exec (.closeAll i) s = s.dieAnswered i live more { d with openRow := none } 0xD1 0) ∧
      (f.code = 0x03 → exec (.enterProvisioning i) s =
        if 5 ≤ f.arg.toNat % 65536 ∧ f.arg.toNat % 65536 ≤ 500
        then s.dieAnswered i live more { d with mode := .provisioning, width := some (f.arg.toNat % 65536) } 0xD1 0 else s.dieAnswered i live more d 0xE2 0) ∧
      (f.code = 0x10 → ∀ r : RegionRow, f.row = BitVec.ofNat 8 r.val → exec (.sense i) s =
        if d.mode = .provisioning ∧ (d.openRow = none ∨ d.openRow = some r) ∧ f.arg.toNat % 256 ≤ 1
        then s.dieAnswered i live more d 0xD1 (if f.arg.toNat % 256 = 0 then d.cells[r].full ||| d.cells[r].weak else d.cells[r].full)
        else s.dieAnswered i live more d 0xE2 0) ∧
      (f.code = 0x11 → ∀ r : RegionRow, f.row = BitVec.ofNat 8 r.val → exec (.openRow i) s =
        if d.mode = .provisioning ∧ d.openRow = none then s.dieAnswered i live more { d with openRow := some r } 0xD1 0
        else s.dieAnswered i live more d 0xE2 0) ∧
      (f.code = 0x12 → ∀ toFull toWeak : Row, exec (.pulse i toFull toWeak) s =
        match d.openRow with
        | some r => if d.mode = .provisioning then s.dieAnswered i live more (d.setRow r {
              full := d.cells[r].full ||| (f.arg &&& toFull)
              weak := (d.cells[r].weak ||| (f.arg &&& toWeak)) &&& ~~~(d.cells[r].full ||| (f.arg &&& toFull)) }) 0xD1 0
            else s.dieAnswered i live more d 0xE2 0
        | none => s.dieAnswered i live more d 0xE2 0) ∧
      (f.code = 0x13 → ∀ r : RegionRow, f.row = BitVec.ofNat 8 r.val → exec (.closeRow i) s =
        if d.mode = .provisioning ∧ (d.openRow = none ∨ d.openRow = some r) then s.dieAnswered i live more { d with openRow := none } 0xD1 0
        else s.dieAnswered i live more d 0xE2 0) ∧
      ((f.code = 0x10 → 19 < f.row.toNat → exec (.sense i) s = s.dieAnswered i live more d 0xE2 0) ∧
        (f.code = 0x11 → 19 < f.row.toNat → exec (.openRow i) s = s.dieAnswered i live more d 0xE2 0) ∧
        (f.code = 0x13 → 19 < f.row.toNat → exec (.closeRow i) s = s.dieAnswered i live more d 0xE2 0)) ∧
      (f.code = 0x20 → (d.mode = .normal ∨ d.openRow ≠ none) → exec (.reload i) s = s.dieAnswered i live more d 0xE2 0) ∧
      (f.code = 0x20 → d.mode = .provisioning → d.openRow = none →
        ∀ (lock : Row) (at' : Fin 16 → RegionRow), lock = readCells d.cells[(19 : RegionRow)] .normal →
          (∀ k, ReadAt (lockReadData lock) k (at' k)) →
          exec (.reload i) s = s.dieAnswered i live more
            { d with
              loaded := true
              shadow := allSites.flatMap (fun k => bytesLE 3 (reloadedData (readCells d.cells[at' k] .normal)).toNat) }
            0xD1 (wordOf
              (BitVec.ofNat 8 ((decodeRow lock).isCorrected.toNat
                + allSites.countP (fun k => (decodeRow (readCells d.cells[at' k] .normal)).isCorrected)))
              (BitVec.ofNat 8 (allSites.countP (fun k => decide (at' k ≠ ownRow k))))
              (if (lockReadData lock).isSome then 1 else 0) 0)) ∧
      (f.code = 0x21 → exec (.readShadow i) s =
        if d.mode = .provisioning ∧ d.loaded = true ∧ f.arg.toNat % 256 < 12
        then s.dieAnswered i live more d 0xD1 (wordOf (byteAt d.shadow (4 * (f.arg.toNat % 256))) (byteAt d.shadow (4 * (f.arg.toNat % 256) + 1))
          (byteAt d.shadow (4 * (f.arg.toNat % 256) + 2)) (byteAt d.shadow (4 * (f.arg.toNat % 256) + 3)))
        else s.dieAnswered i live more d 0xE2 0))

/-- R1, R78, R80: nothing but a PULSE changes a die's cells, a PULSE changes only cells of its mask in the die's open row, and no
cell returns to a lower condition. The coming of another die with DIE_POWER_ON is the one exception (log entry 6). The cells
are each in one condition before, and are so after. -/
def Obligations.BlownCellsOnlyGrow : Prop :=
  ∀ (c : Instr) (s t : State) (i : SiteNo) (r : RegionRow) (old new : DieRow), exec c s = .next t →
    (∀ cells, c ≠ .diePowerOn i (some cells)) → (s.die i).cells[r] = old → (t.die i).cells[r] = new →
    old.full &&& old.weak = 0 →
    old.full &&& ~~~new.full = 0 ∧ (old.full ||| old.weak) &&& ~~~(new.full ||| new.weak) = 0 ∧
    new.full &&& new.weak = 0 ∧
    (new ≠ old →
      (∃ a b, c = .pulse i a b) ∧ (s.die i).openRow = some r ∧ (s.die i).mode = .provisioning ∧
      ∃ h ∈ (s.die i).held.head?, h.frame.code = 0x12 ∧
        (new.full ^^^ old.full) &&& ~~~h.frame.arg = 0 ∧ (new.weak ^^^ old.weak) &&& ~~~h.frame.arg = 0)

/-! ### The row code -/

/-- R7, R8, R14: the column codes are the 6-bit values with at least two one-bits in ascending order; check bit j is the
exclusive-or of the data bits whose column code has bit j; and the decode of every read follows the table of syndrome and
parity, the written mark taking no part. -/
def Obligations.CheckBitsAndDecodeTable : Prop :=
  (∀ i : Nat, i < 24 → (columnCode i).toNat =
    ((List.range 64).filter (fun v => 2 ≤ (List.range 6).countP (fun b => v.testBit b))).getD i 0) ∧
  (∀ (d : BitVec 24) (j : Nat), j < 6 → (rowWord d).getLsbD (24 + j) =
    decide ((List.range 24).countP (fun i => d.getLsbD i && (columnCode i).getLsbD j) % 2 = 1)) ∧
  (∀ w : Row, decodeRow w =
    if onesBelow 31 w % 2 = 0 then (if syndrome w = 0 then .clean (dataCells w) else .uncorrectable)
    else if syndrome w = 0 then .corrected (dataCells w)
    else match (List.range 24).find? (fun i => decide (columnCode i = syndrome w)) with
      | some i => .corrected (dataCells w ^^^ (1#24 <<< i))
      | none => if (syndrome w).toNat ∈ [1, 2, 4, 8, 16, 32] then .corrected (dataCells w) else .uncorrectable)

/-- R6, R9, R13, R14, R15, R16: a row word holds its data in cells 0 to 23, an even number of ones in cells 0 to 30, and W. Read
back whole it decodes clean to its data; with any one cell of 0 to 30 changed it decodes corrected to the same data; with
any two changed it is uncorrectable. W takes no part in the decode. A blank row decodes clean to zeros and is no valid lock
row; every lock word is one, and so is a lock word with one cell of 0 to 30 changed. -/
def Obligations.RowCodeCorrectsOneDetectsTwo : Prop :=
  (∀ (d : BitVec 24) (e : Nat), e < 24 → (rowWord d).getLsbD e = d.getLsbD e) ∧
  (∀ d : BitVec 24, onesBelow 31 (rowWord d) % 2 = 0 ∧ (rowWord d).getLsbD 31 = true ∧ decodeRow (rowWord d) = .clean d) ∧
  (∀ (d : BitVec 24) (a : Nat), a < 31 → decodeRow (rowWord d ^^^ (1#32 <<< a)) = .corrected d) ∧
  (∀ (d : BitVec 24) (a b : Nat), a < 31 → b < 31 → a ≠ b →
    decodeRow (rowWord d ^^^ (1#32 <<< a) ^^^ (1#32 <<< b)) = .uncorrectable) ∧
  (∀ w : Row, decodeRow (w ^^^ (1#32 <<< 31)) = decodeRow w) ∧
  decodeRow 0 = .clean 0 ∧ lockRowValid 0 = false ∧
  (∀ (m : RelocMap) (a : Nat), lockRowValid (lockWordOf m) = true ∧
    (a < 31 → lockRowValid (lockWordOf m ^^^ (1#32 <<< a)) = true) ∧
    lockRowValid (lockWordOf m ^^^ (1#32 <<< 31)) = false)

/-- R81, R12, R14, R17, R53: the die reads back what the K16 wrote. Given a valid lock word with a relocation map, and each image
row at the place the map gives it (the lowest spare that names it, else its own row) within one cell of its row word, RELOAD
loads the 48 image bytes, and reports the rows that differ in a cell as corrected, the rows at spares as relocated, and the
lock row as valid. -/
def Obligations.ReloadReadsBackTheImage : Prop :=
  ∀ (s : State) (i : SiteNo) (f : DieFrame) (bytes : List Byte) (m : RelocMap) (place : Fin 16 → RegionRow),
    (s.die i).mode = .provisioning → (s.die i).openRow = none → (s.die i).held = [{ frame := f, live := true }] →
    f.code = 0x20 → bytes.length = 48 →
    readCells (s.die i).cells[(19 : RegionRow)] .normal = lockWordOf m →
    (∀ k : Fin 16, (∃ e : Fin 3, m[e].toNat = k.val + 1 ∧ (∀ e' : Fin 3, e' < e → m[e'].toNat ≠ k.val + 1) ∧
        place k = spareRow e) ∨ ((∀ e : Fin 3, m[e].toNat ≠ k.val + 1) ∧ place k = ownRow k)) →
    (∀ k : Fin 16, readCells (s.die i).cells[place k] .normal = rowWord (imageRow bytes k.val) ∨
      ∃ a : Nat, a < 31 ∧ readCells (s.die i).cells[place k] .normal = rowWord (imageRow bytes k.val) ^^^ (1#32 <<< a)) →
    ∃ t : State, exec (.reload i) s = .next t ∧ (t.die i).shadow = bytes ∧ (t.die i).loaded = true ∧
      (t.die i).response = some (responseBytes 0xD1 (wordOf
        (BitVec.ofNat 8 (allSites.countP (fun k =>
          decide (readCells (s.die i).cells[place k] .normal ≠ rowWord (imageRow bytes k.val)))))
        (BitVec.ofNat 8 (allSites.countP (fun k => decide (∃ e : Fin 3, m[e].toNat = k.val + 1)))) 1 0)) ∧
      t = s.setDie i (t.die i) ∧ (t.die i).cells = (s.die i).cells

/-! ### Events that cannot come about -/

/-- R164, R166, R66, R75, R87, R95 as the model has them (log entry 7): the faults. A request command faults when the frame in
front is not of its kind, and when the Dispatcher has stopped; the expiry of a timer that does not run, the end of a command
frame that is not being sent, a die command the die does not hold, and the open timer's expiry in a stage where it cannot
run, each fault by name. -/
def Obligations.EventsOutOfPlaceFault : Prop :=
  (∀ r ∈ ([(.identify, 0x01), (.status, 0x02), (.configure, 0x03), (.setEnables, 0x04), (.touchdown, 0x05),
      (.liftoff, 0x06), (.resetUnit, 0x07), (.loadKeys, 0x10), (.discardKeys, 0x11), (.provision, 0x12),
      (.cancel, 0x13), (.readRecords, 0x14), (.clearRecords, 0x15), (.readEvents, 0x16)] : List (Instr × Byte)),
    ∀ s : State,
      ((s.rst.heldInReset = true ∨ s.rst.requestPending = true) → exec r.1 s = .fault .dispatcherStopped) ∧
      (s.rst.heldInReset = false → s.rst.requestPending = false →
        (∀ f rest, s.link.intake = f :: rest → f.held ≠ none ∨ f.kind ≠ r.2) →
        exec r.1 s = .fault .noSuchFrameInFront)) ∧
  (∀ (s : State) (i : SiteNo) (left : Nat),
    ((s.site i).debounce = none → exec (.debounceExpiry i) s = .fault .timerNotRunning) ∧
    ((s.site i).seatTimeout = none → exec (.seatTimeoutExpiry i) s = .fault .timerNotRunning) ∧
    (s.arb.holdTimer = none → exec .pumpHoldExpiry s = .fault .timerNotRunning) ∧
    ((∀ x, (s.site i).port.exch = some x → x.timer = none) →
      exec (.dieResponseDeadlineExpiry i left) s = .fault .timerNotRunning) ∧
    ((∀ j, (s.site i).job = some j → j.engine.settleTimer = none) →
      exec (.settleTimerExpiry i) s = .fault .timerNotRunning) ∧
    ((∀ j, (s.site i).job = some j → j.engine.openTimer = none) →
      exec (.openTimerExpiry i) s = .fault .timerNotRunning) ∧
    ((∀ j, (s.site i).job = some j → j.engine.restTimer = none) →
      exec (.restTimerExpiry i) s = .fault .timerNotRunning) ∧
    (∀ j n, (s.site i).job = some j → j.engine.openTimer = some n →
      j.engine.stage ∉ [Stage.grantWait, .pulsing, .sensing] →
      exec (.openTimerExpiry i) s = .fault .expiryCannotArise) ∧
    ((∀ x, (s.site i).port.exch = some x → x.timer ≠ none) →
      ∀ w, exec (.commandFrameSent i w) s = .fault .noFrameBeingSent) ∧
    (∀ p ∈ ([(.reset i, 0x01), (.closeAll i, 0x02), (.enterProvisioning i, 0x03), (.sense i, 0x10), (.openRow i, 0x11),
        (.pulse i 0 0, 0x12), (.closeRow i, 0x13), (.reload i, 0x20), (.readShadow i, 0x21)] : List (Instr × Byte)),
      (∀ h ∈ (s.die i).held.head?, h.frame.code ≠ p.2) → exec p.1 s = .fault .dieHoldsNoSuchFrame))
end

