-- ==== Sys2Proof/Laws/State.lean ====
section
/-!
SUPPORT. The small lemmas of the named updates of State: one per field that an update leaves or sets, and what reading a
site, a die or a monitor entry gives after each. All are true by unfolding, so that no later proof unfolds an update.
-/
namespace Sys2Proof.Machine

/-! ### setSite -/

@[simp] theorem setSite_pending (s : State) (i : SiteNo) (c : SiteCtl) : (s.setSite i c).pending = s.pending := rfl
@[simp] theorem setSite_pins (s : State) (i : SiteNo) (c : SiteCtl) : (s.setSite i c).pins = s.pins := rfl
@[simp] theorem setSite_unitNumber (s : State) (i : SiteNo) (c : SiteCtl) : (s.setSite i c).unitNumber = s.unitNumber := rfl
@[simp] theorem setSite_rst (s : State) (i : SiteNo) (c : SiteCtl) : (s.setSite i c).rst = s.rst := rfl
@[simp] theorem setSite_link (s : State) (i : SiteNo) (c : SiteCtl) : (s.setSite i c).link = s.link := rfl
@[simp] theorem setSite_cfg (s : State) (i : SiteNo) (c : SiteCtl) : (s.setSite i c).cfg = s.cfg := rfl
@[simp] theorem setSite_td (s : State) (i : SiteNo) (c : SiteCtl) : (s.setSite i c).td = s.td := rfl
@[simp] theorem setSite_ks (s : State) (i : SiteNo) (c : SiteCtl) : (s.setSite i c).ks = s.ks := rfl
@[simp] theorem setSite_arb (s : State) (i : SiteNo) (c : SiteCtl) : (s.setSite i c).arb = s.arb := rfl
@[simp] theorem setSite_log (s : State) (i : SiteNo) (c : SiteCtl) : (s.setSite i c).log = s.log := rfl
@[simp] theorem setSite_mon (s : State) (i : SiteNo) (c : SiteCtl) : (s.setSite i c).mon = s.mon := rfl
@[simp] theorem setSite_sites (s : State) (i : SiteNo) (c : SiteCtl) : (s.setSite i c).sites = s.sites.set i.val c i.isLt := rfl
@[simp] theorem setSite_dies (s : State) (i : SiteNo) (c : SiteCtl) : (s.setSite i c).dies = s.dies := rfl

/-! ### setJob -/

@[simp] theorem setJob_pending (s : State) (i : SiteNo) (j : Option Job) : (s.setJob i j).pending = s.pending := rfl
@[simp] theorem setJob_pins (s : State) (i : SiteNo) (j : Option Job) : (s.setJob i j).pins = s.pins := rfl
@[simp] theorem setJob_unitNumber (s : State) (i : SiteNo) (j : Option Job) : (s.setJob i j).unitNumber = s.unitNumber := rfl
@[simp] theorem setJob_rst (s : State) (i : SiteNo) (j : Option Job) : (s.setJob i j).rst = s.rst := rfl
@[simp] theorem setJob_link (s : State) (i : SiteNo) (j : Option Job) : (s.setJob i j).link = s.link := rfl
@[simp] theorem setJob_cfg (s : State) (i : SiteNo) (j : Option Job) : (s.setJob i j).cfg = s.cfg := rfl
@[simp] theorem setJob_td (s : State) (i : SiteNo) (j : Option Job) : (s.setJob i j).td = s.td := rfl
@[simp] theorem setJob_ks (s : State) (i : SiteNo) (j : Option Job) : (s.setJob i j).ks = s.ks := rfl
@[simp] theorem setJob_arb (s : State) (i : SiteNo) (j : Option Job) : (s.setJob i j).arb = s.arb := rfl
@[simp] theorem setJob_log (s : State) (i : SiteNo) (j : Option Job) : (s.setJob i j).log = s.log := rfl
@[simp] theorem setJob_mon (s : State) (i : SiteNo) (j : Option Job) : (s.setJob i j).mon = s.mon := rfl
@[simp] theorem setJob_dies (s : State) (i : SiteNo) (j : Option Job) : (s.setJob i j).dies = s.dies := rfl

/-! ### setPort -/

@[simp] theorem setPort_pending (s : State) (i : SiteNo) (p : Port) : (s.setPort i p).pending = s.pending := rfl
@[simp] theorem setPort_pins (s : State) (i : SiteNo) (p : Port) : (s.setPort i p).pins = s.pins := rfl
@[simp] theorem setPort_unitNumber (s : State) (i : SiteNo) (p : Port) : (s.setPort i p).unitNumber = s.unitNumber := rfl
@[simp] theorem setPort_rst (s : State) (i : SiteNo) (p : Port) : (s.setPort i p).rst = s.rst := rfl
@[simp] theorem setPort_link (s : State) (i : SiteNo) (p : Port) : (s.setPort i p).link = s.link := rfl
@[simp] theorem setPort_cfg (s : State) (i : SiteNo) (p : Port) : (s.setPort i p).cfg = s.cfg := rfl
@[simp] theorem setPort_td (s : State) (i : SiteNo) (p : Port) : (s.setPort i p).td = s.td := rfl
@[simp] theorem setPort_ks (s : State) (i : SiteNo) (p : Port) : (s.setPort i p).ks = s.ks := rfl
@[simp] theorem setPort_arb (s : State) (i : SiteNo) (p : Port) : (s.setPort i p).arb = s.arb := rfl
@[simp] theorem setPort_log (s : State) (i : SiteNo) (p : Port) : (s.setPort i p).log = s.log := rfl
@[simp] theorem setPort_mon (s : State) (i : SiteNo) (p : Port) : (s.setPort i p).mon = s.mon := rfl
@[simp] theorem setPort_dies (s : State) (i : SiteNo) (p : Port) : (s.setPort i p).dies = s.dies := rfl

/-! ### setExch -/

@[simp] theorem setExch_pending (s : State) (i : SiteNo) (x : Option Exchange) : (s.setExch i x).pending = s.pending := rfl
@[simp] theorem setExch_pins (s : State) (i : SiteNo) (x : Option Exchange) : (s.setExch i x).pins = s.pins := rfl
@[simp] theorem setExch_unitNumber (s : State) (i : SiteNo) (x : Option Exchange) : (s.setExch i x).unitNumber = s.unitNumber := rfl
@[simp] theorem setExch_rst (s : State) (i : SiteNo) (x : Option Exchange) : (s.setExch i x).rst = s.rst := rfl
@[simp] theorem setExch_link (s : State) (i : SiteNo) (x : Option Exchange) : (s.setExch i x).link = s.link := rfl
@[simp] theorem setExch_cfg (s : State) (i : SiteNo) (x : Option Exchange) : (s.setExch i x).cfg = s.cfg := rfl
@[simp] theorem setExch_td (s : State) (i : SiteNo) (x : Option Exchange) : (s.setExch i x).td = s.td := rfl
@[simp] theorem setExch_ks (s : State) (i : SiteNo) (x : Option Exchange) : (s.setExch i x).ks = s.ks := rfl
@[simp] theorem setExch_arb (s : State) (i : SiteNo) (x : Option Exchange) : (s.setExch i x).arb = s.arb := rfl
@[simp] theorem setExch_log (s : State) (i : SiteNo) (x : Option Exchange) : (s.setExch i x).log = s.log := rfl
@[simp] theorem setExch_mon (s : State) (i : SiteNo) (x : Option Exchange) : (s.setExch i x).mon = s.mon := rfl
@[simp] theorem setExch_dies (s : State) (i : SiteNo) (x : Option Exchange) : (s.setExch i x).dies = s.dies := rfl

/-! ### startExchange -/

@[simp] theorem startExchange_pending (s : State) (i : SiteNo) (c : DieCmd) (r : Bool) : (s.startExchange i c r).pending = s.pending := rfl
@[simp] theorem startExchange_pins (s : State) (i : SiteNo) (c : DieCmd) (r : Bool) : (s.startExchange i c r).pins = s.pins := rfl
@[simp] theorem startExchange_unitNumber (s : State) (i : SiteNo) (c : DieCmd) (r : Bool) : (s.startExchange i c r).unitNumber = s.unitNumber := rfl
@[simp] theorem startExchange_rst (s : State) (i : SiteNo) (c : DieCmd) (r : Bool) : (s.startExchange i c r).rst = s.rst := rfl
@[simp] theorem startExchange_link (s : State) (i : SiteNo) (c : DieCmd) (r : Bool) : (s.startExchange i c r).link = s.link := rfl
@[simp] theorem startExchange_cfg (s : State) (i : SiteNo) (c : DieCmd) (r : Bool) : (s.startExchange i c r).cfg = s.cfg := rfl
@[simp] theorem startExchange_td (s : State) (i : SiteNo) (c : DieCmd) (r : Bool) : (s.startExchange i c r).td = s.td := rfl
@[simp] theorem startExchange_ks (s : State) (i : SiteNo) (c : DieCmd) (r : Bool) : (s.startExchange i c r).ks = s.ks := rfl
@[simp] theorem startExchange_arb (s : State) (i : SiteNo) (c : DieCmd) (r : Bool) : (s.startExchange i c r).arb = s.arb := rfl
@[simp] theorem startExchange_log (s : State) (i : SiteNo) (c : DieCmd) (r : Bool) : (s.startExchange i c r).log = s.log := rfl
@[simp] theorem startExchange_mon (s : State) (i : SiteNo) (c : DieCmd) (r : Bool) : (s.startExchange i c r).mon = s.mon := rfl
@[simp] theorem startExchange_dies (s : State) (i : SiteNo) (c : DieCmd) (r : Bool) : (s.startExchange i c r).dies = s.dies := rfl

/-! ### setDie -/

@[simp] theorem setDie_pending (s : State) (i : SiteNo) (d : Die) : (s.setDie i d).pending = s.pending := rfl
@[simp] theorem setDie_pins (s : State) (i : SiteNo) (d : Die) : (s.setDie i d).pins = s.pins := rfl
@[simp] theorem setDie_unitNumber (s : State) (i : SiteNo) (d : Die) : (s.setDie i d).unitNumber = s.unitNumber := rfl
@[simp] theorem setDie_rst (s : State) (i : SiteNo) (d : Die) : (s.setDie i d).rst = s.rst := rfl
@[simp] theorem setDie_link (s : State) (i : SiteNo) (d : Die) : (s.setDie i d).link = s.link := rfl
@[simp] theorem setDie_cfg (s : State) (i : SiteNo) (d : Die) : (s.setDie i d).cfg = s.cfg := rfl
@[simp] theorem setDie_td (s : State) (i : SiteNo) (d : Die) : (s.setDie i d).td = s.td := rfl
@[simp] theorem setDie_ks (s : State) (i : SiteNo) (d : Die) : (s.setDie i d).ks = s.ks := rfl
@[simp] theorem setDie_arb (s : State) (i : SiteNo) (d : Die) : (s.setDie i d).arb = s.arb := rfl
@[simp] theorem setDie_log (s : State) (i : SiteNo) (d : Die) : (s.setDie i d).log = s.log := rfl
@[simp] theorem setDie_mon (s : State) (i : SiteNo) (d : Die) : (s.setDie i d).mon = s.mon := rfl
@[simp] theorem setDie_sites (s : State) (i : SiteNo) (d : Die) : (s.setDie i d).sites = s.sites := rfl
@[simp] theorem setDie_dies (s : State) (i : SiteNo) (d : Die) : (s.setDie i d).dies = s.dies.set i.val d i.isLt := rfl

/-! ### deselect -/

@[simp] theorem deselect_pending (s : State) (i : SiteNo) : (s.deselect i).pending = s.pending := rfl
@[simp] theorem deselect_pins (s : State) (i : SiteNo) : (s.deselect i).pins = s.pins := rfl
@[simp] theorem deselect_unitNumber (s : State) (i : SiteNo) : (s.deselect i).unitNumber = s.unitNumber := rfl
@[simp] theorem deselect_rst (s : State) (i : SiteNo) : (s.deselect i).rst = s.rst := rfl
@[simp] theorem deselect_link (s : State) (i : SiteNo) : (s.deselect i).link = s.link := rfl
@[simp] theorem deselect_cfg (s : State) (i : SiteNo) : (s.deselect i).cfg = s.cfg := rfl
@[simp] theorem deselect_td (s : State) (i : SiteNo) : (s.deselect i).td = s.td := rfl
@[simp] theorem deselect_ks (s : State) (i : SiteNo) : (s.deselect i).ks = s.ks := rfl
@[simp] theorem deselect_arb (s : State) (i : SiteNo) : (s.deselect i).arb = s.arb := rfl
@[simp] theorem deselect_log (s : State) (i : SiteNo) : (s.deselect i).log = s.log := rfl
@[simp] theorem deselect_mon (s : State) (i : SiteNo) : (s.deselect i).mon = s.mon := rfl
@[simp] theorem deselect_sites (s : State) (i : SiteNo) : (s.deselect i).sites = s.sites := rfl

/-! ### setSmon -/

@[simp] theorem setSmon_pending (s : State) (i : SiteNo) (m : SiteMon) : (s.setSmon i m).pending = s.pending := rfl
@[simp] theorem setSmon_pins (s : State) (i : SiteNo) (m : SiteMon) : (s.setSmon i m).pins = s.pins := rfl
@[simp] theorem setSmon_unitNumber (s : State) (i : SiteNo) (m : SiteMon) : (s.setSmon i m).unitNumber = s.unitNumber := rfl
@[simp] theorem setSmon_rst (s : State) (i : SiteNo) (m : SiteMon) : (s.setSmon i m).rst = s.rst := rfl
@[simp] theorem setSmon_link (s : State) (i : SiteNo) (m : SiteMon) : (s.setSmon i m).link = s.link := rfl
@[simp] theorem setSmon_cfg (s : State) (i : SiteNo) (m : SiteMon) : (s.setSmon i m).cfg = s.cfg := rfl
@[simp] theorem setSmon_td (s : State) (i : SiteNo) (m : SiteMon) : (s.setSmon i m).td = s.td := rfl
@[simp] theorem setSmon_ks (s : State) (i : SiteNo) (m : SiteMon) : (s.setSmon i m).ks = s.ks := rfl
@[simp] theorem setSmon_arb (s : State) (i : SiteNo) (m : SiteMon) : (s.setSmon i m).arb = s.arb := rfl
@[simp] theorem setSmon_log (s : State) (i : SiteNo) (m : SiteMon) : (s.setSmon i m).log = s.log := rfl
@[simp] theorem setSmon_mon (s : State) (i : SiteNo) (m : SiteMon) : (s.setSmon i m).mon = { s.mon with site := s.mon.site.set i.val m i.isLt } := rfl
@[simp] theorem setSmon_sites (s : State) (i : SiteNo) (m : SiteMon) : (s.setSmon i m).sites = s.sites := rfl
@[simp] theorem setSmon_dies (s : State) (i : SiteNo) (m : SiteMon) : (s.setSmon i m).dies = s.dies := rfl

/-! ### setCond -/

@[simp] theorem setCond_pending (s : State) (i : SiteNo) (c : SiteCond) (v : Bool) : (s.setCond i c v).pending = s.pending := rfl
@[simp] theorem setCond_pins (s : State) (i : SiteNo) (c : SiteCond) (v : Bool) : (s.setCond i c v).pins = s.pins := rfl
@[simp] theorem setCond_unitNumber (s : State) (i : SiteNo) (c : SiteCond) (v : Bool) : (s.setCond i c v).unitNumber = s.unitNumber := rfl
@[simp] theorem setCond_rst (s : State) (i : SiteNo) (c : SiteCond) (v : Bool) : (s.setCond i c v).rst = s.rst := rfl
@[simp] theorem setCond_link (s : State) (i : SiteNo) (c : SiteCond) (v : Bool) : (s.setCond i c v).link = s.link := rfl
@[simp] theorem setCond_cfg (s : State) (i : SiteNo) (c : SiteCond) (v : Bool) : (s.setCond i c v).cfg = s.cfg := rfl
@[simp] theorem setCond_td (s : State) (i : SiteNo) (c : SiteCond) (v : Bool) : (s.setCond i c v).td = s.td := rfl
@[simp] theorem setCond_ks (s : State) (i : SiteNo) (c : SiteCond) (v : Bool) : (s.setCond i c v).ks = s.ks := rfl
@[simp] theorem setCond_arb (s : State) (i : SiteNo) (c : SiteCond) (v : Bool) : (s.setCond i c v).arb = s.arb := rfl
@[simp] theorem setCond_log (s : State) (i : SiteNo) (c : SiteCond) (v : Bool) : (s.setCond i c v).log = s.log := rfl
@[simp] theorem setCond_sites (s : State) (i : SiteNo) (c : SiteCond) (v : Bool) : (s.setCond i c v).sites = s.sites := rfl
@[simp] theorem setCond_dies (s : State) (i : SiteNo) (c : SiteCond) (v : Bool) : (s.setCond i c v).dies = s.dies := rfl

/-! ### setKs -/

@[simp] theorem setKs_pending (s : State) (k : KeyStore) : (s.setKs k).pending = s.pending := rfl
@[simp] theorem setKs_pins (s : State) (k : KeyStore) : (s.setKs k).pins = s.pins := rfl
@[simp] theorem setKs_unitNumber (s : State) (k : KeyStore) : (s.setKs k).unitNumber = s.unitNumber := rfl
@[simp] theorem setKs_rst (s : State) (k : KeyStore) : (s.setKs k).rst = s.rst := rfl
@[simp] theorem setKs_link (s : State) (k : KeyStore) : (s.setKs k).link = s.link := rfl
@[simp] theorem setKs_cfg (s : State) (k : KeyStore) : (s.setKs k).cfg = s.cfg := rfl
@[simp] theorem setKs_td (s : State) (k : KeyStore) : (s.setKs k).td = s.td := rfl
@[simp] theorem setKs_ks (s : State) (k : KeyStore) : (s.setKs k).ks = k := rfl
@[simp] theorem setKs_arb (s : State) (k : KeyStore) : (s.setKs k).arb = s.arb := rfl
@[simp] theorem setKs_log (s : State) (k : KeyStore) : (s.setKs k).log = s.log := rfl
@[simp] theorem setKs_mon (s : State) (k : KeyStore) : (s.setKs k).mon = s.mon := rfl
@[simp] theorem setKs_sites (s : State) (k : KeyStore) : (s.setKs k).sites = s.sites := rfl
@[simp] theorem setKs_dies (s : State) (k : KeyStore) : (s.setKs k).dies = s.dies := rfl

/-! ### setLog -/

@[simp] theorem setLog_pending (s : State) (l : IssueLog) : (s.setLog l).pending = s.pending := rfl
@[simp] theorem setLog_pins (s : State) (l : IssueLog) : (s.setLog l).pins = s.pins := rfl
@[simp] theorem setLog_unitNumber (s : State) (l : IssueLog) : (s.setLog l).unitNumber = s.unitNumber := rfl
@[simp] theorem setLog_rst (s : State) (l : IssueLog) : (s.setLog l).rst = s.rst := rfl
@[simp] theorem setLog_link (s : State) (l : IssueLog) : (s.setLog l).link = s.link := rfl
@[simp] theorem setLog_cfg (s : State) (l : IssueLog) : (s.setLog l).cfg = s.cfg := rfl
@[simp] theorem setLog_td (s : State) (l : IssueLog) : (s.setLog l).td = s.td := rfl
@[simp] theorem setLog_ks (s : State) (l : IssueLog) : (s.setLog l).ks = s.ks := rfl
@[simp] theorem setLog_arb (s : State) (l : IssueLog) : (s.setLog l).arb = s.arb := rfl
@[simp] theorem setLog_log (s : State) (l : IssueLog) : (s.setLog l).log = l := rfl
@[simp] theorem setLog_mon (s : State) (l : IssueLog) : (s.setLog l).mon = s.mon := rfl
@[simp] theorem setLog_sites (s : State) (l : IssueLog) : (s.setLog l).sites = s.sites := rfl
@[simp] theorem setLog_dies (s : State) (l : IssueLog) : (s.setLog l).dies = s.dies := rfl

/-! ### setArb -/

@[simp] theorem setArb_pending (s : State) (a : Arbiter) : (s.setArb a).pending = s.pending := rfl
@[simp] theorem setArb_pins (s : State) (a : Arbiter) : (s.setArb a).pins = s.pins := rfl
@[simp] theorem setArb_unitNumber (s : State) (a : Arbiter) : (s.setArb a).unitNumber = s.unitNumber := rfl
@[simp] theorem setArb_rst (s : State) (a : Arbiter) : (s.setArb a).rst = s.rst := rfl
@[simp] theorem setArb_link (s : State) (a : Arbiter) : (s.setArb a).link = s.link := rfl
@[simp] theorem setArb_cfg (s : State) (a : Arbiter) : (s.setArb a).cfg = s.cfg := rfl
@[simp] theorem setArb_td (s : State) (a : Arbiter) : (s.setArb a).td = s.td := rfl
@[simp] theorem setArb_ks (s : State) (a : Arbiter) : (s.setArb a).ks = s.ks := rfl
@[simp] theorem setArb_arb (s : State) (a : Arbiter) : (s.setArb a).arb = a := rfl
@[simp] theorem setArb_log (s : State) (a : Arbiter) : (s.setArb a).log = s.log := rfl
@[simp] theorem setArb_mon (s : State) (a : Arbiter) : (s.setArb a).mon = s.mon := rfl
@[simp] theorem setArb_sites (s : State) (a : Arbiter) : (s.setArb a).sites = s.sites := rfl
@[simp] theorem setArb_dies (s : State) (a : Arbiter) : (s.setArb a).dies = s.dies := rfl

/-! ### setTd -/

@[simp] theorem setTd_pending (s : State) (t : Touchdown) : (s.setTd t).pending = s.pending := rfl
@[simp] theorem setTd_pins (s : State) (t : Touchdown) : (s.setTd t).pins = s.pins := rfl
@[simp] theorem setTd_unitNumber (s : State) (t : Touchdown) : (s.setTd t).unitNumber = s.unitNumber := rfl
@[simp] theorem setTd_rst (s : State) (t : Touchdown) : (s.setTd t).rst = s.rst := rfl
@[simp] theorem setTd_link (s : State) (t : Touchdown) : (s.setTd t).link = s.link := rfl
@[simp] theorem setTd_cfg (s : State) (t : Touchdown) : (s.setTd t).cfg = s.cfg := rfl
@[simp] theorem setTd_td (s : State) (t : Touchdown) : (s.setTd t).td = t := rfl
@[simp] theorem setTd_ks (s : State) (t : Touchdown) : (s.setTd t).ks = s.ks := rfl
@[simp] theorem setTd_arb (s : State) (t : Touchdown) : (s.setTd t).arb = s.arb := rfl
@[simp] theorem setTd_log (s : State) (t : Touchdown) : (s.setTd t).log = s.log := rfl
@[simp] theorem setTd_mon (s : State) (t : Touchdown) : (s.setTd t).mon = s.mon := rfl
@[simp] theorem setTd_sites (s : State) (t : Touchdown) : (s.setTd t).sites = s.sites := rfl
@[simp] theorem setTd_dies (s : State) (t : Touchdown) : (s.setTd t).dies = s.dies := rfl

/-! ### accountEnd -/

@[simp] theorem accountEnd_pending (s : State) (i : SiteNo) (j : Job) (o : JobOutcome) : (s.accountEnd i j o).pending = s.pending := rfl
@[simp] theorem accountEnd_pins (s : State) (i : SiteNo) (j : Job) (o : JobOutcome) : (s.accountEnd i j o).pins = s.pins := rfl
@[simp] theorem accountEnd_unitNumber (s : State) (i : SiteNo) (j : Job) (o : JobOutcome) : (s.accountEnd i j o).unitNumber = s.unitNumber := rfl
@[simp] theorem accountEnd_rst (s : State) (i : SiteNo) (j : Job) (o : JobOutcome) : (s.accountEnd i j o).rst = s.rst := rfl
@[simp] theorem accountEnd_link (s : State) (i : SiteNo) (j : Job) (o : JobOutcome) : (s.accountEnd i j o).link = s.link := rfl
@[simp] theorem accountEnd_cfg (s : State) (i : SiteNo) (j : Job) (o : JobOutcome) : (s.accountEnd i j o).cfg = s.cfg := rfl
@[simp] theorem accountEnd_td (s : State) (i : SiteNo) (j : Job) (o : JobOutcome) : (s.accountEnd i j o).td = s.td.countEnd := rfl
@[simp] theorem accountEnd_ks (s : State) (i : SiteNo) (j : Job) (o : JobOutcome) : (s.accountEnd i j o).ks = s.ks.endJob i := rfl
@[simp] theorem accountEnd_arb (s : State) (i : SiteNo) (j : Job) (o : JobOutcome) : (s.accountEnd i j o).arb = s.arb := rfl
@[simp] theorem accountEnd_log (s : State) (i : SiteNo) (j : Job) (o : JobOutcome) : (s.accountEnd i j o).log = s.log.append (s.recordOf i j o) := rfl
@[simp] theorem accountEnd_mon (s : State) (i : SiteNo) (j : Job) (o : JobOutcome) : (s.accountEnd i j o).mon = s.mon := rfl
@[simp] theorem accountEnd_sites (s : State) (i : SiteNo) (j : Job) (o : JobOutcome) : (s.accountEnd i j o).sites = s.sites := rfl
@[simp] theorem accountEnd_dies (s : State) (i : SiteNo) (j : Job) (o : JobOutcome) : (s.accountEnd i j o).dies = s.dies := rfl

/-! ### push -/

@[simp] theorem push_pending (s : State) (f : OutFrame) : (s.push f).pending = s.pending := rfl
@[simp] theorem push_pins (s : State) (f : OutFrame) : (s.push f).pins = s.pins := rfl
@[simp] theorem push_unitNumber (s : State) (f : OutFrame) : (s.push f).unitNumber = s.unitNumber := rfl
@[simp] theorem push_rst (s : State) (f : OutFrame) : (s.push f).rst = s.rst := rfl
@[simp] theorem push_link (s : State) (f : OutFrame) : (s.push f).link = { s.link with outq := s.link.outq ++ [f] } := rfl
@[simp] theorem push_cfg (s : State) (f : OutFrame) : (s.push f).cfg = s.cfg := rfl
@[simp] theorem push_td (s : State) (f : OutFrame) : (s.push f).td = s.td := rfl
@[simp] theorem push_ks (s : State) (f : OutFrame) : (s.push f).ks = s.ks := rfl
@[simp] theorem push_arb (s : State) (f : OutFrame) : (s.push f).arb = s.arb := rfl
@[simp] theorem push_log (s : State) (f : OutFrame) : (s.push f).log = s.log := rfl
@[simp] theorem push_mon (s : State) (f : OutFrame) : (s.push f).mon = s.mon := rfl
@[simp] theorem push_sites (s : State) (f : OutFrame) : (s.push f).sites = s.sites := rfl
@[simp] theorem push_dies (s : State) (f : OutFrame) : (s.push f).dies = s.dies := rfl

/-! ### reply -/

@[simp] theorem reply_pending (s : State) (f : InFrame) (st : Status) (p : List Byte) : (s.reply f st p).pending = s.pending := rfl
@[simp] theorem reply_pins (s : State) (f : InFrame) (st : Status) (p : List Byte) : (s.reply f st p).pins = s.pins := rfl
@[simp] theorem reply_unitNumber (s : State) (f : InFrame) (st : Status) (p : List Byte) : (s.reply f st p).unitNumber = s.unitNumber := rfl
@[simp] theorem reply_rst (s : State) (f : InFrame) (st : Status) (p : List Byte) : (s.reply f st p).rst = s.rst := rfl
@[simp] theorem reply_cfg (s : State) (f : InFrame) (st : Status) (p : List Byte) : (s.reply f st p).cfg = s.cfg := rfl
@[simp] theorem reply_td (s : State) (f : InFrame) (st : Status) (p : List Byte) : (s.reply f st p).td = s.td := rfl
@[simp] theorem reply_ks (s : State) (f : InFrame) (st : Status) (p : List Byte) : (s.reply f st p).ks = s.ks := rfl
@[simp] theorem reply_arb (s : State) (f : InFrame) (st : Status) (p : List Byte) : (s.reply f st p).arb = s.arb := rfl
@[simp] theorem reply_log (s : State) (f : InFrame) (st : Status) (p : List Byte) : (s.reply f st p).log = s.log := rfl
@[simp] theorem reply_mon (s : State) (f : InFrame) (st : Status) (p : List Byte) : (s.reply f st p).mon = s.mon := rfl
@[simp] theorem reply_sites (s : State) (f : InFrame) (st : Status) (p : List Byte) : (s.reply f st p).sites = s.sites := rfl
@[simp] theorem reply_dies (s : State) (f : InFrame) (st : Status) (p : List Byte) : (s.reply f st p).dies = s.dies := rfl

/-! ### setRx -/

@[simp] theorem setRx_pending (s : State) (r : Receiver) : (s.setRx r).pending = s.pending := rfl
@[simp] theorem setRx_pins (s : State) (r : Receiver) : (s.setRx r).pins = s.pins := rfl
@[simp] theorem setRx_unitNumber (s : State) (r : Receiver) : (s.setRx r).unitNumber = s.unitNumber := rfl
@[simp] theorem setRx_rst (s : State) (r : Receiver) : (s.setRx r).rst = s.rst := rfl
@[simp] theorem setRx_link (s : State) (r : Receiver) : (s.setRx r).link = { s.link with rx := r } := rfl
@[simp] theorem setRx_cfg (s : State) (r : Receiver) : (s.setRx r).cfg = s.cfg := rfl
@[simp] theorem setRx_td (s : State) (r : Receiver) : (s.setRx r).td = s.td := rfl
@[simp] theorem setRx_ks (s : State) (r : Receiver) : (s.setRx r).ks = s.ks := rfl
@[simp] theorem setRx_arb (s : State) (r : Receiver) : (s.setRx r).arb = s.arb := rfl
@[simp] theorem setRx_log (s : State) (r : Receiver) : (s.setRx r).log = s.log := rfl
@[simp] theorem setRx_mon (s : State) (r : Receiver) : (s.setRx r).mon = s.mon := rfl
@[simp] theorem setRx_sites (s : State) (r : Receiver) : (s.setRx r).sites = s.sites := rfl
@[simp] theorem setRx_dies (s : State) (r : Receiver) : (s.setRx r).dies = s.dies := rfl

/-! ### dropFront -/

@[simp] theorem dropFront_pending (s : State) : s.dropFront.pending = s.pending := rfl
@[simp] theorem dropFront_pins (s : State) : s.dropFront.pins = s.pins := rfl
@[simp] theorem dropFront_unitNumber (s : State) : s.dropFront.unitNumber = s.unitNumber := rfl
@[simp] theorem dropFront_rst (s : State) : s.dropFront.rst = s.rst := rfl
@[simp] theorem dropFront_link (s : State) : s.dropFront.link = { s.link with intake := s.link.intake.tail } := rfl
@[simp] theorem dropFront_cfg (s : State) : s.dropFront.cfg = s.cfg := rfl
@[simp] theorem dropFront_td (s : State) : s.dropFront.td = s.td := rfl
@[simp] theorem dropFront_ks (s : State) : s.dropFront.ks = s.ks := rfl
@[simp] theorem dropFront_arb (s : State) : s.dropFront.arb = s.arb := rfl
@[simp] theorem dropFront_log (s : State) : s.dropFront.log = s.log := rfl
@[simp] theorem dropFront_mon (s : State) : s.dropFront.mon = s.mon := rfl
@[simp] theorem dropFront_sites (s : State) : s.dropFront.sites = s.sites := rfl
@[simp] theorem dropFront_dies (s : State) : s.dropFront.dies = s.dies := rfl

/-! ### setSlotWaiter -/

@[simp] theorem setSlotWaiter_pending (s : State) (i : SiteNo) (v : Bool) : (s.setSlotWaiter i v).pending = s.pending := rfl
@[simp] theorem setSlotWaiter_pins (s : State) (i : SiteNo) (v : Bool) : (s.setSlotWaiter i v).pins = s.pins := rfl
@[simp] theorem setSlotWaiter_unitNumber (s : State) (i : SiteNo) (v : Bool) : (s.setSlotWaiter i v).unitNumber = s.unitNumber := rfl
@[simp] theorem setSlotWaiter_rst (s : State) (i : SiteNo) (v : Bool) : (s.setSlotWaiter i v).rst = s.rst := rfl
@[simp] theorem setSlotWaiter_link (s : State) (i : SiteNo) (v : Bool) : (s.setSlotWaiter i v).link = s.link := rfl
@[simp] theorem setSlotWaiter_cfg (s : State) (i : SiteNo) (v : Bool) : (s.setSlotWaiter i v).cfg = s.cfg := rfl
@[simp] theorem setSlotWaiter_td (s : State) (i : SiteNo) (v : Bool) : (s.setSlotWaiter i v).td = s.td := rfl
@[simp] theorem setSlotWaiter_ks (s : State) (i : SiteNo) (v : Bool) : (s.setSlotWaiter i v).ks = s.ks := rfl
@[simp] theorem setSlotWaiter_arb (s : State) (i : SiteNo) (v : Bool) : (s.setSlotWaiter i v).arb = s.arb := rfl
@[simp] theorem setSlotWaiter_log (s : State) (i : SiteNo) (v : Bool) : (s.setSlotWaiter i v).log = { s.log with slotWaiters := s.log.slotWaiters.set i.val v i.isLt } := rfl
@[simp] theorem setSlotWaiter_mon (s : State) (i : SiteNo) (v : Bool) : (s.setSlotWaiter i v).mon = s.mon := rfl
@[simp] theorem setSlotWaiter_sites (s : State) (i : SiteNo) (v : Bool) : (s.setSlotWaiter i v).sites = s.sites := rfl
@[simp] theorem setSlotWaiter_dies (s : State) (i : SiteNo) (v : Bool) : (s.setSlotWaiter i v).dies = s.dies := rfl

/-! ### setContactPin -/

@[simp] theorem setContactPin_pending (s : State) (i : SiteNo) (v : Bool) : (s.setContactPin i v).pending = s.pending := rfl
@[simp] theorem setContactPin_pins (s : State) (i : SiteNo) (v : Bool) : (s.setContactPin i v).pins = { s.pins with contact := s.pins.contact.set i.val v i.isLt } := rfl
@[simp] theorem setContactPin_unitNumber (s : State) (i : SiteNo) (v : Bool) : (s.setContactPin i v).unitNumber = s.unitNumber := rfl
@[simp] theorem setContactPin_rst (s : State) (i : SiteNo) (v : Bool) : (s.setContactPin i v).rst = s.rst := rfl
@[simp] theorem setContactPin_link (s : State) (i : SiteNo) (v : Bool) : (s.setContactPin i v).link = s.link := rfl
@[simp] theorem setContactPin_cfg (s : State) (i : SiteNo) (v : Bool) : (s.setContactPin i v).cfg = s.cfg := rfl
@[simp] theorem setContactPin_td (s : State) (i : SiteNo) (v : Bool) : (s.setContactPin i v).td = s.td := rfl
@[simp] theorem setContactPin_ks (s : State) (i : SiteNo) (v : Bool) : (s.setContactPin i v).ks = s.ks := rfl
@[simp] theorem setContactPin_arb (s : State) (i : SiteNo) (v : Bool) : (s.setContactPin i v).arb = s.arb := rfl
@[simp] theorem setContactPin_log (s : State) (i : SiteNo) (v : Bool) : (s.setContactPin i v).log = s.log := rfl
@[simp] theorem setContactPin_mon (s : State) (i : SiteNo) (v : Bool) : (s.setContactPin i v).mon = s.mon := rfl
@[simp] theorem setContactPin_sites (s : State) (i : SiteNo) (v : Bool) : (s.setContactPin i v).sites = s.sites := rfl
@[simp] theorem setContactPin_dies (s : State) (i : SiteNo) (v : Bool) : (s.setContactPin i v).dies = s.dies := rfl

/-! ### setOverLimitPin -/

@[simp] theorem setOverLimitPin_pending (s : State) (i : SiteNo) (v : Bool) : (s.setOverLimitPin i v).pending = s.pending := rfl
@[simp] theorem setOverLimitPin_pins (s : State) (i : SiteNo) (v : Bool) : (s.setOverLimitPin i v).pins = { s.pins with overLimit := s.pins.overLimit.set i.val v i.isLt } := rfl
@[simp] theorem setOverLimitPin_unitNumber (s : State) (i : SiteNo) (v : Bool) : (s.setOverLimitPin i v).unitNumber = s.unitNumber := rfl
@[simp] theorem setOverLimitPin_rst (s : State) (i : SiteNo) (v : Bool) : (s.setOverLimitPin i v).rst = s.rst := rfl
@[simp] theorem setOverLimitPin_link (s : State) (i : SiteNo) (v : Bool) : (s.setOverLimitPin i v).link = s.link := rfl
@[simp] theorem setOverLimitPin_cfg (s : State) (i : SiteNo) (v : Bool) : (s.setOverLimitPin i v).cfg = s.cfg := rfl
@[simp] theorem setOverLimitPin_td (s : State) (i : SiteNo) (v : Bool) : (s.setOverLimitPin i v).td = s.td := rfl
@[simp] theorem setOverLimitPin_ks (s : State) (i : SiteNo) (v : Bool) : (s.setOverLimitPin i v).ks = s.ks := rfl
@[simp] theorem setOverLimitPin_arb (s : State) (i : SiteNo) (v : Bool) : (s.setOverLimitPin i v).arb = s.arb := rfl
@[simp] theorem setOverLimitPin_log (s : State) (i : SiteNo) (v : Bool) : (s.setOverLimitPin i v).log = s.log := rfl
@[simp] theorem setOverLimitPin_mon (s : State) (i : SiteNo) (v : Bool) : (s.setOverLimitPin i v).mon = s.mon := rfl
@[simp] theorem setOverLimitPin_sites (s : State) (i : SiteNo) (v : Bool) : (s.setOverLimitPin i v).sites = s.sites := rfl
@[simp] theorem setOverLimitPin_dies (s : State) (i : SiteNo) (v : Bool) : (s.setOverLimitPin i v).dies = s.dies := rfl

/-! ### setPumpPin -/

@[simp] theorem setPumpPin_pending (s : State) (v : Bool) : (s.setPumpPin v).pending = s.pending := rfl
@[simp] theorem setPumpPin_pins (s : State) (v : Bool) : (s.setPumpPin v).pins = { s.pins with pumpFault := v } := rfl
@[simp] theorem setPumpPin_unitNumber (s : State) (v : Bool) : (s.setPumpPin v).unitNumber = s.unitNumber := rfl
@[simp] theorem setPumpPin_rst (s : State) (v : Bool) : (s.setPumpPin v).rst = s.rst := rfl
@[simp] theorem setPumpPin_link (s : State) (v : Bool) : (s.setPumpPin v).link = s.link := rfl
@[simp] theorem setPumpPin_cfg (s : State) (v : Bool) : (s.setPumpPin v).cfg = s.cfg := rfl
@[simp] theorem setPumpPin_td (s : State) (v : Bool) : (s.setPumpPin v).td = s.td := rfl
@[simp] theorem setPumpPin_ks (s : State) (v : Bool) : (s.setPumpPin v).ks = s.ks := rfl
@[simp] theorem setPumpPin_arb (s : State) (v : Bool) : (s.setPumpPin v).arb = s.arb := rfl
@[simp] theorem setPumpPin_log (s : State) (v : Bool) : (s.setPumpPin v).log = s.log := rfl
@[simp] theorem setPumpPin_mon (s : State) (v : Bool) : (s.setPumpPin v).mon = s.mon := rfl
@[simp] theorem setPumpPin_sites (s : State) (v : Bool) : (s.setPumpPin v).sites = s.sites := rfl
@[simp] theorem setPumpPin_dies (s : State) (v : Bool) : (s.setPumpPin v).dies = s.dies := rfl

/-! ### Sites -/

@[simp] theorem site_setSite (s : State) (i : SiteNo) (c : SiteCtl) : (s.setSite i c).site i = c := by
  simp [State.site, State.setSite]

theorem site_setSite_ne (s : State) {i k : SiteNo} (c : SiteCtl) (h : k ≠ i) :
    (s.setSite i c).site k = s.site k := by
  have : i.val ≠ k.val := fun e => h (Fin.ext e.symm)
  simp [State.site, State.setSite, this]

theorem site_of_sites {s t : State} (h : t.sites = s.sites) (i : SiteNo) : t.site i = s.site i := by
  simp [State.site, h]

@[simp] theorem site_setJob (s : State) (i : SiteNo) (j : Option Job) :
    (s.setJob i j).site i = { s.site i with job := j } := by simp [State.setJob]

theorem site_setJob_ne (s : State) {i k : SiteNo} (j : Option Job) (h : k ≠ i) :
    (s.setJob i j).site k = s.site k := by simp [State.setJob, site_setSite_ne _ _ h]

@[simp] theorem site_setPort (s : State) (i : SiteNo) (p : Port) :
    (s.setPort i p).site i = { s.site i with port := p } := by simp [State.setPort]

theorem site_setPort_ne (s : State) {i k : SiteNo} (p : Port) (h : k ≠ i) :
    (s.setPort i p).site k = s.site k := by simp [State.setPort, site_setSite_ne _ _ h]

@[simp] theorem site_setExch (s : State) (i : SiteNo) (x : Option Exchange) :
    (s.setExch i x).site i = { s.site i with port := { (s.site i).port with exch := x } } := by simp [State.setExch]

theorem site_setExch_ne (s : State) {i k : SiteNo} (x : Option Exchange) (h : k ≠ i) :
    (s.setExch i x).site k = s.site k := by simp [State.setExch, site_setPort_ne _ _ h]

@[simp] theorem site_startExchange (s : State) (i : SiteNo) (c : DieCmd) (r : Bool) :
    (s.startExchange i c r).site i =
      { s.site i with port := { (s.site i).port with exch := some (newAttempt s.cfg c 1 r) } } := by
  simp [State.startExchange]

theorem site_startExchange_ne (s : State) {i k : SiteNo} (c : DieCmd) (r : Bool) (h : k ≠ i) :
    (s.startExchange i c r).site k = s.site k := by simp [State.startExchange, site_setExch_ne _ _ h]

/-- Writing a site's own controller back changes nothing. -/
@[simp] theorem setSite_site (s : State) (i : SiteNo) : s.setSite i (s.site i) = s := by
  simp [State.setSite, State.site]

/-! Updates of other blocks leave every site as it was. -/

@[simp] theorem site_setDie (s : State) (i k : SiteNo) (d : Die) : (s.setDie i d).site k = s.site k := rfl
@[simp] theorem site_deselect (s : State) (i k : SiteNo) : (s.deselect i).site k = s.site k := rfl
@[simp] theorem site_setSmon (s : State) (i k : SiteNo) (m : SiteMon) : (s.setSmon i m).site k = s.site k := rfl
@[simp] theorem site_setCond (s : State) (i k : SiteNo) (c : SiteCond) (v : Bool) :
    (s.setCond i c v).site k = s.site k := rfl
@[simp] theorem site_push (s : State) (f : OutFrame) (k : SiteNo) : (s.push f).site k = s.site k := rfl
@[simp] theorem site_reply (s : State) (f : InFrame) (st : Status) (p : List Byte) (k : SiteNo) :
    (s.reply f st p).site k = s.site k := rfl
@[simp] theorem site_setRx (s : State) (r : Receiver) (k : SiteNo) : (s.setRx r).site k = s.site k := rfl
@[simp] theorem site_dropFront (s : State) (k : SiteNo) : s.dropFront.site k = s.site k := rfl
@[simp] theorem site_setKs (s : State) (k : SiteNo) (x : KeyStore) : (s.setKs x).site k = s.site k := rfl
@[simp] theorem site_setLog (s : State) (k : SiteNo) (x : IssueLog) : (s.setLog x).site k = s.site k := rfl
@[simp] theorem site_setArb (s : State) (k : SiteNo) (x : Arbiter) : (s.setArb x).site k = s.site k := rfl
@[simp] theorem site_setTd (s : State) (k : SiteNo) (x : Touchdown) : (s.setTd x).site k = s.site k := rfl
@[simp] theorem site_accountEnd (s : State) (i k : SiteNo) (j : Job) (o : JobOutcome) :
    (s.accountEnd i j o).site k = s.site k := rfl
@[simp] theorem site_setSlotWaiter (s : State) (i k : SiteNo) (v : Bool) :
    (s.setSlotWaiter i v).site k = s.site k := rfl

/-! ### Dies -/

@[simp] theorem die_setDie (s : State) (i : SiteNo) (d : Die) : (s.setDie i d).die i = d := by
  simp [State.die, State.setDie]

theorem die_setDie_ne (s : State) {i k : SiteNo} (d : Die) (h : k ≠ i) : (s.setDie i d).die k = s.die k := by
  have : i.val ≠ k.val := fun e => h (Fin.ext e.symm)
  simp [State.die, State.setDie, this]

@[simp] theorem die_setSite (s : State) (i k : SiteNo) (c : SiteCtl) : (s.setSite i c).die k = s.die k := rfl
@[simp] theorem die_setExch (s : State) (i k : SiteNo) (x : Option Exchange) : (s.setExch i x).die k = s.die k := rfl

/-! ### Monitor entries -/

@[simp] theorem smon_setSmon (s : State) (i : SiteNo) (m : SiteMon) : (s.setSmon i m).smon i = m := by
  simp [State.smon, State.setSmon]

theorem smon_setSmon_ne (s : State) {i k : SiteNo} (m : SiteMon) (h : k ≠ i) :
    (s.setSmon i m).smon k = s.smon k := by
  have : i.val ≠ k.val := fun e => h (Fin.ext e.symm)
  simp [State.smon, State.setSmon, this]

@[simp] theorem smon_setCond (s : State) (i : SiteNo) (c : SiteCond) (v : Bool) :
    (s.setCond i c v).smon i = { s.smon i with cond := (s.smon i).cond.put c v } := by simp [State.setCond]

theorem smon_setCond_ne (s : State) {i k : SiteNo} (c : SiteCond) (v : Bool) (h : k ≠ i) :
    (s.setCond i c v).smon k = s.smon k := by simp [State.setCond, smon_setSmon_ne _ _ h]

@[simp] theorem smon_push (s : State) (f : OutFrame) (k : SiteNo) : (s.push f).smon k = s.smon k := rfl
@[simp] theorem smon_setSite (s : State) (i k : SiteNo) (c : SiteCtl) : (s.setSite i c).smon k = s.smon k := rfl

/-! ### Bits -/

@[simp] theorem SiteBits.get_put (b : SiteBits) (c : SiteCond) (v : Bool) : (b.put c v).get c = v := by
  cases c <;> rfl

theorem SiteBits.get_put_ne (b : SiteBits) {c d : SiteCond} (v : Bool) (h : d ≠ c) : (b.put c v).get d = b.get d := by
  cases c <;> cases d <;> first | rfl | exact absurd rfl h

/-! ### What a frame of the output queue counts for (R163, R164) -/

/-- Whether a frame of the output queue holds an intake slot. -/
def OutFrame.holdsSlot (f : OutFrame) : Bool := f.source = .reply || f.source = .resetReply

@[simp] theorem Link.slotsHeld_append (l : Link) (f : OutFrame) :
    Link.slotsHeld { l with outq := l.outq ++ [f] } = l.slotsHeld + f.holdsSlot.toNat := by
  simp only [Link.slotsHeld, List.countP_append, List.countP_cons, List.countP_nil, OutFrame.holdsSlot]
  cases f.source <;> simp [Nat.add_assoc]

@[simp] theorem Link.overrunsWaiting_append (l : Link) (f : OutFrame) :
    Link.overrunsWaiting { l with outq := l.outq ++ [f] } = l.overrunsWaiting + (decide (f.source = .overrun)).toNat := by
  simp only [Link.overrunsWaiting, List.countP_append, List.countP_cons, List.countP_nil]
  cases f.source <;> simp

@[simp] theorem noticeOf_source (s : State) (sc : Scope) : (s.noticeOf sc).source = .notice := rfl
@[simp] theorem noticeOf_holdsSlot (s : State) (sc : Scope) : (s.noticeOf sc).holdsSlot = false := rfl
@[simp] theorem deferredReply_source (tag : BitVec 6) (t : Touchdown) : (deferredReply tag t).source = .deferred := rfl
@[simp] theorem deferredReply_holdsSlot (tag : BitVec 6) (t : Touchdown) : (deferredReply tag t).holdsSlot = false := rfl

@[simp] theorem reply_slotsHeld (s : State) (f : InFrame) (st : Status) (p : List Byte) :
    (s.reply f st p).link.slotsHeld = s.link.slotsHeld + 1 :=
  Link.slotsHeld_append s.link _

@[simp] theorem reply_overrunsWaiting (s : State) (f : InFrame) (st : Status) (p : List Byte) :
    (s.reply f st p).link.overrunsWaiting = s.link.overrunsWaiting :=
  Link.overrunsWaiting_append s.link _

/-! ### A fold that leaves something as it was -/

/-- What no step of a fold changes, the fold does not change. -/
theorem foldl_keeps {α β γ : Type} (g : β → γ) (f : β → α → β) (h : ∀ b a, g (f b a) = g b) (l : List α) (b : β) :
    g (l.foldl f b) = g b := by
  induction l generalizing b with
  | nil => rfl
  | cons a l ih => simp [ih, h]

/-- What every step of a fold keeps, the fold keeps. -/
theorem foldl_inv {α β : Type} (P : β → Prop) (f : β → α → β) (h : ∀ b a, P b → P (f b a)) (l : List α) (b : β)
    (hb : P b) : P (l.foldl f b) := by
  induction l generalizing b with
  | nil => exact hb
  | cons a l ih => exact ih _ (h _ _ hb)

/-- What an operation keeps at each site, doing it at every site keeps. -/
theorem forSites_inv (P : State → Prop) (f : State → SiteNo → State) (h : ∀ s i, P s → P (f s i)) (s : State) (hs : P s) :
    P (forSites f s) := foldl_inv P f h allSites s hs

/-- What the step for one entry establishes and every step keeps, holds of each entry of the list after the fold. -/
theorem foldl_each {α β : Type} (P : α → β → Prop) (f : β → α → β) (h : ∀ b a, P a (f b a))
    (hk : ∀ b a a', P a b → P a (f b a')) (l : List α) (b : β) {a : α} (ha : a ∈ l) : P a (l.foldl f b) := by
  induction l generalizing b with
  | nil => cases ha
  | cons c l ih =>
    rcases List.mem_cons.1 ha with rfl | ha
    · exact foldl_inv (P a) f (fun b c hb => hk b a c hb) l _ (h b a)
    · exact ih _ ha

end Sys2Proof.Machine
end

