-- ==== Sys2Proof/Laws/Frames.lean ====
section
/-!
SUPPORT. What each shared operation leaves as it was: one lemma for each operation and field.
-/
namespace Sys2Proof.Machine

/-! ### setPending -/

@[simp] theorem setPending_pending (s : State) (sc : Scope) (v : Bool) : (s.setPending sc v).pending = s.pending := by
  cases sc <;> rfl
@[simp] theorem setPending_pins (s : State) (sc : Scope) (v : Bool) : (s.setPending sc v).pins = s.pins := by
  cases sc <;> rfl
@[simp] theorem setPending_unitNumber (s : State) (sc : Scope) (v : Bool) : (s.setPending sc v).unitNumber = s.unitNumber := by
  cases sc <;> rfl
@[simp] theorem setPending_rst (s : State) (sc : Scope) (v : Bool) : (s.setPending sc v).rst = s.rst := by
  cases sc <;> rfl
@[simp] theorem setPending_cfg (s : State) (sc : Scope) (v : Bool) : (s.setPending sc v).cfg = s.cfg := by
  cases sc <;> rfl
@[simp] theorem setPending_link (s : State) (sc : Scope) (v : Bool) : (s.setPending sc v).link = s.link := by
  cases sc <;> rfl
@[simp] theorem setPending_td (s : State) (sc : Scope) (v : Bool) : (s.setPending sc v).td = s.td := by
  cases sc <;> rfl
@[simp] theorem setPending_ks (s : State) (sc : Scope) (v : Bool) : (s.setPending sc v).ks = s.ks := by
  cases sc <;> rfl
@[simp] theorem setPending_arb (s : State) (sc : Scope) (v : Bool) : (s.setPending sc v).arb = s.arb := by
  cases sc <;> rfl
@[simp] theorem setPending_log (s : State) (sc : Scope) (v : Bool) : (s.setPending sc v).log = s.log := by
  cases sc <;> rfl
@[simp] theorem setPending_sites (s : State) (sc : Scope) (v : Bool) : (s.setPending sc v).sites = s.sites := by
  cases sc <;> rfl
@[simp] theorem setPending_dies (s : State) (sc : Scope) (v : Bool) : (s.setPending sc v).dies = s.dies := by
  cases sc <;> rfl

/-! ### throttle -/

@[simp] theorem throttle_pending (s : State) (sc : Scope) : (s.throttle sc).pending = s.pending := by
  unfold State.throttle; split <;> simp
@[simp] theorem throttle_pins (s : State) (sc : Scope) : (s.throttle sc).pins = s.pins := by
  unfold State.throttle; split <;> simp
@[simp] theorem throttle_unitNumber (s : State) (sc : Scope) : (s.throttle sc).unitNumber = s.unitNumber := by
  unfold State.throttle; split <;> simp
@[simp] theorem throttle_rst (s : State) (sc : Scope) : (s.throttle sc).rst = s.rst := by
  unfold State.throttle; split <;> simp
@[simp] theorem throttle_cfg (s : State) (sc : Scope) : (s.throttle sc).cfg = s.cfg := by
  unfold State.throttle; split <;> simp
@[simp] theorem throttle_td (s : State) (sc : Scope) : (s.throttle sc).td = s.td := by
  unfold State.throttle; split <;> simp
@[simp] theorem throttle_ks (s : State) (sc : Scope) : (s.throttle sc).ks = s.ks := by
  unfold State.throttle; split <;> simp
@[simp] theorem throttle_arb (s : State) (sc : Scope) : (s.throttle sc).arb = s.arb := by
  unfold State.throttle; split <;> simp
@[simp] theorem throttle_log (s : State) (sc : Scope) : (s.throttle sc).log = s.log := by
  unfold State.throttle; split <;> simp
@[simp] theorem throttle_sites (s : State) (sc : Scope) : (s.throttle sc).sites = s.sites := by
  unfold State.throttle; split <;> simp
@[simp] theorem throttle_dies (s : State) (sc : Scope) : (s.throttle sc).dies = s.dies := by
  unfold State.throttle; split <;> simp
@[simp] theorem throttle_link_rx (s : State) (sc : Scope) : (s.throttle sc).link.rx = s.link.rx := by
  unfold State.throttle; split <;> simp
@[simp] theorem throttle_link_unitAddr (s : State) (sc : Scope) : (s.throttle sc).link.unitAddr = s.link.unitAddr := by
  unfold State.throttle; split <;> simp
@[simp] theorem throttle_link_intake (s : State) (sc : Scope) : (s.throttle sc).link.intake = s.link.intake := by
  unfold State.throttle; split <;> simp
@[simp] theorem throttle_link_lastSent (s : State) (sc : Scope) : (s.throttle sc).link.lastSent = s.link.lastSent := by
  unfold State.throttle; split <;> simp
@[simp] theorem throttle_link_slotsHeld (s : State) (sc : Scope) : (s.throttle sc).link.slotsHeld = s.link.slotsHeld := by
  unfold State.throttle; split <;> simp
@[simp] theorem throttle_link_overrunsWaiting (s : State) (sc : Scope) : (s.throttle sc).link.overrunsWaiting = s.link.overrunsWaiting := by
  unfold State.throttle; split <;> simp

/-! ### latchSite -/

@[simp] theorem latchSite_pending (s : State) (i : SiteNo) (c : SiteCond) : (s.latchSite i c).pending = s.pending := by
  simp [State.latchSite]
@[simp] theorem latchSite_pins (s : State) (i : SiteNo) (c : SiteCond) : (s.latchSite i c).pins = s.pins := by
  simp [State.latchSite]
@[simp] theorem latchSite_unitNumber (s : State) (i : SiteNo) (c : SiteCond) : (s.latchSite i c).unitNumber = s.unitNumber := by
  simp [State.latchSite]
@[simp] theorem latchSite_rst (s : State) (i : SiteNo) (c : SiteCond) : (s.latchSite i c).rst = s.rst := by
  simp [State.latchSite]
@[simp] theorem latchSite_cfg (s : State) (i : SiteNo) (c : SiteCond) : (s.latchSite i c).cfg = s.cfg := by
  simp [State.latchSite]
@[simp] theorem latchSite_td (s : State) (i : SiteNo) (c : SiteCond) : (s.latchSite i c).td = s.td := by
  simp [State.latchSite]
@[simp] theorem latchSite_ks (s : State) (i : SiteNo) (c : SiteCond) : (s.latchSite i c).ks = s.ks := by
  simp [State.latchSite]
@[simp] theorem latchSite_arb (s : State) (i : SiteNo) (c : SiteCond) : (s.latchSite i c).arb = s.arb := by
  simp [State.latchSite]
@[simp] theorem latchSite_log (s : State) (i : SiteNo) (c : SiteCond) : (s.latchSite i c).log = s.log := by
  simp [State.latchSite]
@[simp] theorem latchSite_sites (s : State) (i : SiteNo) (c : SiteCond) : (s.latchSite i c).sites = s.sites := by
  simp [State.latchSite]
@[simp] theorem latchSite_dies (s : State) (i : SiteNo) (c : SiteCond) : (s.latchSite i c).dies = s.dies := by
  simp [State.latchSite]
@[simp] theorem latchSite_link_rx (s : State) (i : SiteNo) (c : SiteCond) : (s.latchSite i c).link.rx = s.link.rx := by
  simp [State.latchSite]
@[simp] theorem latchSite_link_unitAddr (s : State) (i : SiteNo) (c : SiteCond) : (s.latchSite i c).link.unitAddr = s.link.unitAddr := by
  simp [State.latchSite]
@[simp] theorem latchSite_link_intake (s : State) (i : SiteNo) (c : SiteCond) : (s.latchSite i c).link.intake = s.link.intake := by
  simp [State.latchSite]
@[simp] theorem latchSite_link_lastSent (s : State) (i : SiteNo) (c : SiteCond) : (s.latchSite i c).link.lastSent = s.link.lastSent := by
  simp [State.latchSite]
@[simp] theorem latchSite_link_slotsHeld (s : State) (i : SiteNo) (c : SiteCond) : (s.latchSite i c).link.slotsHeld = s.link.slotsHeld := by
  simp [State.latchSite]
@[simp] theorem latchSite_link_overrunsWaiting (s : State) (i : SiteNo) (c : SiteCond) : (s.latchSite i c).link.overrunsWaiting = s.link.overrunsWaiting := by
  simp [State.latchSite]

/-! ### latchGlobal -/

@[simp] theorem latchGlobal_pending (s : State) (g : GlobalFlag) : (s.latchGlobal g).pending = s.pending := by
  simp [State.latchGlobal]
@[simp] theorem latchGlobal_pins (s : State) (g : GlobalFlag) : (s.latchGlobal g).pins = s.pins := by
  simp [State.latchGlobal]
@[simp] theorem latchGlobal_unitNumber (s : State) (g : GlobalFlag) : (s.latchGlobal g).unitNumber = s.unitNumber := by
  simp [State.latchGlobal]
@[simp] theorem latchGlobal_rst (s : State) (g : GlobalFlag) : (s.latchGlobal g).rst = s.rst := by
  simp [State.latchGlobal]
@[simp] theorem latchGlobal_cfg (s : State) (g : GlobalFlag) : (s.latchGlobal g).cfg = s.cfg := by
  simp [State.latchGlobal]
@[simp] theorem latchGlobal_td (s : State) (g : GlobalFlag) : (s.latchGlobal g).td = s.td := by
  simp [State.latchGlobal]
@[simp] theorem latchGlobal_ks (s : State) (g : GlobalFlag) : (s.latchGlobal g).ks = s.ks := by
  simp [State.latchGlobal]
@[simp] theorem latchGlobal_arb (s : State) (g : GlobalFlag) : (s.latchGlobal g).arb = s.arb := by
  simp [State.latchGlobal]
@[simp] theorem latchGlobal_log (s : State) (g : GlobalFlag) : (s.latchGlobal g).log = s.log := by
  simp [State.latchGlobal]
@[simp] theorem latchGlobal_sites (s : State) (g : GlobalFlag) : (s.latchGlobal g).sites = s.sites := by
  simp [State.latchGlobal]
@[simp] theorem latchGlobal_dies (s : State) (g : GlobalFlag) : (s.latchGlobal g).dies = s.dies := by
  simp [State.latchGlobal]
@[simp] theorem latchGlobal_link_rx (s : State) (g : GlobalFlag) : (s.latchGlobal g).link.rx = s.link.rx := by
  simp [State.latchGlobal]
@[simp] theorem latchGlobal_link_unitAddr (s : State) (g : GlobalFlag) : (s.latchGlobal g).link.unitAddr = s.link.unitAddr := by
  simp [State.latchGlobal]
@[simp] theorem latchGlobal_link_intake (s : State) (g : GlobalFlag) : (s.latchGlobal g).link.intake = s.link.intake := by
  simp [State.latchGlobal]
@[simp] theorem latchGlobal_link_lastSent (s : State) (g : GlobalFlag) : (s.latchGlobal g).link.lastSent = s.link.lastSent := by
  simp [State.latchGlobal]
@[simp] theorem latchGlobal_link_slotsHeld (s : State) (g : GlobalFlag) : (s.latchGlobal g).link.slotsHeld = s.link.slotsHeld := by
  simp [State.latchGlobal]
@[simp] theorem latchGlobal_link_overrunsWaiting (s : State) (g : GlobalFlag) : (s.latchGlobal g).link.overrunsWaiting = s.link.overrunsWaiting := by
  simp [State.latchGlobal]

/-! ### changeCond -/

@[simp] theorem changeCond_pending (s : State) (i : SiteNo) (c : SiteCond) (v : Bool) : (s.changeCond i c v).pending = s.pending := by
  simp [State.changeCond]
@[simp] theorem changeCond_pins (s : State) (i : SiteNo) (c : SiteCond) (v : Bool) : (s.changeCond i c v).pins = s.pins := by
  simp [State.changeCond]
@[simp] theorem changeCond_unitNumber (s : State) (i : SiteNo) (c : SiteCond) (v : Bool) : (s.changeCond i c v).unitNumber = s.unitNumber := by
  simp [State.changeCond]
@[simp] theorem changeCond_rst (s : State) (i : SiteNo) (c : SiteCond) (v : Bool) : (s.changeCond i c v).rst = s.rst := by
  simp [State.changeCond]
@[simp] theorem changeCond_cfg (s : State) (i : SiteNo) (c : SiteCond) (v : Bool) : (s.changeCond i c v).cfg = s.cfg := by
  simp [State.changeCond]
@[simp] theorem changeCond_td (s : State) (i : SiteNo) (c : SiteCond) (v : Bool) : (s.changeCond i c v).td = s.td := by
  simp [State.changeCond]
@[simp] theorem changeCond_ks (s : State) (i : SiteNo) (c : SiteCond) (v : Bool) : (s.changeCond i c v).ks = s.ks := by
  simp [State.changeCond]
@[simp] theorem changeCond_arb (s : State) (i : SiteNo) (c : SiteCond) (v : Bool) : (s.changeCond i c v).arb = s.arb := by
  simp [State.changeCond]
@[simp] theorem changeCond_log (s : State) (i : SiteNo) (c : SiteCond) (v : Bool) : (s.changeCond i c v).log = s.log := by
  simp [State.changeCond]
@[simp] theorem changeCond_sites (s : State) (i : SiteNo) (c : SiteCond) (v : Bool) : (s.changeCond i c v).sites = s.sites := by
  simp [State.changeCond]
@[simp] theorem changeCond_dies (s : State) (i : SiteNo) (c : SiteCond) (v : Bool) : (s.changeCond i c v).dies = s.dies := by
  simp [State.changeCond]
@[simp] theorem changeCond_link_rx (s : State) (i : SiteNo) (c : SiteCond) (v : Bool) : (s.changeCond i c v).link.rx = s.link.rx := by
  simp [State.changeCond]
@[simp] theorem changeCond_link_unitAddr (s : State) (i : SiteNo) (c : SiteCond) (v : Bool) : (s.changeCond i c v).link.unitAddr = s.link.unitAddr := by
  simp [State.changeCond]
@[simp] theorem changeCond_link_intake (s : State) (i : SiteNo) (c : SiteCond) (v : Bool) : (s.changeCond i c v).link.intake = s.link.intake := by
  simp [State.changeCond]
@[simp] theorem changeCond_link_lastSent (s : State) (i : SiteNo) (c : SiteCond) (v : Bool) : (s.changeCond i c v).link.lastSent = s.link.lastSent := by
  simp [State.changeCond]
@[simp] theorem changeCond_link_slotsHeld (s : State) (i : SiteNo) (c : SiteCond) (v : Bool) : (s.changeCond i c v).link.slotsHeld = s.link.slotsHeld := by
  simp [State.changeCond]
@[simp] theorem changeCond_link_overrunsWaiting (s : State) (i : SiteNo) (c : SiteCond) (v : Bool) : (s.changeCond i c v).link.overrunsWaiting = s.link.overrunsWaiting := by
  simp [State.changeCond]

/-! ### reportPoolLow -/

@[simp] theorem reportPoolLow_pending (s : State) (v : Bool) : (s.reportPoolLow v).pending = s.pending := by
  simp [State.reportPoolLow]
@[simp] theorem reportPoolLow_pins (s : State) (v : Bool) : (s.reportPoolLow v).pins = s.pins := by
  simp [State.reportPoolLow]
@[simp] theorem reportPoolLow_unitNumber (s : State) (v : Bool) : (s.reportPoolLow v).unitNumber = s.unitNumber := by
  simp [State.reportPoolLow]
@[simp] theorem reportPoolLow_rst (s : State) (v : Bool) : (s.reportPoolLow v).rst = s.rst := by
  simp [State.reportPoolLow]
@[simp] theorem reportPoolLow_cfg (s : State) (v : Bool) : (s.reportPoolLow v).cfg = s.cfg := by
  simp [State.reportPoolLow]
@[simp] theorem reportPoolLow_td (s : State) (v : Bool) : (s.reportPoolLow v).td = s.td := by
  simp [State.reportPoolLow]
@[simp] theorem reportPoolLow_arb (s : State) (v : Bool) : (s.reportPoolLow v).arb = s.arb := by
  simp [State.reportPoolLow]
@[simp] theorem reportPoolLow_log (s : State) (v : Bool) : (s.reportPoolLow v).log = s.log := by
  simp [State.reportPoolLow]
@[simp] theorem reportPoolLow_sites (s : State) (v : Bool) : (s.reportPoolLow v).sites = s.sites := by
  simp [State.reportPoolLow]
@[simp] theorem reportPoolLow_dies (s : State) (v : Bool) : (s.reportPoolLow v).dies = s.dies := by
  simp [State.reportPoolLow]
@[simp] theorem reportPoolLow_ks_free (s : State) (v : Bool) : (s.reportPoolLow v).ks.free = s.ks.free := by
  simp [State.reportPoolLow]
@[simp] theorem reportPoolLow_ks_bound (s : State) (v : Bool) : (s.reportPoolLow v).ks.bound = s.ks.bound := by
  simp [State.reportPoolLow]
@[simp] theorem reportPoolLow_ks_highWater (s : State) (v : Bool) : (s.reportPoolLow v).ks.highWater = s.ks.highWater := by
  simp [State.reportPoolLow]
@[simp] theorem reportPoolLow_ks_waitList (s : State) (v : Bool) : (s.reportPoolLow v).ks.waitList = s.ks.waitList := by
  simp [State.reportPoolLow]
@[simp] theorem reportPoolLow_link_rx (s : State) (v : Bool) : (s.reportPoolLow v).link.rx = s.link.rx := by
  simp [State.reportPoolLow]
@[simp] theorem reportPoolLow_link_unitAddr (s : State) (v : Bool) : (s.reportPoolLow v).link.unitAddr = s.link.unitAddr := by
  simp [State.reportPoolLow]
@[simp] theorem reportPoolLow_link_intake (s : State) (v : Bool) : (s.reportPoolLow v).link.intake = s.link.intake := by
  simp [State.reportPoolLow]
@[simp] theorem reportPoolLow_link_lastSent (s : State) (v : Bool) : (s.reportPoolLow v).link.lastSent = s.link.lastSent := by
  simp [State.reportPoolLow]
@[simp] theorem reportPoolLow_link_slotsHeld (s : State) (v : Bool) : (s.reportPoolLow v).link.slotsHeld = s.link.slotsHeld := by
  simp [State.reportPoolLow]
@[simp] theorem reportPoolLow_link_overrunsWaiting (s : State) (v : Bool) : (s.reportPoolLow v).link.overrunsWaiting = s.link.overrunsWaiting := by
  simp [State.reportPoolLow]

/-! ### evalPoolLow -/

@[simp] theorem evalPoolLow_pending (s : State) : s.evalPoolLow.pending = s.pending := by
  simp only [State.evalPoolLow]; (repeat' split) <;> simp
@[simp] theorem evalPoolLow_pins (s : State) : s.evalPoolLow.pins = s.pins := by
  simp only [State.evalPoolLow]; (repeat' split) <;> simp
@[simp] theorem evalPoolLow_unitNumber (s : State) : s.evalPoolLow.unitNumber = s.unitNumber := by
  simp only [State.evalPoolLow]; (repeat' split) <;> simp
@[simp] theorem evalPoolLow_rst (s : State) : s.evalPoolLow.rst = s.rst := by
  simp only [State.evalPoolLow]; (repeat' split) <;> simp
@[simp] theorem evalPoolLow_cfg (s : State) : s.evalPoolLow.cfg = s.cfg := by
  simp only [State.evalPoolLow]; (repeat' split) <;> simp
@[simp] theorem evalPoolLow_td (s : State) : s.evalPoolLow.td = s.td := by
  simp only [State.evalPoolLow]; (repeat' split) <;> simp
@[simp] theorem evalPoolLow_arb (s : State) : s.evalPoolLow.arb = s.arb := by
  simp only [State.evalPoolLow]; (repeat' split) <;> simp
@[simp] theorem evalPoolLow_log (s : State) : s.evalPoolLow.log = s.log := by
  simp only [State.evalPoolLow]; (repeat' split) <;> simp
@[simp] theorem evalPoolLow_sites (s : State) : s.evalPoolLow.sites = s.sites := by
  simp only [State.evalPoolLow]; (repeat' split) <;> simp
@[simp] theorem evalPoolLow_dies (s : State) : s.evalPoolLow.dies = s.dies := by
  simp only [State.evalPoolLow]; (repeat' split) <;> simp
@[simp] theorem evalPoolLow_ks_free (s : State) : s.evalPoolLow.ks.free = s.ks.free := by
  simp only [State.evalPoolLow]; (repeat' split) <;> simp
@[simp] theorem evalPoolLow_ks_bound (s : State) : s.evalPoolLow.ks.bound = s.ks.bound := by
  simp only [State.evalPoolLow]; (repeat' split) <;> simp
@[simp] theorem evalPoolLow_ks_highWater (s : State) : s.evalPoolLow.ks.highWater = s.ks.highWater := by
  simp only [State.evalPoolLow]; (repeat' split) <;> simp
@[simp] theorem evalPoolLow_ks_waitList (s : State) : s.evalPoolLow.ks.waitList = s.ks.waitList := by
  simp only [State.evalPoolLow]; (repeat' split) <;> simp
@[simp] theorem evalPoolLow_link_rx (s : State) : s.evalPoolLow.link.rx = s.link.rx := by
  simp only [State.evalPoolLow]; (repeat' split) <;> simp
@[simp] theorem evalPoolLow_link_unitAddr (s : State) : s.evalPoolLow.link.unitAddr = s.link.unitAddr := by
  simp only [State.evalPoolLow]; (repeat' split) <;> simp
@[simp] theorem evalPoolLow_link_intake (s : State) : s.evalPoolLow.link.intake = s.link.intake := by
  simp only [State.evalPoolLow]; (repeat' split) <;> simp
@[simp] theorem evalPoolLow_link_lastSent (s : State) : s.evalPoolLow.link.lastSent = s.link.lastSent := by
  simp only [State.evalPoolLow]; (repeat' split) <;> simp
@[simp] theorem evalPoolLow_link_slotsHeld (s : State) : s.evalPoolLow.link.slotsHeld = s.link.slotsHeld := by
  simp only [State.evalPoolLow]; (repeat' split) <;> simp
@[simp] theorem evalPoolLow_link_overrunsWaiting (s : State) : s.evalPoolLow.link.overrunsWaiting = s.link.overrunsWaiting := by
  simp only [State.evalPoolLow]; (repeat' split) <;> simp

/-! ### evalPoolLowNew -/

@[simp] theorem evalPoolLowNew_pending (s : State) : s.evalPoolLowNew.pending = s.pending := by
  simp only [State.evalPoolLowNew]; (repeat' split) <;> simp
@[simp] theorem evalPoolLowNew_pins (s : State) : s.evalPoolLowNew.pins = s.pins := by
  simp only [State.evalPoolLowNew]; (repeat' split) <;> simp
@[simp] theorem evalPoolLowNew_unitNumber (s : State) : s.evalPoolLowNew.unitNumber = s.unitNumber := by
  simp only [State.evalPoolLowNew]; (repeat' split) <;> simp
@[simp] theorem evalPoolLowNew_rst (s : State) : s.evalPoolLowNew.rst = s.rst := by
  simp only [State.evalPoolLowNew]; (repeat' split) <;> simp
@[simp] theorem evalPoolLowNew_cfg (s : State) : s.evalPoolLowNew.cfg = s.cfg := by
  simp only [State.evalPoolLowNew]; (repeat' split) <;> simp
@[simp] theorem evalPoolLowNew_td (s : State) : s.evalPoolLowNew.td = s.td := by
  simp only [State.evalPoolLowNew]; (repeat' split) <;> simp
@[simp] theorem evalPoolLowNew_arb (s : State) : s.evalPoolLowNew.arb = s.arb := by
  simp only [State.evalPoolLowNew]; (repeat' split) <;> simp
@[simp] theorem evalPoolLowNew_log (s : State) : s.evalPoolLowNew.log = s.log := by
  simp only [State.evalPoolLowNew]; (repeat' split) <;> simp
@[simp] theorem evalPoolLowNew_sites (s : State) : s.evalPoolLowNew.sites = s.sites := by
  simp only [State.evalPoolLowNew]; (repeat' split) <;> simp
@[simp] theorem evalPoolLowNew_dies (s : State) : s.evalPoolLowNew.dies = s.dies := by
  simp only [State.evalPoolLowNew]; (repeat' split) <;> simp
@[simp] theorem evalPoolLowNew_ks_free (s : State) : s.evalPoolLowNew.ks.free = s.ks.free := by
  simp only [State.evalPoolLowNew]; (repeat' split) <;> simp
@[simp] theorem evalPoolLowNew_ks_bound (s : State) : s.evalPoolLowNew.ks.bound = s.ks.bound := by
  simp only [State.evalPoolLowNew]; (repeat' split) <;> simp
@[simp] theorem evalPoolLowNew_ks_highWater (s : State) : s.evalPoolLowNew.ks.highWater = s.ks.highWater := by
  simp only [State.evalPoolLowNew]; (repeat' split) <;> simp
@[simp] theorem evalPoolLowNew_ks_waitList (s : State) : s.evalPoolLowNew.ks.waitList = s.ks.waitList := by
  simp only [State.evalPoolLowNew]; (repeat' split) <;> simp
@[simp] theorem evalPoolLowNew_link_rx (s : State) : s.evalPoolLowNew.link.rx = s.link.rx := by
  simp only [State.evalPoolLowNew]; (repeat' split) <;> simp
@[simp] theorem evalPoolLowNew_link_unitAddr (s : State) : s.evalPoolLowNew.link.unitAddr = s.link.unitAddr := by
  simp only [State.evalPoolLowNew]; (repeat' split) <;> simp
@[simp] theorem evalPoolLowNew_link_intake (s : State) : s.evalPoolLowNew.link.intake = s.link.intake := by
  simp only [State.evalPoolLowNew]; (repeat' split) <;> simp
@[simp] theorem evalPoolLowNew_link_lastSent (s : State) : s.evalPoolLowNew.link.lastSent = s.link.lastSent := by
  simp only [State.evalPoolLowNew]; (repeat' split) <;> simp
@[simp] theorem evalPoolLowNew_link_slotsHeld (s : State) : s.evalPoolLowNew.link.slotsHeld = s.link.slotsHeld := by
  simp only [State.evalPoolLowNew]; (repeat' split) <;> simp
@[simp] theorem evalPoolLowNew_link_overrunsWaiting (s : State) : s.evalPoolLowNew.link.overrunsWaiting = s.link.overrunsWaiting := by
  simp only [State.evalPoolLowNew]; (repeat' split) <;> simp

/-! ### reportLogHigh -/

@[simp] theorem reportLogHigh_pending (s : State) (v : Bool) : (s.reportLogHigh v).pending = s.pending := by
  simp [State.reportLogHigh]
@[simp] theorem reportLogHigh_pins (s : State) (v : Bool) : (s.reportLogHigh v).pins = s.pins := by
  simp [State.reportLogHigh]
@[simp] theorem reportLogHigh_unitNumber (s : State) (v : Bool) : (s.reportLogHigh v).unitNumber = s.unitNumber := by
  simp [State.reportLogHigh]
@[simp] theorem reportLogHigh_rst (s : State) (v : Bool) : (s.reportLogHigh v).rst = s.rst := by
  simp [State.reportLogHigh]
@[simp] theorem reportLogHigh_cfg (s : State) (v : Bool) : (s.reportLogHigh v).cfg = s.cfg := by
  simp [State.reportLogHigh]
@[simp] theorem reportLogHigh_td (s : State) (v : Bool) : (s.reportLogHigh v).td = s.td := by
  simp [State.reportLogHigh]
@[simp] theorem reportLogHigh_arb (s : State) (v : Bool) : (s.reportLogHigh v).arb = s.arb := by
  simp [State.reportLogHigh]
@[simp] theorem reportLogHigh_ks (s : State) (v : Bool) : (s.reportLogHigh v).ks = s.ks := by
  simp [State.reportLogHigh]
@[simp] theorem reportLogHigh_sites (s : State) (v : Bool) : (s.reportLogHigh v).sites = s.sites := by
  simp [State.reportLogHigh]
@[simp] theorem reportLogHigh_dies (s : State) (v : Bool) : (s.reportLogHigh v).dies = s.dies := by
  simp [State.reportLogHigh]
@[simp] theorem reportLogHigh_log_records (s : State) (v : Bool) : (s.reportLogHigh v).log.records = s.log.records := by
  simp [State.reportLogHigh]
@[simp] theorem reportLogHigh_log_reservations (s : State) (v : Bool) : (s.reportLogHigh v).log.reservations = s.log.reservations := by
  simp [State.reportLogHigh]
@[simp] theorem reportLogHigh_log_nextSeq (s : State) (v : Bool) : (s.reportLogHigh v).log.nextSeq = s.log.nextSeq := by
  simp [State.reportLogHigh]
@[simp] theorem reportLogHigh_log_slotWaiters (s : State) (v : Bool) : (s.reportLogHigh v).log.slotWaiters = s.log.slotWaiters := by
  simp [State.reportLogHigh]
@[simp] theorem reportLogHigh_link_rx (s : State) (v : Bool) : (s.reportLogHigh v).link.rx = s.link.rx := by
  simp [State.reportLogHigh]
@[simp] theorem reportLogHigh_link_unitAddr (s : State) (v : Bool) : (s.reportLogHigh v).link.unitAddr = s.link.unitAddr := by
  simp [State.reportLogHigh]
@[simp] theorem reportLogHigh_link_intake (s : State) (v : Bool) : (s.reportLogHigh v).link.intake = s.link.intake := by
  simp [State.reportLogHigh]
@[simp] theorem reportLogHigh_link_lastSent (s : State) (v : Bool) : (s.reportLogHigh v).link.lastSent = s.link.lastSent := by
  simp [State.reportLogHigh]
@[simp] theorem reportLogHigh_link_slotsHeld (s : State) (v : Bool) : (s.reportLogHigh v).link.slotsHeld = s.link.slotsHeld := by
  simp [State.reportLogHigh]
@[simp] theorem reportLogHigh_link_overrunsWaiting (s : State) (v : Bool) : (s.reportLogHigh v).link.overrunsWaiting = s.link.overrunsWaiting := by
  simp [State.reportLogHigh]

/-! ### evalLogHigh -/

@[simp] theorem evalLogHigh_pending (s : State) : s.evalLogHigh.pending = s.pending := by
  simp only [State.evalLogHigh]; (repeat' split) <;> simp
@[simp] theorem evalLogHigh_pins (s : State) : s.evalLogHigh.pins = s.pins := by
  simp only [State.evalLogHigh]; (repeat' split) <;> simp
@[simp] theorem evalLogHigh_unitNumber (s : State) : s.evalLogHigh.unitNumber = s.unitNumber := by
  simp only [State.evalLogHigh]; (repeat' split) <;> simp
@[simp] theorem evalLogHigh_rst (s : State) : s.evalLogHigh.rst = s.rst := by
  simp only [State.evalLogHigh]; (repeat' split) <;> simp
@[simp] theorem evalLogHigh_cfg (s : State) : s.evalLogHigh.cfg = s.cfg := by
  simp only [State.evalLogHigh]; (repeat' split) <;> simp
@[simp] theorem evalLogHigh_td (s : State) : s.evalLogHigh.td = s.td := by
  simp only [State.evalLogHigh]; (repeat' split) <;> simp
@[simp] theorem evalLogHigh_arb (s : State) : s.evalLogHigh.arb = s.arb := by
  simp only [State.evalLogHigh]; (repeat' split) <;> simp
@[simp] theorem evalLogHigh_ks (s : State) : s.evalLogHigh.ks = s.ks := by
  simp only [State.evalLogHigh]; (repeat' split) <;> simp
@[simp] theorem evalLogHigh_sites (s : State) : s.evalLogHigh.sites = s.sites := by
  simp only [State.evalLogHigh]; (repeat' split) <;> simp
@[simp] theorem evalLogHigh_dies (s : State) : s.evalLogHigh.dies = s.dies := by
  simp only [State.evalLogHigh]; (repeat' split) <;> simp
@[simp] theorem evalLogHigh_log_records (s : State) : s.evalLogHigh.log.records = s.log.records := by
  simp only [State.evalLogHigh]; (repeat' split) <;> simp
@[simp] theorem evalLogHigh_log_reservations (s : State) : s.evalLogHigh.log.reservations = s.log.reservations := by
  simp only [State.evalLogHigh]; (repeat' split) <;> simp
@[simp] theorem evalLogHigh_log_nextSeq (s : State) : s.evalLogHigh.log.nextSeq = s.log.nextSeq := by
  simp only [State.evalLogHigh]; (repeat' split) <;> simp
@[simp] theorem evalLogHigh_log_slotWaiters (s : State) : s.evalLogHigh.log.slotWaiters = s.log.slotWaiters := by
  simp only [State.evalLogHigh]; (repeat' split) <;> simp
@[simp] theorem evalLogHigh_link_rx (s : State) : s.evalLogHigh.link.rx = s.link.rx := by
  simp only [State.evalLogHigh]; (repeat' split) <;> simp
@[simp] theorem evalLogHigh_link_unitAddr (s : State) : s.evalLogHigh.link.unitAddr = s.link.unitAddr := by
  simp only [State.evalLogHigh]; (repeat' split) <;> simp
@[simp] theorem evalLogHigh_link_intake (s : State) : s.evalLogHigh.link.intake = s.link.intake := by
  simp only [State.evalLogHigh]; (repeat' split) <;> simp
@[simp] theorem evalLogHigh_link_lastSent (s : State) : s.evalLogHigh.link.lastSent = s.link.lastSent := by
  simp only [State.evalLogHigh]; (repeat' split) <;> simp
@[simp] theorem evalLogHigh_link_slotsHeld (s : State) : s.evalLogHigh.link.slotsHeld = s.link.slotsHeld := by
  simp only [State.evalLogHigh]; (repeat' split) <;> simp
@[simp] theorem evalLogHigh_link_overrunsWaiting (s : State) : s.evalLogHigh.link.overrunsWaiting = s.link.overrunsWaiting := by
  simp only [State.evalLogHigh]; (repeat' split) <;> simp

/-! ### sendPulse -/

@[simp] theorem sendPulse_pending (s : State) (i : SiteNo) : (s.sendPulse i).pending = s.pending := by
  unfold State.sendPulse; split <;> simp
@[simp] theorem sendPulse_pins (s : State) (i : SiteNo) : (s.sendPulse i).pins = s.pins := by
  unfold State.sendPulse; split <;> simp
@[simp] theorem sendPulse_unitNumber (s : State) (i : SiteNo) : (s.sendPulse i).unitNumber = s.unitNumber := by
  unfold State.sendPulse; split <;> simp
@[simp] theorem sendPulse_rst (s : State) (i : SiteNo) : (s.sendPulse i).rst = s.rst := by
  unfold State.sendPulse; split <;> simp
@[simp] theorem sendPulse_cfg (s : State) (i : SiteNo) : (s.sendPulse i).cfg = s.cfg := by
  unfold State.sendPulse; split <;> simp
@[simp] theorem sendPulse_link (s : State) (i : SiteNo) : (s.sendPulse i).link = s.link := by
  unfold State.sendPulse; split <;> simp
@[simp] theorem sendPulse_td (s : State) (i : SiteNo) : (s.sendPulse i).td = s.td := by
  unfold State.sendPulse; split <;> simp
@[simp] theorem sendPulse_ks (s : State) (i : SiteNo) : (s.sendPulse i).ks = s.ks := by
  unfold State.sendPulse; split <;> simp
@[simp] theorem sendPulse_arb (s : State) (i : SiteNo) : (s.sendPulse i).arb = s.arb := by
  unfold State.sendPulse; split <;> simp
@[simp] theorem sendPulse_log (s : State) (i : SiteNo) : (s.sendPulse i).log = s.log := by
  unfold State.sendPulse; split <;> simp
@[simp] theorem sendPulse_mon (s : State) (i : SiteNo) : (s.sendPulse i).mon = s.mon := by
  unfold State.sendPulse; split <;> simp
@[simp] theorem sendPulse_dies (s : State) (i : SiteNo) : (s.sendPulse i).dies = s.dies := by
  unfold State.sendPulse; split <;> simp

/-! ### grantTest -/

@[simp] theorem grantTest_pending (s : State) : s.grantTest.pending = s.pending := by
  simp only [State.grantTest]; rw [foldl_keeps (fun s : State => s.pending) _ (fun _ _ => by simp)]; simp
@[simp] theorem grantTest_pins (s : State) : s.grantTest.pins = s.pins := by
  simp only [State.grantTest]; rw [foldl_keeps (fun s : State => s.pins) _ (fun _ _ => by simp)]; simp
@[simp] theorem grantTest_unitNumber (s : State) : s.grantTest.unitNumber = s.unitNumber := by
  simp only [State.grantTest]; rw [foldl_keeps (fun s : State => s.unitNumber) _ (fun _ _ => by simp)]; simp
@[simp] theorem grantTest_rst (s : State) : s.grantTest.rst = s.rst := by
  simp only [State.grantTest]; rw [foldl_keeps (fun s : State => s.rst) _ (fun _ _ => by simp)]; simp
@[simp] theorem grantTest_cfg (s : State) : s.grantTest.cfg = s.cfg := by
  simp only [State.grantTest]; rw [foldl_keeps (fun s : State => s.cfg) _ (fun _ _ => by simp)]; simp
@[simp] theorem grantTest_link (s : State) : s.grantTest.link = s.link := by
  simp only [State.grantTest]; rw [foldl_keeps (fun s : State => s.link) _ (fun _ _ => by simp)]; simp
@[simp] theorem grantTest_td (s : State) : s.grantTest.td = s.td := by
  simp only [State.grantTest]; rw [foldl_keeps (fun s : State => s.td) _ (fun _ _ => by simp)]; simp
@[simp] theorem grantTest_ks (s : State) : s.grantTest.ks = s.ks := by
  simp only [State.grantTest]; rw [foldl_keeps (fun s : State => s.ks) _ (fun _ _ => by simp)]; simp
@[simp] theorem grantTest_log (s : State) : s.grantTest.log = s.log := by
  simp only [State.grantTest]; rw [foldl_keeps (fun s : State => s.log) _ (fun _ _ => by simp)]; simp
@[simp] theorem grantTest_mon (s : State) : s.grantTest.mon = s.mon := by
  simp only [State.grantTest]; rw [foldl_keeps (fun s : State => s.mon) _ (fun _ _ => by simp)]; simp
@[simp] theorem grantTest_dies (s : State) : s.grantTest.dies = s.dies := by
  simp only [State.grantTest]; rw [foldl_keeps (fun s : State => s.dies) _ (fun _ _ => by simp)]; simp

/-! ### withdraw -/

@[simp] theorem withdraw_pending (s : State) (i : SiteNo) : (s.withdraw i).pending = s.pending := by
  unfold State.withdraw; split <;> simp
@[simp] theorem withdraw_pins (s : State) (i : SiteNo) : (s.withdraw i).pins = s.pins := by
  unfold State.withdraw; split <;> simp
@[simp] theorem withdraw_unitNumber (s : State) (i : SiteNo) : (s.withdraw i).unitNumber = s.unitNumber := by
  unfold State.withdraw; split <;> simp
@[simp] theorem withdraw_rst (s : State) (i : SiteNo) : (s.withdraw i).rst = s.rst := by
  unfold State.withdraw; split <;> simp
@[simp] theorem withdraw_cfg (s : State) (i : SiteNo) : (s.withdraw i).cfg = s.cfg := by
  unfold State.withdraw; split <;> simp
@[simp] theorem withdraw_link (s : State) (i : SiteNo) : (s.withdraw i).link = s.link := by
  unfold State.withdraw; split <;> simp
@[simp] theorem withdraw_td (s : State) (i : SiteNo) : (s.withdraw i).td = s.td := by
  unfold State.withdraw; split <;> simp
@[simp] theorem withdraw_ks (s : State) (i : SiteNo) : (s.withdraw i).ks = s.ks := by
  unfold State.withdraw; split <;> simp
@[simp] theorem withdraw_log (s : State) (i : SiteNo) : (s.withdraw i).log = s.log := by
  unfold State.withdraw; split <;> simp
@[simp] theorem withdraw_mon (s : State) (i : SiteNo) : (s.withdraw i).mon = s.mon := by
  unfold State.withdraw; split <;> simp
@[simp] theorem withdraw_dies (s : State) (i : SiteNo) : (s.withdraw i).dies = s.dies := by
  unfold State.withdraw; split <;> simp

/-! ### release -/

@[simp] theorem release_pending (s : State) (i : SiteNo) : (s.release i).pending = s.pending := by
  unfold State.release; split <;> simp
@[simp] theorem release_pins (s : State) (i : SiteNo) : (s.release i).pins = s.pins := by
  unfold State.release; split <;> simp
@[simp] theorem release_unitNumber (s : State) (i : SiteNo) : (s.release i).unitNumber = s.unitNumber := by
  unfold State.release; split <;> simp
@[simp] theorem release_rst (s : State) (i : SiteNo) : (s.release i).rst = s.rst := by
  unfold State.release; split <;> simp
@[simp] theorem release_cfg (s : State) (i : SiteNo) : (s.release i).cfg = s.cfg := by
  unfold State.release; split <;> simp
@[simp] theorem release_link (s : State) (i : SiteNo) : (s.release i).link = s.link := by
  unfold State.release; split <;> simp
@[simp] theorem release_td (s : State) (i : SiteNo) : (s.release i).td = s.td := by
  unfold State.release; split <;> simp
@[simp] theorem release_ks (s : State) (i : SiteNo) : (s.release i).ks = s.ks := by
  unfold State.release; split <;> simp
@[simp] theorem release_log (s : State) (i : SiteNo) : (s.release i).log = s.log := by
  unfold State.release; split <;> simp
@[simp] theorem release_mon (s : State) (i : SiteNo) : (s.release i).mon = s.mon := by
  unfold State.release; split <;> simp
@[simp] theorem release_dies (s : State) (i : SiteNo) : (s.release i).dies = s.dies := by
  unfold State.release; split <;> simp

/-! ### endJob -/

@[simp] theorem endJob_pending (s : State) (i : SiteNo) (o : JobOutcome) : (s.endJob i o).pending = s.pending := by
  unfold State.endJob; split; · rfl
  · simp only []; split <;> simp
@[simp] theorem endJob_pins (s : State) (i : SiteNo) (o : JobOutcome) : (s.endJob i o).pins = s.pins := by
  unfold State.endJob; split; · rfl
  · simp only []; split <;> simp
@[simp] theorem endJob_unitNumber (s : State) (i : SiteNo) (o : JobOutcome) : (s.endJob i o).unitNumber = s.unitNumber := by
  unfold State.endJob; split; · rfl
  · simp only []; split <;> simp
@[simp] theorem endJob_rst (s : State) (i : SiteNo) (o : JobOutcome) : (s.endJob i o).rst = s.rst := by
  unfold State.endJob; split; · rfl
  · simp only []; split <;> simp
@[simp] theorem endJob_cfg (s : State) (i : SiteNo) (o : JobOutcome) : (s.endJob i o).cfg = s.cfg := by
  unfold State.endJob; split; · rfl
  · simp only []; split <;> simp
@[simp] theorem endJob_arb (s : State) (i : SiteNo) (o : JobOutcome) : (s.endJob i o).arb = s.arb := by
  unfold State.endJob; split; · rfl
  · simp only []; split <;> simp
@[simp] theorem endJob_dies (s : State) (i : SiteNo) (o : JobOutcome) : (s.endJob i o).dies = s.dies := by
  unfold State.endJob; split; · rfl
  · simp only []; split <;> simp
@[simp] theorem endJob_link_rx (s : State) (i : SiteNo) (o : JobOutcome) : (s.endJob i o).link.rx = s.link.rx := by
  unfold State.endJob; split; · rfl
  · simp only []; split <;> simp
@[simp] theorem endJob_link_unitAddr (s : State) (i : SiteNo) (o : JobOutcome) : (s.endJob i o).link.unitAddr = s.link.unitAddr := by
  unfold State.endJob; split; · rfl
  · simp only []; split <;> simp
@[simp] theorem endJob_link_intake (s : State) (i : SiteNo) (o : JobOutcome) : (s.endJob i o).link.intake = s.link.intake := by
  unfold State.endJob; split; · rfl
  · simp only []; split <;> simp
@[simp] theorem endJob_link_lastSent (s : State) (i : SiteNo) (o : JobOutcome) : (s.endJob i o).link.lastSent = s.link.lastSent := by
  unfold State.endJob; split; · rfl
  · simp only []; split <;> simp
@[simp] theorem endJob_link_slotsHeld (s : State) (i : SiteNo) (o : JobOutcome) : (s.endJob i o).link.slotsHeld = s.link.slotsHeld := by
  unfold State.endJob; split; · rfl
  · simp only []; split <;> simp
@[simp] theorem endJob_link_overrunsWaiting (s : State) (i : SiteNo) (o : JobOutcome) : (s.endJob i o).link.overrunsWaiting = s.link.overrunsWaiting := by
  unfold State.endJob; split; · rfl
  · simp only []; split <;> simp
@[simp] theorem endJob_td_state (s : State) (i : SiteNo) (o : JobOutcome) : (s.endJob i o).td.state = s.td.state := by
  unfold State.endJob; split; · rfl
  · simp only [latchGlobal_td, setJob_td, accountEnd_td]; unfold Touchdown.countEnd; (repeat' split) <;> simp
@[simp] theorem endJob_td_number (s : State) (i : SiteNo) (o : JobOutcome) : (s.endJob i o).td.number = s.td.number := by
  unfold State.endJob; split; · rfl
  · simp only [latchGlobal_td, setJob_td, accountEnd_td]; unfold Touchdown.countEnd; (repeat' split) <;> simp
@[simp] theorem endJob_td_deferred (s : State) (i : SiteNo) (o : JobOutcome) : (s.endJob i o).td.deferred = s.td.deferred := by
  unfold State.endJob; split; · rfl
  · simp only [latchGlobal_td, setJob_td, accountEnd_td]; unfold Touchdown.countEnd; (repeat' split) <;> simp
@[simp] theorem endJob_ks_free (s : State) (i : SiteNo) (o : JobOutcome) : (s.endJob i o).ks.free = s.ks.free := by
  unfold State.endJob; split; · rfl
  · simp only [latchGlobal_ks, setJob_ks]; split <;> simp [KeyStore.endJob]
@[simp] theorem endJob_ks_highWater (s : State) (i : SiteNo) (o : JobOutcome) : (s.endJob i o).ks.highWater = s.ks.highWater := by
  unfold State.endJob; split; · rfl
  · simp only [latchGlobal_ks, setJob_ks]; split <;> simp [KeyStore.endJob]
@[simp] theorem endJob_ks_poolLow (s : State) (i : SiteNo) (o : JobOutcome) : (s.endJob i o).ks.poolLow = s.ks.poolLow := by
  unfold State.endJob; split; · rfl
  · simp only [latchGlobal_ks, setJob_ks]; split <;> simp [KeyStore.endJob]
@[simp] theorem endJob_log_slotWaiters (s : State) (i : SiteNo) (o : JobOutcome) : (s.endJob i o).log.slotWaiters = s.log.slotWaiters := by
  unfold State.endJob; split; · rfl
  · simp only [latchGlobal_log, setJob_log]; split <;> simp [IssueLog.append]
@[simp] theorem endJob_log_logHigh (s : State) (i : SiteNo) (o : JobOutcome) : (s.endJob i o).log.logHigh = s.log.logHigh := by
  unfold State.endJob; split; · rfl
  · simp only [latchGlobal_log, setJob_log]; split <;> simp [IssueLog.append]

/-! ### doAct -/

@[simp] theorem doAct_pending (s : State) (i : SiteNo) (a : Act) : (s.doAct i a).pending = s.pending := by
  cases a <;> simp [State.doAct]
@[simp] theorem doAct_pins (s : State) (i : SiteNo) (a : Act) : (s.doAct i a).pins = s.pins := by
  cases a <;> simp [State.doAct]
@[simp] theorem doAct_unitNumber (s : State) (i : SiteNo) (a : Act) : (s.doAct i a).unitNumber = s.unitNumber := by
  cases a <;> simp [State.doAct]
@[simp] theorem doAct_rst (s : State) (i : SiteNo) (a : Act) : (s.doAct i a).rst = s.rst := by
  cases a <;> simp [State.doAct]
@[simp] theorem doAct_cfg (s : State) (i : SiteNo) (a : Act) : (s.doAct i a).cfg = s.cfg := by
  cases a <;> simp [State.doAct]
@[simp] theorem doAct_arb (s : State) (i : SiteNo) (a : Act) : (s.doAct i a).arb = s.arb := by
  cases a <;> simp [State.doAct]
@[simp] theorem doAct_dies (s : State) (i : SiteNo) (a : Act) : (s.doAct i a).dies = s.dies := by
  cases a <;> simp [State.doAct]
@[simp] theorem doAct_link_rx (s : State) (i : SiteNo) (a : Act) : (s.doAct i a).link.rx = s.link.rx := by
  cases a <;> simp [State.doAct]
@[simp] theorem doAct_link_unitAddr (s : State) (i : SiteNo) (a : Act) : (s.doAct i a).link.unitAddr = s.link.unitAddr := by
  cases a <;> simp [State.doAct]
@[simp] theorem doAct_link_intake (s : State) (i : SiteNo) (a : Act) : (s.doAct i a).link.intake = s.link.intake := by
  cases a <;> simp [State.doAct]
@[simp] theorem doAct_link_lastSent (s : State) (i : SiteNo) (a : Act) : (s.doAct i a).link.lastSent = s.link.lastSent := by
  cases a <;> simp [State.doAct]
@[simp] theorem doAct_link_slotsHeld (s : State) (i : SiteNo) (a : Act) : (s.doAct i a).link.slotsHeld = s.link.slotsHeld := by
  cases a <;> simp [State.doAct]
@[simp] theorem doAct_link_overrunsWaiting (s : State) (i : SiteNo) (a : Act) : (s.doAct i a).link.overrunsWaiting = s.link.overrunsWaiting := by
  cases a <;> simp [State.doAct]
@[simp] theorem doAct_td_state (s : State) (i : SiteNo) (a : Act) : (s.doAct i a).td.state = s.td.state := by
  cases a <;> simp [State.doAct]
@[simp] theorem doAct_td_number (s : State) (i : SiteNo) (a : Act) : (s.doAct i a).td.number = s.td.number := by
  cases a <;> simp [State.doAct]
@[simp] theorem doAct_td_deferred (s : State) (i : SiteNo) (a : Act) : (s.doAct i a).td.deferred = s.td.deferred := by
  cases a <;> simp [State.doAct]
@[simp] theorem doAct_ks_free (s : State) (i : SiteNo) (a : Act) : (s.doAct i a).ks.free = s.ks.free := by
  cases a <;> simp [State.doAct]
@[simp] theorem doAct_ks_highWater (s : State) (i : SiteNo) (a : Act) : (s.doAct i a).ks.highWater = s.ks.highWater := by
  cases a <;> simp [State.doAct]
@[simp] theorem doAct_ks_poolLow (s : State) (i : SiteNo) (a : Act) : (s.doAct i a).ks.poolLow = s.ks.poolLow := by
  cases a <;> simp [State.doAct]
@[simp] theorem doAct_log_slotWaiters (s : State) (i : SiteNo) (a : Act) : (s.doAct i a).log.slotWaiters = s.log.slotWaiters := by
  cases a <;> simp [State.doAct]
@[simp] theorem doAct_log_logHigh (s : State) (i : SiteNo) (a : Act) : (s.doAct i a).log.logHigh = s.log.logHigh := by
  cases a <;> simp [State.doAct]

/-! ### doMove -/

@[simp] theorem doMove_pending (s : State) (i : SiteNo) (m : Move) : (s.doMove i m).pending = s.pending := by
  simp [State.doMove]
@[simp] theorem doMove_pins (s : State) (i : SiteNo) (m : Move) : (s.doMove i m).pins = s.pins := by
  simp [State.doMove]
@[simp] theorem doMove_unitNumber (s : State) (i : SiteNo) (m : Move) : (s.doMove i m).unitNumber = s.unitNumber := by
  simp [State.doMove]
@[simp] theorem doMove_rst (s : State) (i : SiteNo) (m : Move) : (s.doMove i m).rst = s.rst := by
  simp [State.doMove]
@[simp] theorem doMove_cfg (s : State) (i : SiteNo) (m : Move) : (s.doMove i m).cfg = s.cfg := by
  simp [State.doMove]
@[simp] theorem doMove_arb (s : State) (i : SiteNo) (m : Move) : (s.doMove i m).arb = s.arb := by
  simp [State.doMove]
@[simp] theorem doMove_dies (s : State) (i : SiteNo) (m : Move) : (s.doMove i m).dies = s.dies := by
  simp [State.doMove]
@[simp] theorem doMove_link_rx (s : State) (i : SiteNo) (m : Move) : (s.doMove i m).link.rx = s.link.rx := by
  simp [State.doMove]
@[simp] theorem doMove_link_unitAddr (s : State) (i : SiteNo) (m : Move) : (s.doMove i m).link.unitAddr = s.link.unitAddr := by
  simp [State.doMove]
@[simp] theorem doMove_link_intake (s : State) (i : SiteNo) (m : Move) : (s.doMove i m).link.intake = s.link.intake := by
  simp [State.doMove]
@[simp] theorem doMove_link_lastSent (s : State) (i : SiteNo) (m : Move) : (s.doMove i m).link.lastSent = s.link.lastSent := by
  simp [State.doMove]
@[simp] theorem doMove_link_slotsHeld (s : State) (i : SiteNo) (m : Move) : (s.doMove i m).link.slotsHeld = s.link.slotsHeld := by
  simp [State.doMove]
@[simp] theorem doMove_link_overrunsWaiting (s : State) (i : SiteNo) (m : Move) : (s.doMove i m).link.overrunsWaiting = s.link.overrunsWaiting := by
  simp [State.doMove]
@[simp] theorem doMove_td_state (s : State) (i : SiteNo) (m : Move) : (s.doMove i m).td.state = s.td.state := by
  simp [State.doMove]
@[simp] theorem doMove_td_number (s : State) (i : SiteNo) (m : Move) : (s.doMove i m).td.number = s.td.number := by
  simp [State.doMove]
@[simp] theorem doMove_td_deferred (s : State) (i : SiteNo) (m : Move) : (s.doMove i m).td.deferred = s.td.deferred := by
  simp [State.doMove]
@[simp] theorem doMove_ks_free (s : State) (i : SiteNo) (m : Move) : (s.doMove i m).ks.free = s.ks.free := by
  simp [State.doMove]
@[simp] theorem doMove_ks_highWater (s : State) (i : SiteNo) (m : Move) : (s.doMove i m).ks.highWater = s.ks.highWater := by
  simp [State.doMove]
@[simp] theorem doMove_ks_poolLow (s : State) (i : SiteNo) (m : Move) : (s.doMove i m).ks.poolLow = s.ks.poolLow := by
  simp [State.doMove]
@[simp] theorem doMove_log_slotWaiters (s : State) (i : SiteNo) (m : Move) : (s.doMove i m).log.slotWaiters = s.log.slotWaiters := by
  simp [State.doMove]
@[simp] theorem doMove_log_logHigh (s : State) (i : SiteNo) (m : Move) : (s.doMove i m).log.logHigh = s.log.logHigh := by
  simp [State.doMove]

/-! ### abort -/

@[simp] theorem abort_pending (s : State) (i : SiteNo) (p : PendingEnd) : (s.abort i p).pending = s.pending := by
  unfold State.abort; (repeat' split) <;> simp
@[simp] theorem abort_pins (s : State) (i : SiteNo) (p : PendingEnd) : (s.abort i p).pins = s.pins := by
  unfold State.abort; (repeat' split) <;> simp
@[simp] theorem abort_unitNumber (s : State) (i : SiteNo) (p : PendingEnd) : (s.abort i p).unitNumber = s.unitNumber := by
  unfold State.abort; (repeat' split) <;> simp
@[simp] theorem abort_rst (s : State) (i : SiteNo) (p : PendingEnd) : (s.abort i p).rst = s.rst := by
  unfold State.abort; (repeat' split) <;> simp
@[simp] theorem abort_cfg (s : State) (i : SiteNo) (p : PendingEnd) : (s.abort i p).cfg = s.cfg := by
  unfold State.abort; (repeat' split) <;> simp
@[simp] theorem abort_dies (s : State) (i : SiteNo) (p : PendingEnd) : (s.abort i p).dies = s.dies := by
  unfold State.abort; (repeat' split) <;> simp
@[simp] theorem abort_link_rx (s : State) (i : SiteNo) (p : PendingEnd) : (s.abort i p).link.rx = s.link.rx := by
  unfold State.abort; (repeat' split) <;> simp
@[simp] theorem abort_link_unitAddr (s : State) (i : SiteNo) (p : PendingEnd) : (s.abort i p).link.unitAddr = s.link.unitAddr := by
  unfold State.abort; (repeat' split) <;> simp
@[simp] theorem abort_link_intake (s : State) (i : SiteNo) (p : PendingEnd) : (s.abort i p).link.intake = s.link.intake := by
  unfold State.abort; (repeat' split) <;> simp
@[simp] theorem abort_link_lastSent (s : State) (i : SiteNo) (p : PendingEnd) : (s.abort i p).link.lastSent = s.link.lastSent := by
  unfold State.abort; (repeat' split) <;> simp
@[simp] theorem abort_link_slotsHeld (s : State) (i : SiteNo) (p : PendingEnd) : (s.abort i p).link.slotsHeld = s.link.slotsHeld := by
  unfold State.abort; (repeat' split) <;> simp
@[simp] theorem abort_link_overrunsWaiting (s : State) (i : SiteNo) (p : PendingEnd) : (s.abort i p).link.overrunsWaiting = s.link.overrunsWaiting := by
  unfold State.abort; (repeat' split) <;> simp
@[simp] theorem abort_td_state (s : State) (i : SiteNo) (p : PendingEnd) : (s.abort i p).td.state = s.td.state := by
  unfold State.abort; (repeat' split) <;> simp
@[simp] theorem abort_td_number (s : State) (i : SiteNo) (p : PendingEnd) : (s.abort i p).td.number = s.td.number := by
  unfold State.abort; (repeat' split) <;> simp
@[simp] theorem abort_td_deferred (s : State) (i : SiteNo) (p : PendingEnd) : (s.abort i p).td.deferred = s.td.deferred := by
  unfold State.abort; (repeat' split) <;> simp
@[simp] theorem abort_ks_free (s : State) (i : SiteNo) (p : PendingEnd) : (s.abort i p).ks.free = s.ks.free := by
  unfold State.abort; (repeat' split) <;> simp
@[simp] theorem abort_ks_highWater (s : State) (i : SiteNo) (p : PendingEnd) : (s.abort i p).ks.highWater = s.ks.highWater := by
  unfold State.abort; (repeat' split) <;> simp
@[simp] theorem abort_ks_poolLow (s : State) (i : SiteNo) (p : PendingEnd) : (s.abort i p).ks.poolLow = s.ks.poolLow := by
  unfold State.abort; (repeat' split) <;> simp
@[simp] theorem abort_log_slotWaiters (s : State) (i : SiteNo) (p : PendingEnd) : (s.abort i p).log.slotWaiters = s.log.slotWaiters := by
  unfold State.abort; (repeat' split) <;> simp
@[simp] theorem abort_log_logHigh (s : State) (i : SiteNo) (p : PendingEnd) : (s.abort i p).log.logHigh = s.log.logHigh := by
  unfold State.abort; (repeat' split) <;> simp

/-! ### request -/

@[simp] theorem request_pending (s : State) (i : SiteNo) (d : Nat) : (s.request i d).pending = s.pending := by
  unfold State.request; split <;> simp
@[simp] theorem request_pins (s : State) (i : SiteNo) (d : Nat) : (s.request i d).pins = s.pins := by
  unfold State.request; split <;> simp
@[simp] theorem request_unitNumber (s : State) (i : SiteNo) (d : Nat) : (s.request i d).unitNumber = s.unitNumber := by
  unfold State.request; split <;> simp
@[simp] theorem request_rst (s : State) (i : SiteNo) (d : Nat) : (s.request i d).rst = s.rst := by
  unfold State.request; split <;> simp
@[simp] theorem request_cfg (s : State) (i : SiteNo) (d : Nat) : (s.request i d).cfg = s.cfg := by
  unfold State.request; split <;> simp
@[simp] theorem request_dies (s : State) (i : SiteNo) (d : Nat) : (s.request i d).dies = s.dies := by
  unfold State.request; split <;> simp
@[simp] theorem request_link_rx (s : State) (i : SiteNo) (d : Nat) : (s.request i d).link.rx = s.link.rx := by
  unfold State.request; split <;> simp
@[simp] theorem request_link_unitAddr (s : State) (i : SiteNo) (d : Nat) : (s.request i d).link.unitAddr = s.link.unitAddr := by
  unfold State.request; split <;> simp
@[simp] theorem request_link_intake (s : State) (i : SiteNo) (d : Nat) : (s.request i d).link.intake = s.link.intake := by
  unfold State.request; split <;> simp
@[simp] theorem request_link_lastSent (s : State) (i : SiteNo) (d : Nat) : (s.request i d).link.lastSent = s.link.lastSent := by
  unfold State.request; split <;> simp
@[simp] theorem request_link_slotsHeld (s : State) (i : SiteNo) (d : Nat) : (s.request i d).link.slotsHeld = s.link.slotsHeld := by
  unfold State.request; split <;> simp
@[simp] theorem request_link_overrunsWaiting (s : State) (i : SiteNo) (d : Nat) : (s.request i d).link.overrunsWaiting = s.link.overrunsWaiting := by
  unfold State.request; split <;> simp
@[simp] theorem request_td_state (s : State) (i : SiteNo) (d : Nat) : (s.request i d).td.state = s.td.state := by
  unfold State.request; split <;> simp
@[simp] theorem request_td_number (s : State) (i : SiteNo) (d : Nat) : (s.request i d).td.number = s.td.number := by
  unfold State.request; split <;> simp
@[simp] theorem request_td_deferred (s : State) (i : SiteNo) (d : Nat) : (s.request i d).td.deferred = s.td.deferred := by
  unfold State.request; split <;> simp
@[simp] theorem request_ks_free (s : State) (i : SiteNo) (d : Nat) : (s.request i d).ks.free = s.ks.free := by
  unfold State.request; split <;> simp
@[simp] theorem request_ks_highWater (s : State) (i : SiteNo) (d : Nat) : (s.request i d).ks.highWater = s.ks.highWater := by
  unfold State.request; split <;> simp
@[simp] theorem request_ks_poolLow (s : State) (i : SiteNo) (d : Nat) : (s.request i d).ks.poolLow = s.ks.poolLow := by
  unfold State.request; split <;> simp
@[simp] theorem request_log_slotWaiters (s : State) (i : SiteNo) (d : Nat) : (s.request i d).log.slotWaiters = s.log.slotWaiters := by
  unfold State.request; split <;> simp
@[simp] theorem request_log_logHigh (s : State) (i : SiteNo) (d : Nat) : (s.request i d).log.logHigh = s.log.logHigh := by
  unfold State.request; split <;> simp

/-! ### giveKey -/

@[simp] theorem giveKey_pending (s : State) (i : SiteNo) (k : Key) : (s.giveKey i k).pending = s.pending := by
  unfold State.giveKey; split <;> simp
@[simp] theorem giveKey_pins (s : State) (i : SiteNo) (k : Key) : (s.giveKey i k).pins = s.pins := by
  unfold State.giveKey; split <;> simp
@[simp] theorem giveKey_unitNumber (s : State) (i : SiteNo) (k : Key) : (s.giveKey i k).unitNumber = s.unitNumber := by
  unfold State.giveKey; split <;> simp
@[simp] theorem giveKey_rst (s : State) (i : SiteNo) (k : Key) : (s.giveKey i k).rst = s.rst := by
  unfold State.giveKey; split <;> simp
@[simp] theorem giveKey_cfg (s : State) (i : SiteNo) (k : Key) : (s.giveKey i k).cfg = s.cfg := by
  unfold State.giveKey; split <;> simp
@[simp] theorem giveKey_arb (s : State) (i : SiteNo) (k : Key) : (s.giveKey i k).arb = s.arb := by
  unfold State.giveKey; split <;> simp
@[simp] theorem giveKey_dies (s : State) (i : SiteNo) (k : Key) : (s.giveKey i k).dies = s.dies := by
  unfold State.giveKey; split <;> simp
@[simp] theorem giveKey_link_rx (s : State) (i : SiteNo) (k : Key) : (s.giveKey i k).link.rx = s.link.rx := by
  unfold State.giveKey; split <;> simp
@[simp] theorem giveKey_link_unitAddr (s : State) (i : SiteNo) (k : Key) : (s.giveKey i k).link.unitAddr = s.link.unitAddr := by
  unfold State.giveKey; split <;> simp
@[simp] theorem giveKey_link_intake (s : State) (i : SiteNo) (k : Key) : (s.giveKey i k).link.intake = s.link.intake := by
  unfold State.giveKey; split <;> simp
@[simp] theorem giveKey_link_lastSent (s : State) (i : SiteNo) (k : Key) : (s.giveKey i k).link.lastSent = s.link.lastSent := by
  unfold State.giveKey; split <;> simp
@[simp] theorem giveKey_link_slotsHeld (s : State) (i : SiteNo) (k : Key) : (s.giveKey i k).link.slotsHeld = s.link.slotsHeld := by
  unfold State.giveKey; split <;> simp
@[simp] theorem giveKey_link_overrunsWaiting (s : State) (i : SiteNo) (k : Key) : (s.giveKey i k).link.overrunsWaiting = s.link.overrunsWaiting := by
  unfold State.giveKey; split <;> simp
@[simp] theorem giveKey_td_state (s : State) (i : SiteNo) (k : Key) : (s.giveKey i k).td.state = s.td.state := by
  unfold State.giveKey; split <;> simp
@[simp] theorem giveKey_td_number (s : State) (i : SiteNo) (k : Key) : (s.giveKey i k).td.number = s.td.number := by
  unfold State.giveKey; split <;> simp
@[simp] theorem giveKey_td_deferred (s : State) (i : SiteNo) (k : Key) : (s.giveKey i k).td.deferred = s.td.deferred := by
  unfold State.giveKey; split <;> simp
@[simp] theorem giveKey_ks_free (s : State) (i : SiteNo) (k : Key) : (s.giveKey i k).ks.free = s.ks.free := by
  unfold State.giveKey; split <;> simp
@[simp] theorem giveKey_ks_highWater (s : State) (i : SiteNo) (k : Key) : (s.giveKey i k).ks.highWater = s.ks.highWater := by
  unfold State.giveKey; split <;> simp
@[simp] theorem giveKey_ks_poolLow (s : State) (i : SiteNo) (k : Key) : (s.giveKey i k).ks.poolLow = s.ks.poolLow := by
  unfold State.giveKey; split <;> simp
@[simp] theorem giveKey_log_slotWaiters (s : State) (i : SiteNo) (k : Key) : (s.giveKey i k).log.slotWaiters = s.log.slotWaiters := by
  unfold State.giveKey; split <;> simp
@[simp] theorem giveKey_log_logHigh (s : State) (i : SiteNo) (k : Key) : (s.giveKey i k).log.logHigh = s.log.logHigh := by
  unfold State.giveKey; split <;> simp

/-! ### joinWaitList -/

@[simp] theorem joinWaitList_pending (s : State) (i : SiteNo) : (s.joinWaitList i).pending = s.pending := by
  unfold State.joinWaitList; split <;> simp
@[simp] theorem joinWaitList_pins (s : State) (i : SiteNo) : (s.joinWaitList i).pins = s.pins := by
  unfold State.joinWaitList; split <;> simp
@[simp] theorem joinWaitList_unitNumber (s : State) (i : SiteNo) : (s.joinWaitList i).unitNumber = s.unitNumber := by
  unfold State.joinWaitList; split <;> simp
@[simp] theorem joinWaitList_rst (s : State) (i : SiteNo) : (s.joinWaitList i).rst = s.rst := by
  unfold State.joinWaitList; split <;> simp
@[simp] theorem joinWaitList_cfg (s : State) (i : SiteNo) : (s.joinWaitList i).cfg = s.cfg := by
  unfold State.joinWaitList; split <;> simp
@[simp] theorem joinWaitList_arb (s : State) (i : SiteNo) : (s.joinWaitList i).arb = s.arb := by
  unfold State.joinWaitList; split <;> simp
@[simp] theorem joinWaitList_link (s : State) (i : SiteNo) : (s.joinWaitList i).link = s.link := by
  unfold State.joinWaitList; split <;> simp
@[simp] theorem joinWaitList_td (s : State) (i : SiteNo) : (s.joinWaitList i).td = s.td := by
  unfold State.joinWaitList; split <;> simp
@[simp] theorem joinWaitList_log (s : State) (i : SiteNo) : (s.joinWaitList i).log = s.log := by
  unfold State.joinWaitList; split <;> simp
@[simp] theorem joinWaitList_mon (s : State) (i : SiteNo) : (s.joinWaitList i).mon = s.mon := by
  unfold State.joinWaitList; split <;> simp
@[simp] theorem joinWaitList_dies (s : State) (i : SiteNo) : (s.joinWaitList i).dies = s.dies := by
  unfold State.joinWaitList; split <;> simp
@[simp] theorem joinWaitList_ks_free (s : State) (i : SiteNo) : (s.joinWaitList i).ks.free = s.ks.free := by
  unfold State.joinWaitList; split <;> simp
@[simp] theorem joinWaitList_ks_highWater (s : State) (i : SiteNo) : (s.joinWaitList i).ks.highWater = s.ks.highWater := by
  unfold State.joinWaitList; split <;> simp
@[simp] theorem joinWaitList_ks_poolLow (s : State) (i : SiteNo) : (s.joinWaitList i).ks.poolLow = s.ks.poolLow := by
  unfold State.joinWaitList; split <;> simp
@[simp] theorem joinWaitList_ks_bound (s : State) (i : SiteNo) : (s.joinWaitList i).ks.bound = s.ks.bound := by
  unfold State.joinWaitList; split <;> simp

/-! ### bindRequest -/

@[simp] theorem bindRequest_pending (s : State) (i : SiteNo) : (s.bindRequest i).pending = s.pending := by
  unfold State.bindRequest; split <;> simp [KeyStore.bindFront]
@[simp] theorem bindRequest_pins (s : State) (i : SiteNo) : (s.bindRequest i).pins = s.pins := by
  unfold State.bindRequest; split <;> simp [KeyStore.bindFront]
@[simp] theorem bindRequest_unitNumber (s : State) (i : SiteNo) : (s.bindRequest i).unitNumber = s.unitNumber := by
  unfold State.bindRequest; split <;> simp [KeyStore.bindFront]
@[simp] theorem bindRequest_rst (s : State) (i : SiteNo) : (s.bindRequest i).rst = s.rst := by
  unfold State.bindRequest; split <;> simp [KeyStore.bindFront]
@[simp] theorem bindRequest_cfg (s : State) (i : SiteNo) : (s.bindRequest i).cfg = s.cfg := by
  unfold State.bindRequest; split <;> simp [KeyStore.bindFront]
@[simp] theorem bindRequest_arb (s : State) (i : SiteNo) : (s.bindRequest i).arb = s.arb := by
  unfold State.bindRequest; split <;> simp [KeyStore.bindFront]
@[simp] theorem bindRequest_dies (s : State) (i : SiteNo) : (s.bindRequest i).dies = s.dies := by
  unfold State.bindRequest; split <;> simp [KeyStore.bindFront]
@[simp] theorem bindRequest_link_rx (s : State) (i : SiteNo) : (s.bindRequest i).link.rx = s.link.rx := by
  unfold State.bindRequest; split <;> simp [KeyStore.bindFront]
@[simp] theorem bindRequest_link_unitAddr (s : State) (i : SiteNo) : (s.bindRequest i).link.unitAddr = s.link.unitAddr := by
  unfold State.bindRequest; split <;> simp [KeyStore.bindFront]
@[simp] theorem bindRequest_link_intake (s : State) (i : SiteNo) : (s.bindRequest i).link.intake = s.link.intake := by
  unfold State.bindRequest; split <;> simp [KeyStore.bindFront]
@[simp] theorem bindRequest_link_lastSent (s : State) (i : SiteNo) : (s.bindRequest i).link.lastSent = s.link.lastSent := by
  unfold State.bindRequest; split <;> simp [KeyStore.bindFront]
@[simp] theorem bindRequest_link_slotsHeld (s : State) (i : SiteNo) : (s.bindRequest i).link.slotsHeld = s.link.slotsHeld := by
  unfold State.bindRequest; split <;> simp [KeyStore.bindFront]
@[simp] theorem bindRequest_link_overrunsWaiting (s : State) (i : SiteNo) : (s.bindRequest i).link.overrunsWaiting = s.link.overrunsWaiting := by
  unfold State.bindRequest; split <;> simp [KeyStore.bindFront]
@[simp] theorem bindRequest_td_state (s : State) (i : SiteNo) : (s.bindRequest i).td.state = s.td.state := by
  unfold State.bindRequest; split <;> simp [KeyStore.bindFront]
@[simp] theorem bindRequest_td_number (s : State) (i : SiteNo) : (s.bindRequest i).td.number = s.td.number := by
  unfold State.bindRequest; split <;> simp [KeyStore.bindFront]
@[simp] theorem bindRequest_td_deferred (s : State) (i : SiteNo) : (s.bindRequest i).td.deferred = s.td.deferred := by
  unfold State.bindRequest; split <;> simp [KeyStore.bindFront]
@[simp] theorem bindRequest_ks_highWater (s : State) (i : SiteNo) : (s.bindRequest i).ks.highWater = s.ks.highWater := by
  unfold State.bindRequest; split <;> simp [KeyStore.bindFront]
@[simp] theorem bindRequest_log_slotWaiters (s : State) (i : SiteNo) : (s.bindRequest i).log.slotWaiters = s.log.slotWaiters := by
  unfold State.bindRequest; split <;> simp [KeyStore.bindFront]
@[simp] theorem bindRequest_log_logHigh (s : State) (i : SiteNo) : (s.bindRequest i).log.logHigh = s.log.logHigh := by
  unfold State.bindRequest; split <;> simp [KeyStore.bindFront]

/-! ### perform -/

@[simp] theorem perform_pending (s : State) (i : SiteNo) (m : Move) : (s.perform i m).pending = s.pending := by
  unfold State.perform; split <;> simp
@[simp] theorem perform_pins (s : State) (i : SiteNo) (m : Move) : (s.perform i m).pins = s.pins := by
  unfold State.perform; split <;> simp
@[simp] theorem perform_unitNumber (s : State) (i : SiteNo) (m : Move) : (s.perform i m).unitNumber = s.unitNumber := by
  unfold State.perform; split <;> simp
@[simp] theorem perform_rst (s : State) (i : SiteNo) (m : Move) : (s.perform i m).rst = s.rst := by
  unfold State.perform; split <;> simp
@[simp] theorem perform_cfg (s : State) (i : SiteNo) (m : Move) : (s.perform i m).cfg = s.cfg := by
  unfold State.perform; split <;> simp
@[simp] theorem perform_dies (s : State) (i : SiteNo) (m : Move) : (s.perform i m).dies = s.dies := by
  unfold State.perform; split <;> simp
@[simp] theorem perform_link_rx (s : State) (i : SiteNo) (m : Move) : (s.perform i m).link.rx = s.link.rx := by
  unfold State.perform; split <;> simp
@[simp] theorem perform_link_unitAddr (s : State) (i : SiteNo) (m : Move) : (s.perform i m).link.unitAddr = s.link.unitAddr := by
  unfold State.perform; split <;> simp
@[simp] theorem perform_link_intake (s : State) (i : SiteNo) (m : Move) : (s.perform i m).link.intake = s.link.intake := by
  unfold State.perform; split <;> simp
@[simp] theorem perform_link_lastSent (s : State) (i : SiteNo) (m : Move) : (s.perform i m).link.lastSent = s.link.lastSent := by
  unfold State.perform; split <;> simp
@[simp] theorem perform_link_slotsHeld (s : State) (i : SiteNo) (m : Move) : (s.perform i m).link.slotsHeld = s.link.slotsHeld := by
  unfold State.perform; split <;> simp
@[simp] theorem perform_link_overrunsWaiting (s : State) (i : SiteNo) (m : Move) : (s.perform i m).link.overrunsWaiting = s.link.overrunsWaiting := by
  unfold State.perform; split <;> simp
@[simp] theorem perform_td_state (s : State) (i : SiteNo) (m : Move) : (s.perform i m).td.state = s.td.state := by
  unfold State.perform; split <;> simp
@[simp] theorem perform_td_number (s : State) (i : SiteNo) (m : Move) : (s.perform i m).td.number = s.td.number := by
  unfold State.perform; split <;> simp
@[simp] theorem perform_td_deferred (s : State) (i : SiteNo) (m : Move) : (s.perform i m).td.deferred = s.td.deferred := by
  unfold State.perform; split <;> simp
@[simp] theorem perform_ks_highWater (s : State) (i : SiteNo) (m : Move) : (s.perform i m).ks.highWater = s.ks.highWater := by
  unfold State.perform; split <;> simp
@[simp] theorem perform_log_slotWaiters (s : State) (i : SiteNo) (m : Move) : (s.perform i m).log.slotWaiters = s.log.slotWaiters := by
  unfold State.perform; split <;> simp
@[simp] theorem perform_log_logHigh (s : State) (i : SiteNo) (m : Move) : (s.perform i m).log.logHigh = s.log.logHigh := by
  unfold State.perform; split <;> simp

/-! ### driveCut -/

@[simp] theorem driveCut_pending (s : State) (i : SiteNo) (o : JobOutcome) : (s.driveCut i o).pending = s.pending := by
  unfold State.driveCut; split <;> simp
@[simp] theorem driveCut_pins (s : State) (i : SiteNo) (o : JobOutcome) : (s.driveCut i o).pins = s.pins := by
  unfold State.driveCut; split <;> simp
@[simp] theorem driveCut_unitNumber (s : State) (i : SiteNo) (o : JobOutcome) : (s.driveCut i o).unitNumber = s.unitNumber := by
  unfold State.driveCut; split <;> simp
@[simp] theorem driveCut_rst (s : State) (i : SiteNo) (o : JobOutcome) : (s.driveCut i o).rst = s.rst := by
  unfold State.driveCut; split <;> simp
@[simp] theorem driveCut_cfg (s : State) (i : SiteNo) (o : JobOutcome) : (s.driveCut i o).cfg = s.cfg := by
  unfold State.driveCut; split <;> simp
@[simp] theorem driveCut_link_rx (s : State) (i : SiteNo) (o : JobOutcome) : (s.driveCut i o).link.rx = s.link.rx := by
  unfold State.driveCut; split <;> simp
@[simp] theorem driveCut_link_unitAddr (s : State) (i : SiteNo) (o : JobOutcome) : (s.driveCut i o).link.unitAddr = s.link.unitAddr := by
  unfold State.driveCut; split <;> simp
@[simp] theorem driveCut_link_intake (s : State) (i : SiteNo) (o : JobOutcome) : (s.driveCut i o).link.intake = s.link.intake := by
  unfold State.driveCut; split <;> simp
@[simp] theorem driveCut_link_lastSent (s : State) (i : SiteNo) (o : JobOutcome) : (s.driveCut i o).link.lastSent = s.link.lastSent := by
  unfold State.driveCut; split <;> simp
@[simp] theorem driveCut_link_slotsHeld (s : State) (i : SiteNo) (o : JobOutcome) : (s.driveCut i o).link.slotsHeld = s.link.slotsHeld := by
  unfold State.driveCut; split <;> simp
@[simp] theorem driveCut_link_overrunsWaiting (s : State) (i : SiteNo) (o : JobOutcome) : (s.driveCut i o).link.overrunsWaiting = s.link.overrunsWaiting := by
  unfold State.driveCut; split <;> simp
@[simp] theorem driveCut_td_state (s : State) (i : SiteNo) (o : JobOutcome) : (s.driveCut i o).td.state = s.td.state := by
  unfold State.driveCut; split <;> simp
@[simp] theorem driveCut_td_number (s : State) (i : SiteNo) (o : JobOutcome) : (s.driveCut i o).td.number = s.td.number := by
  unfold State.driveCut; split <;> simp
@[simp] theorem driveCut_td_deferred (s : State) (i : SiteNo) (o : JobOutcome) : (s.driveCut i o).td.deferred = s.td.deferred := by
  unfold State.driveCut; split <;> simp
@[simp] theorem driveCut_ks_free (s : State) (i : SiteNo) (o : JobOutcome) : (s.driveCut i o).ks.free = s.ks.free := by
  unfold State.driveCut; split <;> simp
@[simp] theorem driveCut_ks_highWater (s : State) (i : SiteNo) (o : JobOutcome) : (s.driveCut i o).ks.highWater = s.ks.highWater := by
  unfold State.driveCut; split <;> simp
@[simp] theorem driveCut_ks_poolLow (s : State) (i : SiteNo) (o : JobOutcome) : (s.driveCut i o).ks.poolLow = s.ks.poolLow := by
  unfold State.driveCut; split <;> simp
@[simp] theorem driveCut_log_slotWaiters (s : State) (i : SiteNo) (o : JobOutcome) : (s.driveCut i o).log.slotWaiters = s.log.slotWaiters := by
  unfold State.driveCut; split <;> simp
@[simp] theorem driveCut_log_logHigh (s : State) (i : SiteNo) (o : JobOutcome) : (s.driveCut i o).log.logHigh = s.log.logHigh := by
  unfold State.driveCut; split <;> simp

/-! ### admitHead -/

@[simp] theorem admitHead_pending (s : State) (i : SiteNo) : (s.admitHead i).pending = s.pending := by
  unfold State.admitHead; split <;> simp
@[simp] theorem admitHead_pins (s : State) (i : SiteNo) : (s.admitHead i).pins = s.pins := by
  unfold State.admitHead; split <;> simp
@[simp] theorem admitHead_unitNumber (s : State) (i : SiteNo) : (s.admitHead i).unitNumber = s.unitNumber := by
  unfold State.admitHead; split <;> simp
@[simp] theorem admitHead_rst (s : State) (i : SiteNo) : (s.admitHead i).rst = s.rst := by
  unfold State.admitHead; split <;> simp
@[simp] theorem admitHead_cfg (s : State) (i : SiteNo) : (s.admitHead i).cfg = s.cfg := by
  unfold State.admitHead; split <;> simp
@[simp] theorem admitHead_link (s : State) (i : SiteNo) : (s.admitHead i).link = s.link := by
  unfold State.admitHead; split <;> simp
@[simp] theorem admitHead_td (s : State) (i : SiteNo) : (s.admitHead i).td = s.td := by
  unfold State.admitHead; split <;> simp
@[simp] theorem admitHead_ks (s : State) (i : SiteNo) : (s.admitHead i).ks = s.ks := by
  unfold State.admitHead; split <;> simp
@[simp] theorem admitHead_arb (s : State) (i : SiteNo) : (s.admitHead i).arb = s.arb := by
  unfold State.admitHead; split <;> simp
@[simp] theorem admitHead_mon (s : State) (i : SiteNo) : (s.admitHead i).mon = s.mon := by
  unfold State.admitHead; split <;> simp
@[simp] theorem admitHead_dies (s : State) (i : SiteNo) : (s.admitHead i).dies = s.dies := by
  unfold State.admitHead; split <;> simp
@[simp] theorem admitHead_log_records (s : State) (i : SiteNo) : (s.admitHead i).log.records = s.log.records := by
  unfold State.admitHead; split <;> simp
@[simp] theorem admitHead_log_nextSeq (s : State) (i : SiteNo) : (s.admitHead i).log.nextSeq = s.log.nextSeq := by
  unfold State.admitHead; split <;> simp
@[simp] theorem admitHead_log_slotWaiters (s : State) (i : SiteNo) : (s.admitHead i).log.slotWaiters = s.log.slotWaiters := by
  unfold State.admitHead; split <;> simp
@[simp] theorem admitHead_log_logHigh (s : State) (i : SiteNo) : (s.admitHead i).log.logHigh = s.log.logHigh := by
  unfold State.admitHead; split <;> simp

/-! ### askSlot -/

@[simp] theorem askSlot_pending (s : State) (i : SiteNo) : (s.askSlot i).pending = s.pending := by
  unfold State.askSlot; split <;> simp
@[simp] theorem askSlot_pins (s : State) (i : SiteNo) : (s.askSlot i).pins = s.pins := by
  unfold State.askSlot; split <;> simp
@[simp] theorem askSlot_unitNumber (s : State) (i : SiteNo) : (s.askSlot i).unitNumber = s.unitNumber := by
  unfold State.askSlot; split <;> simp
@[simp] theorem askSlot_rst (s : State) (i : SiteNo) : (s.askSlot i).rst = s.rst := by
  unfold State.askSlot; split <;> simp
@[simp] theorem askSlot_cfg (s : State) (i : SiteNo) : (s.askSlot i).cfg = s.cfg := by
  unfold State.askSlot; split <;> simp
@[simp] theorem askSlot_td (s : State) (i : SiteNo) : (s.askSlot i).td = s.td := by
  unfold State.askSlot; split <;> simp
@[simp] theorem askSlot_ks (s : State) (i : SiteNo) : (s.askSlot i).ks = s.ks := by
  unfold State.askSlot; split <;> simp
@[simp] theorem askSlot_arb (s : State) (i : SiteNo) : (s.askSlot i).arb = s.arb := by
  unfold State.askSlot; split <;> simp
@[simp] theorem askSlot_dies (s : State) (i : SiteNo) : (s.askSlot i).dies = s.dies := by
  unfold State.askSlot; split <;> simp
@[simp] theorem askSlot_log_records (s : State) (i : SiteNo) : (s.askSlot i).log.records = s.log.records := by
  unfold State.askSlot; split <;> simp
@[simp] theorem askSlot_log_nextSeq (s : State) (i : SiteNo) : (s.askSlot i).log.nextSeq = s.log.nextSeq := by
  unfold State.askSlot; split <;> simp
@[simp] theorem askSlot_link_rx (s : State) (i : SiteNo) : (s.askSlot i).link.rx = s.link.rx := by
  unfold State.askSlot; split <;> simp
@[simp] theorem askSlot_link_unitAddr (s : State) (i : SiteNo) : (s.askSlot i).link.unitAddr = s.link.unitAddr := by
  unfold State.askSlot; split <;> simp
@[simp] theorem askSlot_link_intake (s : State) (i : SiteNo) : (s.askSlot i).link.intake = s.link.intake := by
  unfold State.askSlot; split <;> simp
@[simp] theorem askSlot_link_lastSent (s : State) (i : SiteNo) : (s.askSlot i).link.lastSent = s.link.lastSent := by
  unfold State.askSlot; split <;> simp
@[simp] theorem askSlot_link_slotsHeld (s : State) (i : SiteNo) : (s.askSlot i).link.slotsHeld = s.link.slotsHeld := by
  unfold State.askSlot; split <;> simp
@[simp] theorem askSlot_link_overrunsWaiting (s : State) (i : SiteNo) : (s.askSlot i).link.overrunsWaiting = s.link.overrunsWaiting := by
  unfold State.askSlot; split <;> simp

/-! ### testAdmission -/

@[simp] theorem testAdmission_pending (s : State) (i : SiteNo) : (s.testAdmission i).pending = s.pending := by
  unfold State.testAdmission; split <;> simp
@[simp] theorem testAdmission_pins (s : State) (i : SiteNo) : (s.testAdmission i).pins = s.pins := by
  unfold State.testAdmission; split <;> simp
@[simp] theorem testAdmission_unitNumber (s : State) (i : SiteNo) : (s.testAdmission i).unitNumber = s.unitNumber := by
  unfold State.testAdmission; split <;> simp
@[simp] theorem testAdmission_rst (s : State) (i : SiteNo) : (s.testAdmission i).rst = s.rst := by
  unfold State.testAdmission; split <;> simp
@[simp] theorem testAdmission_cfg (s : State) (i : SiteNo) : (s.testAdmission i).cfg = s.cfg := by
  unfold State.testAdmission; split <;> simp
@[simp] theorem testAdmission_td (s : State) (i : SiteNo) : (s.testAdmission i).td = s.td := by
  unfold State.testAdmission; split <;> simp
@[simp] theorem testAdmission_ks (s : State) (i : SiteNo) : (s.testAdmission i).ks = s.ks := by
  unfold State.testAdmission; split <;> simp
@[simp] theorem testAdmission_arb (s : State) (i : SiteNo) : (s.testAdmission i).arb = s.arb := by
  unfold State.testAdmission; split <;> simp
@[simp] theorem testAdmission_dies (s : State) (i : SiteNo) : (s.testAdmission i).dies = s.dies := by
  unfold State.testAdmission; split <;> simp
@[simp] theorem testAdmission_log_records (s : State) (i : SiteNo) : (s.testAdmission i).log.records = s.log.records := by
  unfold State.testAdmission; split <;> simp
@[simp] theorem testAdmission_log_nextSeq (s : State) (i : SiteNo) : (s.testAdmission i).log.nextSeq = s.log.nextSeq := by
  unfold State.testAdmission; split <;> simp
@[simp] theorem testAdmission_link_rx (s : State) (i : SiteNo) : (s.testAdmission i).link.rx = s.link.rx := by
  unfold State.testAdmission; split <;> simp
@[simp] theorem testAdmission_link_unitAddr (s : State) (i : SiteNo) : (s.testAdmission i).link.unitAddr = s.link.unitAddr := by
  unfold State.testAdmission; split <;> simp
@[simp] theorem testAdmission_link_intake (s : State) (i : SiteNo) : (s.testAdmission i).link.intake = s.link.intake := by
  unfold State.testAdmission; split <;> simp
@[simp] theorem testAdmission_link_lastSent (s : State) (i : SiteNo) : (s.testAdmission i).link.lastSent = s.link.lastSent := by
  unfold State.testAdmission; split <;> simp
@[simp] theorem testAdmission_link_slotsHeld (s : State) (i : SiteNo) : (s.testAdmission i).link.slotsHeld = s.link.slotsHeld := by
  unfold State.testAdmission; split <;> simp
@[simp] theorem testAdmission_link_overrunsWaiting (s : State) (i : SiteNo) : (s.testAdmission i).link.overrunsWaiting = s.link.overrunsWaiting := by
  unfold State.testAdmission; split <;> simp

/-! ### liftSite -/

@[simp] theorem liftSite_pending (s : State) (i : SiteNo) : (s.liftSite i).pending = s.pending := by
  simp only [State.liftSite]; split <;> simp
@[simp] theorem liftSite_pins (s : State) (i : SiteNo) : (s.liftSite i).pins = s.pins := by
  simp only [State.liftSite]; split <;> simp
@[simp] theorem liftSite_unitNumber (s : State) (i : SiteNo) : (s.liftSite i).unitNumber = s.unitNumber := by
  simp only [State.liftSite]; split <;> simp
@[simp] theorem liftSite_rst (s : State) (i : SiteNo) : (s.liftSite i).rst = s.rst := by
  simp only [State.liftSite]; split <;> simp
@[simp] theorem liftSite_cfg (s : State) (i : SiteNo) : (s.liftSite i).cfg = s.cfg := by
  simp only [State.liftSite]; split <;> simp
@[simp] theorem liftSite_link (s : State) (i : SiteNo) : (s.liftSite i).link = s.link := by
  simp only [State.liftSite]; split <;> simp
@[simp] theorem liftSite_td (s : State) (i : SiteNo) : (s.liftSite i).td = s.td := by
  simp only [State.liftSite]; split <;> simp
@[simp] theorem liftSite_ks (s : State) (i : SiteNo) : (s.liftSite i).ks = s.ks := by
  simp only [State.liftSite]; split <;> simp
@[simp] theorem liftSite_arb (s : State) (i : SiteNo) : (s.liftSite i).arb = s.arb := by
  simp only [State.liftSite]; split <;> simp
@[simp] theorem liftSite_log (s : State) (i : SiteNo) : (s.liftSite i).log = s.log := by
  simp only [State.liftSite]; split <;> simp
@[simp] theorem liftSite_dies (s : State) (i : SiteNo) : (s.liftSite i).dies = s.dies := by
  simp only [State.liftSite]; split <;> simp

/-! ### completeLift -/

@[simp] theorem completeLift_pending (s : State) : s.completeLift.pending = s.pending := by
  simp only [State.completeLift]; split <;> simp [forSites, foldl_keeps (fun s : State => s.pending) State.liftSite (fun _ _ => by simp)]
@[simp] theorem completeLift_pins (s : State) : s.completeLift.pins = s.pins := by
  simp only [State.completeLift]; split <;> simp [forSites, foldl_keeps (fun s : State => s.pins) State.liftSite (fun _ _ => by simp)]
@[simp] theorem completeLift_unitNumber (s : State) : s.completeLift.unitNumber = s.unitNumber := by
  simp only [State.completeLift]; split <;> simp [forSites, foldl_keeps (fun s : State => s.unitNumber) State.liftSite (fun _ _ => by simp)]
@[simp] theorem completeLift_rst (s : State) : s.completeLift.rst = s.rst := by
  simp only [State.completeLift]; split <;> simp [forSites, foldl_keeps (fun s : State => s.rst) State.liftSite (fun _ _ => by simp)]
@[simp] theorem completeLift_cfg (s : State) : s.completeLift.cfg = s.cfg := by
  simp only [State.completeLift]; split <;> simp [forSites, foldl_keeps (fun s : State => s.cfg) State.liftSite (fun _ _ => by simp)]
@[simp] theorem completeLift_ks (s : State) : s.completeLift.ks = s.ks := by
  simp only [State.completeLift]; split <;> simp [forSites, foldl_keeps (fun s : State => s.ks) State.liftSite (fun _ _ => by simp)]
@[simp] theorem completeLift_arb (s : State) : s.completeLift.arb = s.arb := by
  simp only [State.completeLift]; split <;> simp [forSites, foldl_keeps (fun s : State => s.arb) State.liftSite (fun _ _ => by simp)]
@[simp] theorem completeLift_log (s : State) : s.completeLift.log = s.log := by
  simp only [State.completeLift]; split <;> simp [forSites, foldl_keeps (fun s : State => s.log) State.liftSite (fun _ _ => by simp)]
@[simp] theorem completeLift_dies (s : State) : s.completeLift.dies = s.dies := by
  simp only [State.completeLift]; split <;> simp [forSites, foldl_keeps (fun s : State => s.dies) State.liftSite (fun _ _ => by simp)]
@[simp] theorem completeLift_td_number (s : State) : s.completeLift.td.number = s.td.number := by
  simp only [State.completeLift]; split <;> simp [forSites, foldl_keeps (fun s : State => s.td) State.liftSite (fun _ _ => by simp)]
@[simp] theorem completeLift_link_rx (s : State) : s.completeLift.link.rx = s.link.rx := by
  simp only [State.completeLift]; split <;> simp [forSites, foldl_keeps (fun s : State => s.link) State.liftSite (fun _ _ => by simp)]
@[simp] theorem completeLift_link_unitAddr (s : State) : s.completeLift.link.unitAddr = s.link.unitAddr := by
  simp only [State.completeLift]; split <;> simp [forSites, foldl_keeps (fun s : State => s.link) State.liftSite (fun _ _ => by simp)]
@[simp] theorem completeLift_link_intake (s : State) : s.completeLift.link.intake = s.link.intake := by
  simp only [State.completeLift]; split <;> simp [forSites, foldl_keeps (fun s : State => s.link) State.liftSite (fun _ _ => by simp)]
@[simp] theorem completeLift_link_lastSent (s : State) : s.completeLift.link.lastSent = s.link.lastSent := by
  simp only [State.completeLift]; split <;> simp [forSites, foldl_keeps (fun s : State => s.link) State.liftSite (fun _ _ => by simp)]
@[simp] theorem completeLift_link_slotsHeld (s : State) : s.completeLift.link.slotsHeld = s.link.slotsHeld := by
  simp only [State.completeLift]; split <;> simp [forSites, foldl_keeps (fun s : State => s.link) State.liftSite (fun _ _ => by simp)]
@[simp] theorem completeLift_link_overrunsWaiting (s : State) : s.completeLift.link.overrunsWaiting = s.link.overrunsWaiting := by
  simp only [State.completeLift]; split <;> simp [forSites, foldl_keeps (fun s : State => s.link) State.liftSite (fun _ _ => by simp)]

/-! ### finishLift -/

@[simp] theorem finishLift_pending (s : State) : s.finishLift.pending = s.pending := by
  unfold State.finishLift; split <;> simp
@[simp] theorem finishLift_pins (s : State) : s.finishLift.pins = s.pins := by
  unfold State.finishLift; split <;> simp
@[simp] theorem finishLift_unitNumber (s : State) : s.finishLift.unitNumber = s.unitNumber := by
  unfold State.finishLift; split <;> simp
@[simp] theorem finishLift_rst (s : State) : s.finishLift.rst = s.rst := by
  unfold State.finishLift; split <;> simp
@[simp] theorem finishLift_cfg (s : State) : s.finishLift.cfg = s.cfg := by
  unfold State.finishLift; split <;> simp
@[simp] theorem finishLift_ks (s : State) : s.finishLift.ks = s.ks := by
  unfold State.finishLift; split <;> simp
@[simp] theorem finishLift_arb (s : State) : s.finishLift.arb = s.arb := by
  unfold State.finishLift; split <;> simp
@[simp] theorem finishLift_log (s : State) : s.finishLift.log = s.log := by
  unfold State.finishLift; split <;> simp
@[simp] theorem finishLift_dies (s : State) : s.finishLift.dies = s.dies := by
  unfold State.finishLift; split <;> simp
@[simp] theorem finishLift_td_number (s : State) : s.finishLift.td.number = s.td.number := by
  unfold State.finishLift; split <;> simp
@[simp] theorem finishLift_link_rx (s : State) : s.finishLift.link.rx = s.link.rx := by
  unfold State.finishLift; split <;> simp
@[simp] theorem finishLift_link_unitAddr (s : State) : s.finishLift.link.unitAddr = s.link.unitAddr := by
  unfold State.finishLift; split <;> simp
@[simp] theorem finishLift_link_intake (s : State) : s.finishLift.link.intake = s.link.intake := by
  unfold State.finishLift; split <;> simp
@[simp] theorem finishLift_link_lastSent (s : State) : s.finishLift.link.lastSent = s.link.lastSent := by
  unfold State.finishLift; split <;> simp
@[simp] theorem finishLift_link_slotsHeld (s : State) : s.finishLift.link.slotsHeld = s.link.slotsHeld := by
  unfold State.finishLift; split <;> simp
@[simp] theorem finishLift_link_overrunsWaiting (s : State) : s.finishLift.link.overrunsWaiting = s.link.overrunsWaiting := by
  unfold State.finishLift; split <;> simp

/-! ### noteOpenLeft -/

@[simp] theorem noteOpenLeft_pending (s : State) (i : SiteNo) (n : Nat) : (s.noteOpenLeft i n).pending = s.pending := by
  unfold State.noteOpenLeft; split <;> simp
@[simp] theorem noteOpenLeft_pins (s : State) (i : SiteNo) (n : Nat) : (s.noteOpenLeft i n).pins = s.pins := by
  unfold State.noteOpenLeft; split <;> simp
@[simp] theorem noteOpenLeft_unitNumber (s : State) (i : SiteNo) (n : Nat) : (s.noteOpenLeft i n).unitNumber = s.unitNumber := by
  unfold State.noteOpenLeft; split <;> simp
@[simp] theorem noteOpenLeft_rst (s : State) (i : SiteNo) (n : Nat) : (s.noteOpenLeft i n).rst = s.rst := by
  unfold State.noteOpenLeft; split <;> simp
@[simp] theorem noteOpenLeft_cfg (s : State) (i : SiteNo) (n : Nat) : (s.noteOpenLeft i n).cfg = s.cfg := by
  unfold State.noteOpenLeft; split <;> simp
@[simp] theorem noteOpenLeft_link (s : State) (i : SiteNo) (n : Nat) : (s.noteOpenLeft i n).link = s.link := by
  unfold State.noteOpenLeft; split <;> simp
@[simp] theorem noteOpenLeft_td (s : State) (i : SiteNo) (n : Nat) : (s.noteOpenLeft i n).td = s.td := by
  unfold State.noteOpenLeft; split <;> simp
@[simp] theorem noteOpenLeft_ks (s : State) (i : SiteNo) (n : Nat) : (s.noteOpenLeft i n).ks = s.ks := by
  unfold State.noteOpenLeft; split <;> simp
@[simp] theorem noteOpenLeft_arb (s : State) (i : SiteNo) (n : Nat) : (s.noteOpenLeft i n).arb = s.arb := by
  unfold State.noteOpenLeft; split <;> simp
@[simp] theorem noteOpenLeft_log (s : State) (i : SiteNo) (n : Nat) : (s.noteOpenLeft i n).log = s.log := by
  unfold State.noteOpenLeft; split <;> simp
@[simp] theorem noteOpenLeft_mon (s : State) (i : SiteNo) (n : Nat) : (s.noteOpenLeft i n).mon = s.mon := by
  unfold State.noteOpenLeft; split <;> simp
@[simp] theorem noteOpenLeft_dies (s : State) (i : SiteNo) (n : Nat) : (s.noteOpenLeft i n).dies = s.dies := by
  unfold State.noteOpenLeft; split <;> simp

/-! ### exchangeEnded -/

@[simp] theorem exchangeEnded_pending (s : State) (i : SiteNo) (c : DieCmd) (e : Ending) : (s.exchangeEnded i c e).pending = s.pending := by
  simp only [State.exchangeEnded]; (repeat' split) <;> simp
@[simp] theorem exchangeEnded_pins (s : State) (i : SiteNo) (c : DieCmd) (e : Ending) : (s.exchangeEnded i c e).pins = s.pins := by
  simp only [State.exchangeEnded]; (repeat' split) <;> simp
@[simp] theorem exchangeEnded_unitNumber (s : State) (i : SiteNo) (c : DieCmd) (e : Ending) : (s.exchangeEnded i c e).unitNumber = s.unitNumber := by
  simp only [State.exchangeEnded]; (repeat' split) <;> simp
@[simp] theorem exchangeEnded_rst (s : State) (i : SiteNo) (c : DieCmd) (e : Ending) : (s.exchangeEnded i c e).rst = s.rst := by
  simp only [State.exchangeEnded]; (repeat' split) <;> simp
@[simp] theorem exchangeEnded_cfg (s : State) (i : SiteNo) (c : DieCmd) (e : Ending) : (s.exchangeEnded i c e).cfg = s.cfg := by
  simp only [State.exchangeEnded]; (repeat' split) <;> simp
@[simp] theorem exchangeEnded_dies (s : State) (i : SiteNo) (c : DieCmd) (e : Ending) : (s.exchangeEnded i c e).dies = s.dies := by
  simp only [State.exchangeEnded]; (repeat' split) <;> simp
@[simp] theorem exchangeEnded_link_rx (s : State) (i : SiteNo) (c : DieCmd) (e : Ending) : (s.exchangeEnded i c e).link.rx = s.link.rx := by
  simp only [State.exchangeEnded]; (repeat' split) <;> simp
@[simp] theorem exchangeEnded_link_unitAddr (s : State) (i : SiteNo) (c : DieCmd) (e : Ending) : (s.exchangeEnded i c e).link.unitAddr = s.link.unitAddr := by
  simp only [State.exchangeEnded]; (repeat' split) <;> simp
@[simp] theorem exchangeEnded_link_intake (s : State) (i : SiteNo) (c : DieCmd) (e : Ending) : (s.exchangeEnded i c e).link.intake = s.link.intake := by
  simp only [State.exchangeEnded]; (repeat' split) <;> simp
@[simp] theorem exchangeEnded_link_lastSent (s : State) (i : SiteNo) (c : DieCmd) (e : Ending) : (s.exchangeEnded i c e).link.lastSent = s.link.lastSent := by
  simp only [State.exchangeEnded]; (repeat' split) <;> simp
@[simp] theorem exchangeEnded_link_slotsHeld (s : State) (i : SiteNo) (c : DieCmd) (e : Ending) : (s.exchangeEnded i c e).link.slotsHeld = s.link.slotsHeld := by
  simp only [State.exchangeEnded]; (repeat' split) <;> simp
@[simp] theorem exchangeEnded_link_overrunsWaiting (s : State) (i : SiteNo) (c : DieCmd) (e : Ending) : (s.exchangeEnded i c e).link.overrunsWaiting = s.link.overrunsWaiting := by
  simp only [State.exchangeEnded]; (repeat' split) <;> simp
@[simp] theorem exchangeEnded_td_state (s : State) (i : SiteNo) (c : DieCmd) (e : Ending) : (s.exchangeEnded i c e).td.state = s.td.state := by
  simp only [State.exchangeEnded]; (repeat' split) <;> simp
@[simp] theorem exchangeEnded_td_number (s : State) (i : SiteNo) (c : DieCmd) (e : Ending) : (s.exchangeEnded i c e).td.number = s.td.number := by
  simp only [State.exchangeEnded]; (repeat' split) <;> simp
@[simp] theorem exchangeEnded_td_deferred (s : State) (i : SiteNo) (c : DieCmd) (e : Ending) : (s.exchangeEnded i c e).td.deferred = s.td.deferred := by
  simp only [State.exchangeEnded]; (repeat' split) <;> simp
@[simp] theorem exchangeEnded_ks_highWater (s : State) (i : SiteNo) (c : DieCmd) (e : Ending) : (s.exchangeEnded i c e).ks.highWater = s.ks.highWater := by
  simp only [State.exchangeEnded]; (repeat' split) <;> simp
@[simp] theorem exchangeEnded_log_slotWaiters (s : State) (i : SiteNo) (c : DieCmd) (e : Ending) : (s.exchangeEnded i c e).log.slotWaiters = s.log.slotWaiters := by
  simp only [State.exchangeEnded]; (repeat' split) <;> simp
@[simp] theorem exchangeEnded_log_logHigh (s : State) (i : SiteNo) (c : DieCmd) (e : Ending) : (s.exchangeEnded i c e).log.logHigh = s.log.logHigh := by
  simp only [State.exchangeEnded]; (repeat' split) <;> simp

/-! ### attemptEnded -/

@[simp] theorem attemptEnded_pending (s : State) (i : SiteNo) (x : Exchange) (e : Ending) : (s.attemptEnded i x e).pending = s.pending := by
  simp only [State.attemptEnded]; split <;> simp
@[simp] theorem attemptEnded_pins (s : State) (i : SiteNo) (x : Exchange) (e : Ending) : (s.attemptEnded i x e).pins = s.pins := by
  simp only [State.attemptEnded]; split <;> simp
@[simp] theorem attemptEnded_unitNumber (s : State) (i : SiteNo) (x : Exchange) (e : Ending) : (s.attemptEnded i x e).unitNumber = s.unitNumber := by
  simp only [State.attemptEnded]; split <;> simp
@[simp] theorem attemptEnded_rst (s : State) (i : SiteNo) (x : Exchange) (e : Ending) : (s.attemptEnded i x e).rst = s.rst := by
  simp only [State.attemptEnded]; split <;> simp
@[simp] theorem attemptEnded_cfg (s : State) (i : SiteNo) (x : Exchange) (e : Ending) : (s.attemptEnded i x e).cfg = s.cfg := by
  simp only [State.attemptEnded]; split <;> simp
@[simp] theorem attemptEnded_link_rx (s : State) (i : SiteNo) (x : Exchange) (e : Ending) : (s.attemptEnded i x e).link.rx = s.link.rx := by
  simp only [State.attemptEnded]; split <;> simp
@[simp] theorem attemptEnded_link_unitAddr (s : State) (i : SiteNo) (x : Exchange) (e : Ending) : (s.attemptEnded i x e).link.unitAddr = s.link.unitAddr := by
  simp only [State.attemptEnded]; split <;> simp
@[simp] theorem attemptEnded_link_intake (s : State) (i : SiteNo) (x : Exchange) (e : Ending) : (s.attemptEnded i x e).link.intake = s.link.intake := by
  simp only [State.attemptEnded]; split <;> simp
@[simp] theorem attemptEnded_link_lastSent (s : State) (i : SiteNo) (x : Exchange) (e : Ending) : (s.attemptEnded i x e).link.lastSent = s.link.lastSent := by
  simp only [State.attemptEnded]; split <;> simp
@[simp] theorem attemptEnded_link_slotsHeld (s : State) (i : SiteNo) (x : Exchange) (e : Ending) : (s.attemptEnded i x e).link.slotsHeld = s.link.slotsHeld := by
  simp only [State.attemptEnded]; split <;> simp
@[simp] theorem attemptEnded_link_overrunsWaiting (s : State) (i : SiteNo) (x : Exchange) (e : Ending) : (s.attemptEnded i x e).link.overrunsWaiting = s.link.overrunsWaiting := by
  simp only [State.attemptEnded]; split <;> simp
@[simp] theorem attemptEnded_td_state (s : State) (i : SiteNo) (x : Exchange) (e : Ending) : (s.attemptEnded i x e).td.state = s.td.state := by
  simp only [State.attemptEnded]; split <;> simp
@[simp] theorem attemptEnded_td_number (s : State) (i : SiteNo) (x : Exchange) (e : Ending) : (s.attemptEnded i x e).td.number = s.td.number := by
  simp only [State.attemptEnded]; split <;> simp
@[simp] theorem attemptEnded_td_deferred (s : State) (i : SiteNo) (x : Exchange) (e : Ending) : (s.attemptEnded i x e).td.deferred = s.td.deferred := by
  simp only [State.attemptEnded]; split <;> simp
@[simp] theorem attemptEnded_ks_highWater (s : State) (i : SiteNo) (x : Exchange) (e : Ending) : (s.attemptEnded i x e).ks.highWater = s.ks.highWater := by
  simp only [State.attemptEnded]; split <;> simp
@[simp] theorem attemptEnded_log_slotWaiters (s : State) (i : SiteNo) (x : Exchange) (e : Ending) : (s.attemptEnded i x e).log.slotWaiters = s.log.slotWaiters := by
  simp only [State.attemptEnded]; split <;> simp
@[simp] theorem attemptEnded_log_logHigh (s : State) (i : SiteNo) (x : Exchange) (e : Ending) : (s.attemptEnded i x e).log.logHigh = s.log.logHigh := by
  simp only [State.attemptEnded]; split <;> simp

/-! ### seat -/

@[simp] theorem seat_pending (s : State) (i : SiteNo) : (s.seat i).pending = s.pending := by
  simp only [State.seat]; split <;> simp
@[simp] theorem seat_pins (s : State) (i : SiteNo) : (s.seat i).pins = s.pins := by
  simp only [State.seat]; split <;> simp
@[simp] theorem seat_unitNumber (s : State) (i : SiteNo) : (s.seat i).unitNumber = s.unitNumber := by
  simp only [State.seat]; split <;> simp
@[simp] theorem seat_rst (s : State) (i : SiteNo) : (s.seat i).rst = s.rst := by
  simp only [State.seat]; split <;> simp
@[simp] theorem seat_cfg (s : State) (i : SiteNo) : (s.seat i).cfg = s.cfg := by
  simp only [State.seat]; split <;> simp
@[simp] theorem seat_td (s : State) (i : SiteNo) : (s.seat i).td = s.td := by
  simp only [State.seat]; split <;> simp
@[simp] theorem seat_ks (s : State) (i : SiteNo) : (s.seat i).ks = s.ks := by
  simp only [State.seat]; split <;> simp
@[simp] theorem seat_arb (s : State) (i : SiteNo) : (s.seat i).arb = s.arb := by
  simp only [State.seat]; split <;> simp
@[simp] theorem seat_dies (s : State) (i : SiteNo) : (s.seat i).dies = s.dies := by
  simp only [State.seat]; split <;> simp
@[simp] theorem seat_log_records (s : State) (i : SiteNo) : (s.seat i).log.records = s.log.records := by
  simp only [State.seat]; split <;> simp
@[simp] theorem seat_log_nextSeq (s : State) (i : SiteNo) : (s.seat i).log.nextSeq = s.log.nextSeq := by
  simp only [State.seat]; split <;> simp
@[simp] theorem seat_link_rx (s : State) (i : SiteNo) : (s.seat i).link.rx = s.link.rx := by
  simp only [State.seat]; split <;> simp
@[simp] theorem seat_link_unitAddr (s : State) (i : SiteNo) : (s.seat i).link.unitAddr = s.link.unitAddr := by
  simp only [State.seat]; split <;> simp
@[simp] theorem seat_link_intake (s : State) (i : SiteNo) : (s.seat i).link.intake = s.link.intake := by
  simp only [State.seat]; split <;> simp
@[simp] theorem seat_link_lastSent (s : State) (i : SiteNo) : (s.seat i).link.lastSent = s.link.lastSent := by
  simp only [State.seat]; split <;> simp
@[simp] theorem seat_link_slotsHeld (s : State) (i : SiteNo) : (s.seat i).link.slotsHeld = s.link.slotsHeld := by
  simp only [State.seat]; split <;> simp
@[simp] theorem seat_link_overrunsWaiting (s : State) (i : SiteNo) : (s.seat i).link.overrunsWaiting = s.link.overrunsWaiting := by
  simp only [State.seat]; split <;> simp

/-! ### frameComplete -/

@[simp] theorem frameComplete_pending (s : State) (f : InFrame) : (s.frameComplete f).pending = s.pending := by
  unfold State.frameComplete; (repeat' split) <;> simp
@[simp] theorem frameComplete_pins (s : State) (f : InFrame) : (s.frameComplete f).pins = s.pins := by
  unfold State.frameComplete; (repeat' split) <;> simp
@[simp] theorem frameComplete_unitNumber (s : State) (f : InFrame) : (s.frameComplete f).unitNumber = s.unitNumber := by
  unfold State.frameComplete; (repeat' split) <;> simp
@[simp] theorem frameComplete_rst (s : State) (f : InFrame) : (s.frameComplete f).rst = s.rst := by
  unfold State.frameComplete; (repeat' split) <;> simp
@[simp] theorem frameComplete_cfg (s : State) (f : InFrame) : (s.frameComplete f).cfg = s.cfg := by
  unfold State.frameComplete; (repeat' split) <;> simp
@[simp] theorem frameComplete_td (s : State) (f : InFrame) : (s.frameComplete f).td = s.td := by
  unfold State.frameComplete; (repeat' split) <;> simp
@[simp] theorem frameComplete_ks (s : State) (f : InFrame) : (s.frameComplete f).ks = s.ks := by
  unfold State.frameComplete; (repeat' split) <;> simp
@[simp] theorem frameComplete_arb (s : State) (f : InFrame) : (s.frameComplete f).arb = s.arb := by
  unfold State.frameComplete; (repeat' split) <;> simp
@[simp] theorem frameComplete_log (s : State) (f : InFrame) : (s.frameComplete f).log = s.log := by
  unfold State.frameComplete; (repeat' split) <;> simp
@[simp] theorem frameComplete_mon (s : State) (f : InFrame) : (s.frameComplete f).mon = s.mon := by
  unfold State.frameComplete; (repeat' split) <;> simp
@[simp] theorem frameComplete_sites (s : State) (f : InFrame) : (s.frameComplete f).sites = s.sites := by
  unfold State.frameComplete; (repeat' split) <;> simp
@[simp] theorem frameComplete_dies (s : State) (f : InFrame) : (s.frameComplete f).dies = s.dies := by
  unfold State.frameComplete; (repeat' split) <;> simp
@[simp] theorem frameComplete_link_rx (s : State) (f : InFrame) : (s.frameComplete f).link.rx = s.link.rx := by
  unfold State.frameComplete; (repeat' split) <;> simp
@[simp] theorem frameComplete_link_unitAddr (s : State) (f : InFrame) : (s.frameComplete f).link.unitAddr = s.link.unitAddr := by
  unfold State.frameComplete; (repeat' split) <;> simp
@[simp] theorem frameComplete_link_lastSent (s : State) (f : InFrame) : (s.frameComplete f).link.lastSent = s.link.lastSent := by
  unfold State.frameComplete; (repeat' split) <;> simp

/-! ### received -/

@[simp] theorem received_pending (s : State) (r : Receiver × Option InFrame) : (s.received r).pending = s.pending := by
  unfold State.received; split <;> simp
@[simp] theorem received_pins (s : State) (r : Receiver × Option InFrame) : (s.received r).pins = s.pins := by
  unfold State.received; split <;> simp
@[simp] theorem received_unitNumber (s : State) (r : Receiver × Option InFrame) : (s.received r).unitNumber = s.unitNumber := by
  unfold State.received; split <;> simp
@[simp] theorem received_rst (s : State) (r : Receiver × Option InFrame) : (s.received r).rst = s.rst := by
  unfold State.received; split <;> simp
@[simp] theorem received_cfg (s : State) (r : Receiver × Option InFrame) : (s.received r).cfg = s.cfg := by
  unfold State.received; split <;> simp
@[simp] theorem received_td (s : State) (r : Receiver × Option InFrame) : (s.received r).td = s.td := by
  unfold State.received; split <;> simp
@[simp] theorem received_ks (s : State) (r : Receiver × Option InFrame) : (s.received r).ks = s.ks := by
  unfold State.received; split <;> simp
@[simp] theorem received_arb (s : State) (r : Receiver × Option InFrame) : (s.received r).arb = s.arb := by
  unfold State.received; split <;> simp
@[simp] theorem received_log (s : State) (r : Receiver × Option InFrame) : (s.received r).log = s.log := by
  unfold State.received; split <;> simp
@[simp] theorem received_mon (s : State) (r : Receiver × Option InFrame) : (s.received r).mon = s.mon := by
  unfold State.received; split <;> simp
@[simp] theorem received_sites (s : State) (r : Receiver × Option InFrame) : (s.received r).sites = s.sites := by
  unfold State.received; split <;> simp
@[simp] theorem received_dies (s : State) (r : Receiver × Option InFrame) : (s.received r).dies = s.dies := by
  unfold State.received; split <;> simp
@[simp] theorem received_link_unitAddr (s : State) (r : Receiver × Option InFrame) : (s.received r).link.unitAddr = s.link.unitAddr := by
  unfold State.received; split <;> simp
@[simp] theorem received_link_lastSent (s : State) (r : Receiver × Option InFrame) : (s.received r).link.lastSent = s.link.lastSent := by
  unfold State.received; split <;> simp
@[simp] theorem received_link_rx (s : State) (r : Receiver × Option InFrame) : (s.received r).link.rx = r.1 := by
  unfold State.received; split <;> simp
end Sys2Proof.Machine
end

