-- ==== Sys2Proof/Laws/Conds.lean ====
section
/-!
SUPPORT. What the operations do to the site condition states, and which operations leave the sites as they were.
-/
namespace Sys2Proof.Machine

/-- A condition state is read from the monitor alone. -/
theorem condOf_of_mon {s t : State} (h : t.mon = s.mon) (k : SiteNo) (c : SiteCond) : t.condOf k c = s.condOf k c := by
  simp [State.condOf, State.smon, h]

@[simp] theorem condOf_setKs (s : State) (x : KeyStore) (k : SiteNo) (d : SiteCond) :
    (s.setKs x).condOf k d = s.condOf k d := rfl
@[simp] theorem condOf_setLog (s : State) (x : IssueLog) (k : SiteNo) (d : SiteCond) :
    (s.setLog x).condOf k d = s.condOf k d := rfl
@[simp] theorem condOf_setArb (s : State) (x : Arbiter) (k : SiteNo) (d : SiteCond) :
    (s.setArb x).condOf k d = s.condOf k d := rfl
@[simp] theorem condOf_setTd (s : State) (x : Touchdown) (k : SiteNo) (d : SiteCond) :
    (s.setTd x).condOf k d = s.condOf k d := rfl
@[simp] theorem condOf_setSite (s : State) (i : SiteNo) (x : SiteCtl) (k : SiteNo) (d : SiteCond) :
    (s.setSite i x).condOf k d = s.condOf k d := rfl
@[simp] theorem condOf_setJob (s : State) (i : SiteNo) (x : Option Job) (k : SiteNo) (d : SiteCond) :
    (s.setJob i x).condOf k d = s.condOf k d := rfl
@[simp] theorem condOf_setExch (s : State) (i : SiteNo) (x : Option Exchange) (k : SiteNo) (d : SiteCond) :
    (s.setExch i x).condOf k d = s.condOf k d := rfl
@[simp] theorem condOf_setPort (s : State) (i : SiteNo) (x : Port) (k : SiteNo) (d : SiteCond) :
    (s.setPort i x).condOf k d = s.condOf k d := rfl
@[simp] theorem condOf_startExchange (s : State) (i : SiteNo) (x : DieCmd) (r : Bool) (k : SiteNo) (d : SiteCond) :
    (s.startExchange i x r).condOf k d = s.condOf k d := rfl
@[simp] theorem condOf_accountEnd (s : State) (i : SiteNo) (j : Job) (o : JobOutcome) (k : SiteNo) (d : SiteCond) :
    (s.accountEnd i j o).condOf k d = s.condOf k d := rfl
@[simp] theorem condOf_setSlotWaiter (s : State) (i : SiteNo) (v : Bool) (k : SiteNo) (d : SiteCond) :
    (s.setSlotWaiter i v).condOf k d = s.condOf k d := rfl
@[simp] theorem condOf_setDie (s : State) (i : SiteNo) (x : Die) (k : SiteNo) (d : SiteCond) :
    (s.setDie i x).condOf k d = s.condOf k d := rfl
@[simp] theorem condOf_deselect (s : State) (i : SiteNo) (k : SiteNo) (d : SiteCond) :
    (s.deselect i).condOf k d = s.condOf k d := rfl

theorem condOf_setSmon (s : State) (i k : SiteNo) (m : SiteMon) (c : SiteCond) (h : m.cond = (s.smon i).cond) :
    (s.setSmon i m).condOf k c = s.condOf k c := by
  by_cases e : k = i
  · subst e; simp [State.condOf, h]
  · simp [State.condOf, smon_setSmon_ne _ _ e]

@[simp] theorem condOf_setPending (s : State) (sc : Scope) (v : Bool) (k : SiteNo) (c : SiteCond) :
    (s.setPending sc v).condOf k c = s.condOf k c := by
  cases sc with
  | site i => exact condOf_setSmon _ _ _ _ _ rfl
  | global => rfl

@[simp] theorem condOf_push (s : State) (f : OutFrame) (k : SiteNo) (c : SiteCond) :
    (s.push f).condOf k c = s.condOf k c := rfl
@[simp] theorem condOf_reply (s : State) (f : InFrame) (st : Status) (p : List Byte) (k : SiteNo) (c : SiteCond) :
    (s.reply f st p).condOf k c = s.condOf k c := rfl

@[simp] theorem condOf_throttle (s : State) (sc : Scope) (k : SiteNo) (c : SiteCond) :
    (s.throttle sc).condOf k c = s.condOf k c := by unfold State.throttle; split <;> simp

@[simp] theorem condOf_latchSite (s : State) (i : SiteNo) (c : SiteCond) (k : SiteNo) (d : SiteCond) :
    (s.latchSite i c).condOf k d = s.condOf k d := by
  simp [State.latchSite, condOf_setSmon]

@[simp] theorem condOf_latchGlobal (s : State) (g : GlobalFlag) (k : SiteNo) (d : SiteCond) :
    (s.latchGlobal g).condOf k d = s.condOf k d := by
  unfold State.latchGlobal
  rw [condOf_throttle]
  rfl

@[simp] theorem condOf_setCond (s : State) (i : SiteNo) (c : SiteCond) (v : Bool) :
    (s.setCond i c v).condOf i c = v := by simp [State.condOf]

theorem condOf_setCond_ne (s : State) {i k : SiteNo} {c d : SiteCond} (v : Bool) (h : k ≠ i ∨ d ≠ c) :
    (s.setCond i c v).condOf k d = s.condOf k d := by
  by_cases e : k = i
  · subst e
    rcases h with h | h
    · exact absurd rfl h
    · simp [State.condOf, SiteBits.get_put_ne _ _ h]
  · simp [State.condOf, smon_setCond_ne _ _ _ e]

@[simp] theorem condOf_changeCond (s : State) (i : SiteNo) (c : SiteCond) (v : Bool) :
    (s.changeCond i c v).condOf i c = v := by simp [State.changeCond]

theorem condOf_changeCond_ne (s : State) {i k : SiteNo} {c d : SiteCond} (v : Bool) (h : k ≠ i ∨ d ≠ c) :
    (s.changeCond i c v).condOf k d = s.condOf k d := by
  simp [State.changeCond, condOf_setCond_ne _ _ h]

@[simp] theorem condOf_evalPoolLow (s : State) (k : SiteNo) (d : SiteCond) : s.evalPoolLow.condOf k d = s.condOf k d := by
  simp only [State.evalPoolLow, State.reportPoolLow]
  (repeat' split) <;> simp

@[simp] theorem condOf_evalPoolLowNew (s : State) (k : SiteNo) (d : SiteCond) :
    s.evalPoolLowNew.condOf k d = s.condOf k d := by
  simp only [State.evalPoolLowNew, State.reportPoolLow]
  split
  · simp
  · simp

@[simp] theorem condOf_evalLogHigh (s : State) (k : SiteNo) (d : SiteCond) : s.evalLogHigh.condOf k d = s.condOf k d := by
  simp only [State.evalLogHigh, State.reportLogHigh]
  (repeat' split) <;> simp

/-! ### Sites left as they were -/

@[simp] theorem site_throttle (s : State) (sc : Scope) (k : SiteNo) : (s.throttle sc).site k = s.site k :=
  site_of_sites (by simp) k
@[simp] theorem site_latchSite (s : State) (i : SiteNo) (c : SiteCond) (k : SiteNo) :
    (s.latchSite i c).site k = s.site k := site_of_sites (by simp) k
@[simp] theorem site_latchGlobal (s : State) (g : GlobalFlag) (k : SiteNo) : (s.latchGlobal g).site k = s.site k :=
  site_of_sites (by simp) k
@[simp] theorem site_changeCond (s : State) (i : SiteNo) (c : SiteCond) (v : Bool) (k : SiteNo) :
    (s.changeCond i c v).site k = s.site k := site_of_sites (by simp) k
@[simp] theorem site_evalPoolLow (s : State) (k : SiteNo) : s.evalPoolLow.site k = s.site k := site_of_sites (by simp) k
@[simp] theorem site_evalPoolLowNew (s : State) (k : SiteNo) : s.evalPoolLowNew.site k = s.site k :=
  site_of_sites (by simp) k
@[simp] theorem site_evalLogHigh (s : State) (k : SiteNo) : s.evalLogHigh.site k = s.site k := site_of_sites (by simp) k

/-! ### The grant test, one grant at a time (R112, R113) -/

theorem mem_allSites (i : SiteNo) : i ∈ allSites := by revert i; decide

/-- One grant: the arbiter's part and the PULSE at the site. -/
def State.grantOne (s : State) (i : SiteNo) (d : Nat) : State := (s.setArb (s.arb.grant i d)).sendPulse i

/-- The grants of a grant test, one by one. -/
def State.grantRounds : Nat → State → State
  | 0, s => s
  | n + 1, s =>
    match s.arb.candidate with
    | none => s
    | some (i, d) => if s.arb.inUse + d ≤ s.cfg.pumpCapacity then State.grantRounds n (s.grantOne i d) else s

theorem sendPulse_with_arb (s : State) (i : SiteNo) (a : Arbiter) :
    (s.setArb a).sendPulse i = (s.sendPulse i).setArb a := by
  unfold State.sendPulse
  rw [site_setArb]
  split <;> rfl

theorem foldl_sendPulse_with_arb (l : List SiteNo) (s : State) (a : Arbiter) :
    l.foldl State.sendPulse (s.setArb a) = (l.foldl State.sendPulse s).setArb a := by
  induction l generalizing s with
  | nil => rfl
  | cons i l ih => simp only [List.foldl_cons, sendPulse_with_arb, ih]

theorem grantLoop_rounds (n : Nat) (s : State) :
    (Arbiter.grantLoop s.cfg.pumpCapacity n s.arb).2.foldl State.sendPulse
      (s.setArb (Arbiter.grantLoop s.cfg.pumpCapacity n s.arb).1) = State.grantRounds n s := by
  induction n generalizing s with
  | zero => rfl
  | succ n ih =>
    unfold Arbiter.grantLoop State.grantRounds
    cases hc : s.arb.candidate with
    | none => rfl
    | some p =>
      obtain ⟨i, d⟩ := p
      dsimp only
      split
      · have h := ih (s.grantOne i d)
        have ha : (s.grantOne i d).arb = s.arb.grant i d := by simp [State.grantOne]
        have hcf : (s.grantOne i d).cfg = s.cfg := by simp [State.grantOne]
        rw [ha, hcf] at h
        rw [← h, List.foldl_cons, sendPulse_with_arb, State.grantOne, sendPulse_with_arb]
        rfl
      · rfl

/-- The grant test grants nothing under PUMP, and otherwise grants while the candidate fits. -/
theorem grantTest_rounds (s : State) : s.grantTest = if s.arb.pump then s else State.grantRounds 16 s := by
  simp only [State.grantTest, Arbiter.grantTest]
  split
  · rfl
  · exact grantLoop_rounds 16 s

/-- What every grant of a waiting request that fits keeps, the grant test keeps. -/
theorem grantTest_inv (P : State → Prop)
    (h : ∀ (s : State) (i : SiteNo) (d : Nat), P s → s.arb.waiting[i] = some d →
      s.arb.inUse + d ≤ s.cfg.pumpCapacity → P (s.grantOne i d)) (s : State) (hs : P s) : P s.grantTest := by
  have hr : ∀ n s, P s → P (State.grantRounds n s) := by
    intro n
    induction n with
    | zero => exact fun _ h => h
    | succ n ih =>
      intro s hs
      unfold State.grantRounds
      cases hc : s.arb.candidate with
      | none => exact hs
      | some p =>
        obtain ⟨i, d⟩ := p
        dsimp only
        split
        · refine ih _ (h s i d hs ?_ ‹_›)
          simp only [Arbiter.candidate] at hc
          obtain ⟨k, -, hk⟩ := List.exists_of_findSome?_eq_some hc
          simp only [Option.map_eq_some_iff, Prod.mk.injEq] at hk
          obtain ⟨d', hd, rfl, rfl⟩ := hk
          exact hd
        · exact hs
  rw [grantTest_rounds]
  split
  · exact hs
  · exact hr 16 s hs

theorem grantOne_site_ne (s : State) {i k : SiteNo} (d : Nat) (h : k ≠ i) : (s.grantOne i d).site k = s.site k := by
  unfold State.grantOne State.sendPulse
  split
  · rw [site_startExchange_ne _ _ _ h, site_setJob_ne _ _ h]; rfl
  · rfl

/-- The site that a grant reaches sends its PULSE (R90). -/
theorem grantOne_site (s : State) (i : SiteNo) (d : Nat) {j : Job} (hj : (s.site i).job = some j) :
    (s.grantOne i d).site i =
      { s.site i with
        job := some j.onGrant.1
        port := { (s.site i).port with exch := some (newAttempt s.cfg j.onGrant.2 1 false) } } := by
  unfold State.grantOne State.sendPulse
  rw [site_setArb, hj]
  simp

@[simp] theorem grantOne_arb (s : State) (i : SiteNo) (d : Nat) : (s.grantOne i d).arb = s.arb.grant i d := by
  simp [State.grantOne]

theorem grantOne_condOf (s : State) (i : SiteNo) (d : Nat) (k : SiteNo) (c : SiteCond) :
    (s.grantOne i d).condOf k c = s.condOf k c := condOf_of_mon (by simp [State.grantOne]) _ _

/-- A site that has no request waiting is left alone by a grant test. -/
theorem grantTest_other (s : State) (k : SiteNo) (h : s.arb.waiting[k] = none) :
    s.grantTest.site k = s.site k ∧ s.grantTest.arb.waiting[k] = none ∧
      s.grantTest.arb.inFlight[k] = s.arb.inFlight[k] := by
  refine grantTest_inv (fun t => t.site k = s.site k ∧ t.arb.waiting[k] = none ∧
    t.arb.inFlight[k] = s.arb.inFlight[k]) ?_ s ⟨rfl, h, rfl⟩
  rintro t i d ⟨h1, h2, h3⟩ hw -
  have hne : k ≠ i := by rintro rfl; rw [h2] at hw; cases hw
  have hv : i.val ≠ k.val := fun e => hne (Fin.ext e.symm)
  refine ⟨by rw [grantOne_site_ne _ _ hne, h1], ?_, ?_⟩
  · simpa [Arbiter.grant, hv] using h2
  · simpa [Arbiter.grant, hv] using h3

/-- A withdrawal leaves the site's own controller alone, and no request of it waits. -/
theorem withdraw_self (s : State) (i : SiteNo) :
    (s.withdraw i).site i = s.site i ∧ (s.withdraw i).arb.waiting[i] = none ∧
      (s.withdraw i).arb.inFlight[i] = s.arb.inFlight[i] := by
  unfold State.withdraw
  split
  · exact grantTest_other _ i (by simp [Arbiter.withdraw])
  · next h => exact ⟨rfl, by simpa using h, rfl⟩

/-- A release leaves the site's own controller alone, and no grant of it stands, when no request of it waits. -/
theorem release_self (s : State) (i : SiteNo) (h : s.arb.waiting[i] = none) :
    (s.release i).site i = s.site i ∧ (s.release i).arb.waiting[i] = none ∧
      (s.release i).arb.inFlight[i] = none := by
  unfold State.release
  split
  · have := grantTest_other (s.setArb (s.arb.release i)) i (by simpa [Arbiter.release] using h)
    exact ⟨this.1.trans rfl, this.2.1, this.2.2.trans (by simp [Arbiter.release])⟩
  · next h' => exact ⟨rfl, h, by simpa using h'⟩

end Sys2Proof.Machine
end

