-- ==== Sys2Proof/Laws/Dies.lean ====
section
/-!
SUPPORT. What a die does with the frames it holds, in the words of the statements (R75, R81): lemmas for the frames behind the
oldest, one for a command carried out, and those that read RELOAD's map as R16 and R10 give it.
-/
namespace Sys2Proof.Machine

/-- Frames of which the oldest is of a known code are held as they stand. -/
theorem answerUnknown_known (l : List HeldFrame) (d : Die) (h : ∀ h ∈ l.head?, h.Known) :
    Die.answerUnknown l d = { d with held := l } := by
  cases l with
  | nil => rfl
  | cons a l =>
    unfold Die.answerUnknown
    rw [if_pos (show a.frame.code ∈ dieCodes from h a rfl)]

/-- A die that has answered REFUSED still sends REFUSED after the frames of unknown codes behind it, each of which could only be
answered the same. -/
theorem answerUnknown_refused (l : List HeldFrame) (d : Die) :
    Die.answerUnknown l (d.answer true .refused) =
      ({ Die.answerUnknown l d with response := some (responseBytes 0xE2 0) } : Die) := by
  induction l generalizing d with
  | nil => rfl
  | cons a l ih =>
    unfold Die.answerUnknown
    split
    · rfl
    · cases hl : a.live
      · exact ih d
      · exact (congrArg (Die.answerUnknown l) rfl).trans ((ih (d.answer true .refused)).trans rfl)

/-- Whatever frames come, the oldest that the die is left with is of a known code. -/
theorem answerUnknown_head (l : List HeldFrame) (d : Die) : ∀ h ∈ (Die.answerUnknown l d).held.head?, h.Known := by
  induction l generalizing d with
  | nil => intro h hh; cases hh
  | cons a l ih =>
    unfold Die.answerUnknown
    split
    · next hc => intro h hh; obtain rfl := Option.mem_some.mp hh; exact hc
    · exact ih _

/-- A command at a die whose oldest frame is of its code: what the command does, the answer when the selection is still on, and
the frames behind left held. -/
theorem dieCommand_carried (s : State) (i : SiteNo) (d : Die) (f : DieFrame) (live : Bool) (more : List HeldFrame)
    (act : Die → DieFrame → Die × DieAnswer) (hd : s.die i = d) (hh : d.held = { frame := f, live := live } :: more)
    (hk : ∀ h ∈ more.head?, h.Known) :
    s.dieCommand i f.code act = .next (s.setDie i { (act d f).1 with
      held := more, response := if live then some (act d f).2.bytes else (act d f).1.response }) := by
  unfold State.dieCommand Die.carryOut
  rw [hd, hh]
  simp only [if_true]
  rw [answerUnknown_known _ _ hk]
  unfold Die.answer
  split <;> simp_all

/-- The lock-row test is that of R16. -/
theorem validLockData_eq (read : Row) : validLockData read = lockReadData read := by
  unfold validLockData lockReadData writtenMark
  cases (decodeRow read).data? with
  | none => rfl
  | some d =>
    have : d.setWidth 8 = (0xC3 : Byte) ↔ d.toNat % 256 = 0xC3 := by
      rw [← BitVec.toNat_inj]; simp
    simp only [Option.filter, this]

/-- The map entries are those of R10. -/
theorem lockEntry_eq (data : BitVec 24) (e : Fin 3) : (lockEntry data e.val).toNat = entryAt data e := by
  simp [lockEntry, entryAt, Nat.shiftRight_eq_div_pow]

end Sys2Proof.Machine
end

