-- ==== Sys2Proof/Laws/Grants.lean ====
section
/-!
SUPPORT. The grant test as the relation that R112 and R113 describe, and what every grant test leaves alone.
-/
namespace Sys2Proof.Machine

/-! ### The candidate (R112) -/

theorem allSites_ascending : allSites.Pairwise (· < ·) := by decide

/-- The first site of the sixteen at which a function has a value. -/
theorem allSites_findSome {β : Type} {g : SiteNo → Option β} {b : β} (h : allSites.findSome? g = some b) :
    ∃ e, g e = some b ∧ ∀ e', e' < e → g e' = none := by
  obtain ⟨l1, e, l2, hl, he, hn⟩ := List.findSome?_eq_some_iff.mp h
  refine ⟨e, he, fun e' hlt => ?_⟩
  have hm := mem_allSites e'
  have hp := hl ▸ allSites_ascending
  rw [hl, List.mem_append, List.mem_cons] at hm
  rcases hm with hm | rfl | hm
  · exact hn e' hm
  · exact absurd hlt (lt_irrefl _)
  · have := (List.pairwise_append.mp hp).2.1
    exact absurd (List.rel_of_pairwise_cons this hm) (not_lt.mpr hlt.le)

/-- The candidate is a waiting request with none before it in scan order. -/
theorem candidate_some {a : Arbiter} {i : SiteNo} {d : Nat} (h : a.candidate = some (i, d)) :
    a.waiting[i] = some d ∧ a.First i := by
  unfold Arbiter.candidate at h
  rw [List.findSome?_map] at h
  obtain ⟨e, he, hn⟩ := allSites_findSome h
  simp only [Function.comp_apply, Option.map_eq_some_iff, Prod.mk.injEq] at he
  obtain ⟨d', hd, hi, rfl⟩ := he
  subst hi
  refine ⟨hd, fun k hk => ?_⟩
  have := hn (k - a.pointer) (by simpa using hk)
  simpa using this

/-- With no candidate nobody waits. -/
theorem candidate_none {a : Arbiter} (h : a.candidate = none) (i : SiteNo) : a.waiting[i] = none := by
  unfold Arbiter.candidate at h
  rw [List.findSome?_map, List.findSome?_eq_none_iff] at h
  have := h (i - a.pointer) (mem_allSites _)
  simpa using this

/-! ### The grant test is the relation -/

theorem granted_eq (s : State) (i : SiteNo) (d : Nat) : s.granted i d = s.grantOne i d := by
  simp only [State.granted, State.grantOne, State.sendPulse, site_setArb]
  cases (s.site i).job with
  | none => rfl
  | some j =>
    simp [State.siteWith, State.setJob, State.startExchange, State.setExch, State.setPort, State.setSite, State.setArb,
      State.site, Job.onGrant, Exchange.fresh, newAttempt, Arbiter.grant]

/-- How many requests wait. -/
def waitingNow (s : State) : Nat := allSites.countP (fun i => (s.arb.waiting[i]).isSome)

theorem countP_lt_of {l : List SiteNo} {p q : SiteNo → Bool} (h : ∀ x, q x = true → p x = true) {a : SiteNo} (ha : a ∈ l)
    (hp : p a = true) (hq : q a = false) : l.countP q < l.countP p := by
  induction l with
  | nil => cases ha
  | cons b l ih =>
    have hle : l.countP q ≤ l.countP p := List.countP_mono_left (fun x _ => h x)
    rcases List.mem_cons.mp ha with rfl | hm
    · rw [List.countP_cons, List.countP_cons, if_pos hp, if_neg (by simp [hq])]; omega
    · have := ih hm
      rw [List.countP_cons, List.countP_cons]
      by_cases hb : q b = true
      · rw [if_pos hb, if_pos (h b hb)]; omega
      · rw [if_neg hb]; omega

theorem grantRounds_grants (n : Nat) (s : State) (hp : s.arb.pump = false) (hn : waitingNow s ≤ n) :
    s.Grants (State.grantRounds n s) := by
  induction n generalizing s with
  | zero =>
    refine .ends s (.inr fun i d hd => ?_)
    have h0 : allSites.countP (fun i => (s.arb.waiting[i]).isSome) = 0 := by simpa [waitingNow] using hn
    have := List.countP_eq_zero.mp h0 i (mem_allSites i)
    simp [hd] at this
  | succ n ih =>
    unfold State.grantRounds
    cases hc : s.arb.candidate with
    | none =>
      refine .ends s (.inr fun i d hd => ?_)
      rw [candidate_none hc i] at hd; cases hd
    | some p =>
      obtain ⟨i, d⟩ := p
      obtain ⟨hw, hf⟩ := candidate_some hc
      dsimp only
      split
      · next hfit =>
        refine .grants s _ i d hp hw hf hfit ?_
        rw [granted_eq]
        refine ih _ (by simp [Arbiter.grant, hp]) ?_
        have : waitingNow (s.grantOne i d) < waitingNow s := by
          refine countP_lt_of (fun x hx => ?_) (a := i) (mem_allSites i) (by simp [hw]) (by simp [Arbiter.grant])
          by_cases hv : i.val = x.val
          · simp [Arbiter.grant, hv] at hx
          · simpa [Arbiter.grant, hv] using hx
        omega
      · next hfit =>
        refine .ends s (.inr fun k d' hd' hk => ?_)
        rcases lt_trichotomy (k - s.arb.pointer).val (i - s.arb.pointer).val with hlt | heq | hgt
        · rw [hf k hlt] at hd'; cases hd'
        · have : k = i := sub_left_injective (Fin.ext heq)
          subst this
          rw [hw] at hd'; cases hd'
          omega
        · rw [hk i hgt] at hw; cases hw

/-- The grant test does what R112 and R113 say. -/
theorem grantTest_grants (s : State) : s.Grants s.grantTest := by
  rw [grantTest_rounds]
  split
  · exact .ends s (.inl (by assumption))
  · next hp =>
    refine grantRounds_grants 16 s (by simpa using hp) ?_
    exact List.countP_le_length.trans (by decide)

/-! ### What grants leave alone -/

/-- What holds of a state and is kept by one grant holds after all. -/
theorem State.Grants.keeps {s t : State} (h : s.Grants t) (P : State → Prop)
    (one : ∀ s i d, P s → s.arb.waiting[i] = some d → P (s.granted i d)) (hs : P s) : P t := by
  induction h with
  | ends s _ => exact hs
  | grants s t i d _ w _ _ _ ih => exact ih (one s i d hs w)

theorem State.Grants.frame {s t : State} (h : s.Grants t) : t = { s with arb := t.arb, sites := t.sites } :=
  h.keeps (fun t => t = { s with arb := t.arb, sites := t.sites })
    (fun u i d hu _ => by rw [hu]; rfl) rfl

theorem State.Grants.supply {s t : State} (h : s.Grants t) :
    t.arb.pump = s.arb.pump ∧ t.arb.timeoutInForce = s.arb.timeoutInForce ∧ t.arb.holdTimer = s.arb.holdTimer :=
  h.keeps (fun t => t.arb.pump = s.arb.pump ∧ t.arb.timeoutInForce = s.arb.timeoutInForce ∧
    t.arb.holdTimer = s.arb.holdTimer) (fun _ _ _ hu _ => hu) ⟨rfl, rfl, rfl⟩

theorem granted_site_ne (s : State) {i k : SiteNo} (d : Nat) (h : k ≠ i) : (s.granted i d).site k = s.site k := by
  rw [granted_eq]; exact grantOne_site_ne _ _ h

/-- A site with no request waiting is left alone. -/
theorem State.Grants.other {s t : State} (h : s.Grants t) (k : SiteNo) (hk : s.arb.waiting[k] = none) :
    t.site k = s.site k ∧ t.arb.waiting[k] = none ∧ t.arb.inFlight[k] = s.arb.inFlight[k] := by
  refine h.keeps (fun t => t.site k = s.site k ∧ t.arb.waiting[k] = none ∧ t.arb.inFlight[k] = s.arb.inFlight[k]) ?_
    ⟨rfl, hk, rfl⟩
  rintro u i d ⟨h1, h2, h3⟩ hw
  have hne : k ≠ i := by rintro rfl; rw [h2] at hw; cases hw
  have hv : i.val ≠ k.val := fun e => hne (Fin.ext e.symm)
  exact ⟨(granted_site_ne u d hne).trans h1, by simpa [State.granted, hv] using h2, by simpa [State.granted, hv] using h3⟩

/-- The grants are the same whatever stands at a site that has no request waiting. -/
theorem State.Grants.setSite {s t : State} (h : s.Grants t) (k : SiteNo) (hk : s.arb.waiting[k] = none) (v : SiteCtl) :
    (s.setSite k v).Grants (t.setSite k v) := by
  induction h with
  | ends s he => exact .ends _ he
  | grants s t i d hp hw hf hfit _ ih =>
    have hne : k ≠ i := by rintro rfl; rw [hk] at hw; cases hw
    have hv : i.val ≠ k.val := fun e => hne (Fin.ext e.symm)
    have hv' : k.val ≠ i.val := fun e => hv e.symm
    have hcomm : (s.setSite k v).granted i d = (s.granted i d).setSite k v := by
      have hs : (s.setSite k v).site i = s.site i := by simp [State.site, State.setSite, hv']
      simp only [State.granted, hs]
      cases (s.site i).job with
      | none => rfl
      | some j =>
        simp only [State.siteWith, hs]
        simp [State.setSite, Vector.set_comm _ _ hv']
    refine .grants _ _ i d hp hw hf hfit ?_
    rw [hcomm]
    exact ih (by simpa [State.granted, hv] using hk)

/-- The grants do not read or change the link, the dies, the Key Store, the log or the monitor. -/
theorem State.Grants.beside {s t : State} (h : s.Grants t) (l : Link) (dies : Vector Die 16) (m : Monitor) (td : Touchdown) :
    { s with link := l, dies := dies, mon := m, td := td }.Grants { t with link := l, dies := dies, mon := m, td := td } := by
  induction h with
  | ends s he => exact .ends _ he
  | grants s t i d hp hw hf hfit _ ih =>
    refine .grants _ _ i d hp hw hf hfit ?_
    have : State.granted { s with link := l, dies := dies, mon := m, td := td } i d =
        { s.granted i d with link := l, dies := dies, mon := m, td := td } := by
      simp only [State.granted, State.site]
      cases s.sites[i].job <;> rfl
    rw [this]
    exact ih

end Sys2Proof.Machine
end

