-- ==== Sys2Proof/Laws/Jobs.lean ====
section
/-!
SUPPORT. What a move of a job can be: how the act it asks for goes with the stage, phase and timers of the new job context.
-/
namespace Sys2Proof.Machine

/-- A move of a job that is past its bind point: the act goes with the stage. -/
structure RunningMove (m : Move) : Prop where
  late : m.1.phase.early = false
  settle : m.1.engine.settleTimer.isSome = true → m.1.engine.stage = .settling
  send : ∀ c r, m.2 = .send c r → m.1.engine.stage.idleWait = false
  noPulse : ∀ c r, m.2 = .send c r → c.isPulse = false
  request : ∀ d, m.2 = .request d →
    m.1.engine.stage = .grantWait ∧ d = cellCount (m.1.engine.chunks.headD 0)
  noBind : m.2 ≠ .bind

theorem runningMove_finish {j : Job} {o : JobOutcome} (hp : j.phase.early = false)
    (hs : j.engine.settleTimer.isSome = true → j.engine.stage = .settling) : RunningMove (j, .finish o) :=
  ⟨hp, hs, by simp, by simp, by simp, by simp⟩

theorem runningMove_wait {j : Job} (hp : j.phase.early = false)
    (hs : j.engine.settleTimer.isSome = true → j.engine.stage = .settling) : RunningMove (j, .wait) :=
  ⟨hp, hs, by simp, by simp, by simp, by simp⟩

theorem runningMove_send {j : Job} {c : DieCmd} {r : Bool} (hp : j.phase.early = false)
    (ht : j.engine.settleTimer = none) (hs : j.engine.stage.idleWait = false) (hc : c.isPulse = false := by rfl) :
    RunningMove (j, .send c r) :=
  ⟨hp, by simp [ht], by simp [hs], by simp only [Act.send.injEq]; rintro _ _ ⟨rfl, rfl⟩; exact hc, by simp, by simp⟩

theorem startAttempt_running {j : Job} (p : Purpose) (r : RegionRow) (w : Row) (hp : j.phase.early = false) :
    RunningMove (j.startAttempt p r w) := by
  unfold Job.startAttempt
  dsimp only
  split <;> exact runningMove_send hp rfl rfl

theorem trySpares_running (k : Fin 16) (w : Row) (l : List (Fin 3)) (j : Job) (hp : j.phase.early = false)
    (hs : j.engine.settleTimer.isSome = true → j.engine.stage = .settling) :
    RunningMove (Job.trySpares k w l j) := by
  induction l generalizing j with
  | nil => exact runningMove_finish hp hs
  | cons a l ih =>
    unfold Job.trySpares
    split
    · exact ih j hp hs
    · split
      · exact ih _ hp (by simp [Job.setEntry, Job.failAt, RowEngine.idle])
      · exact startAttempt_running _ _ _ hp

theorem startImageRow_running {j : Job} (k : Fin 16) (hp : j.phase.early = false) : RunningMove (j.startImageRow k) := by
  unfold Job.startImageRow
  dsimp only
  split
  · exact trySpares_running _ _ _ _ hp (by simp [Job.failAt, RowEngine.idle])
  · exact startAttempt_running _ _ _ hp

theorem startLock_running (j : Job) : RunningMove j.startLock := by
  unfold Job.startLock
  dsimp only
  split
  · exact runningMove_finish rfl (by simp [Job.failAt, RowEngine.idle])
  · exact startAttempt_running _ _ _ rfl

theorem placed_running {j : Job} (k : Fin 16) (hp : j.phase.early = false) : RunningMove (j.placed k) := by
  unfold Job.placed
  split
  · exact startImageRow_running _ hp
  · exact startLock_running _

theorem noteResult_phase (j : Job) (r : RowResult) : (j.noteResult r).phase = j.phase := by cases r <;> rfl

theorem noteResult_engine (j : Job) (r : RowResult) : (j.noteResult r).engine = RowEngine.idle := by cases r <;> rfl

theorem attemptDone_running {j : Job} (r : RowResult) (hp : j.phase.early = false) : RunningMove (j.attemptDone r) := by
  have hn : (j.noteResult r).phase.early = false := by rw [noteResult_phase]; exact hp
  have he : (j.noteResult r).engine.settleTimer = none := by rw [noteResult_engine]; rfl
  unfold Job.attemptDone
  dsimp only
  split
  · exact trySpares_running _ _ _ _ hn (by simp [he])
  · exact placed_running _ hn
  · exact trySpares_running _ _ _ _ hn (by simp [Job.setEntry, he])
  · exact placed_running _ hn
  · exact runningMove_finish hn (by simp [he])
  · exact runningMove_send rfl he (by simp [noteResult_engine, RowEngine.idle, Stage.idleWait])

theorem closeRow_running {j : Job} (a : AfterClose) (hp : j.phase.early = false) (ht : j.engine.settleTimer = none) :
    RunningMove (j.closeRow a) := runningMove_send hp ht rfl

theorem senseHigh_running {j : Job} (hp : j.phase.early = false) (ht : j.engine.settleTimer = none) :
    RunningMove j.senseHigh := runningMove_send hp ht rfl

theorem goVerify_running {j : Job} (hp : j.phase.early = false) (ht : j.engine.settleTimer = none) :
    RunningMove j.goVerify := by
  unfold Job.goVerify
  split
  · exact closeRow_running _ hp ht
  · exact runningMove_send hp ht rfl

theorem openAgain_running {j : Job} (hp : j.phase.early = false) (ht : j.engine.settleTimer = none) :
    RunningMove j.openAgain := runningMove_send hp ht rfl

theorem reopen_running {j : Job} (hp : j.phase.early = false) (ht : j.engine.settleTimer = none) :
    RunningMove j.reopen := by
  unfold Job.reopen
  split
  · exact goVerify_running hp ht
  · split
    · exact runningMove_wait hp (by simp [ht])
    · exact openAgain_running hp ht

theorem guardChunk_running (cfg : Params) {j : Job} (hp : j.phase.early = false) (ht : j.engine.settleTimer = none) :
    RunningMove (Job.guardChunk cfg j) := by
  unfold Job.guardChunk
  split
  · exact reopen_running hp ht
  · split
    · exact closeRow_running _ hp ht
    · split
      · exact ⟨hp, by simp [ht], by simp, by simp, by simp [eq_comm], by simp⟩
      · exact closeRow_running _ hp ht

theorem onSettle_running (cfg : Params) {j : Job} (hp : j.phase.early = false) : RunningMove (Job.onSettle cfg j) := by
  unfold Job.onSettle
  dsimp only
  split
  · split <;> exact guardChunk_running cfg hp rfl
  · exact runningMove_wait hp (by simp)

theorem pulseEnded_running (cfg : Params) {j : Job} (hp : j.phase.early = false) (ht : j.engine.settleTimer = none) :
    RunningMove (Job.pulseEnded cfg j) := by
  unfold Job.pulseEnded
  split
  · split
    · exact closeRow_running _ hp ht
    · exact senseHigh_running hp ht
  · exact guardChunk_running cfg hp ht

theorem highSensed_running (cfg : Params) {j : Job} (read : Row) (hp : j.phase.early = false)
    (ht : j.engine.settleTimer = none) : RunningMove (Job.highSensed cfg j read) := by
  unfold Job.highSensed
  dsimp only
  split
  · exact goVerify_running hp ht
  · split
    · exact goVerify_running hp ht
    · exact guardChunk_running cfg hp ht

theorem rowClosed_running {j : Job} (hp : j.phase.early = false) (ht : j.engine.settleTimer = none) :
    RunningMove j.rowClosed := by
  unfold Job.rowClosed
  dsimp only
  split
  · exact reopen_running hp ht
  · exact senseHigh_running hp ht
  · exact goVerify_running hp ht

theorem attemptExchange_running (cfg : Params) {j : Job} (data : BitVec 32) (hp : j.phase.early = false)
    (ht : j.engine.settleTimer = none) : RunningMove (Job.attemptExchange cfg j data) := by
  unfold Job.attemptExchange
  split
  · exact ⟨hp, by simp [Job.rowOpened], by simp [Job.rowOpened], by simp [Job.rowOpened], by simp [Job.rowOpened],
      by simp [Job.rowOpened]⟩
  · exact pulseEnded_running cfg hp ht
  · exact highSensed_running cfg _ hp ht
  · exact rowClosed_running hp ht
  · exact attemptDone_running _ hp
  all_goals exact runningMove_wait hp (by simp [ht])

theorem endingNext_running {j : Job} (hp : j.phase.early = false) (ht : j.engine.settleTimer = none) :
    RunningMove j.endingNext := by
  unfold Job.endingNext
  split
  · exact runningMove_send hp ht rfl
  · exact runningMove_finish hp (by simp [ht])

theorem onKey_running (n : BitVec 32) (j : Job) (k : Key) : RunningMove (j.onKey n k) := startImageRow_running _ rfl

theorem onAbort_running (j : Job) (p : PendingEnd) (x : Bool) : RunningMove (j.onAbort p x) := by
  unfold Job.onAbort
  dsimp only
  split
  · exact runningMove_wait rfl (by simp)
  · exact endingNext_running rfl rfl

/-- The stage that an orderly abort leaves while an exchange runs on is the stage it met. -/
theorem onAbort_stage (j : Job) (p : PendingEnd) : (j.onAbort p true).1.engine.stage = j.engine.stage := rfl

theorem onRest_running {j : Job} (hp : j.phase.early = false) (ht : j.engine.settleTimer = none) :
    RunningMove j.onRest := by
  unfold Job.onRest
  split
  · exact openAgain_running hp ht
  · exact runningMove_wait hp (by simp [ht])

theorem onOpenExpiry_running {j : Job} {m : Move} (h : j.onOpenExpiry = some m) (hp : j.phase.early = false)
    (ht : j.engine.settleTimer = none) : RunningMove m := by
  unfold Job.onOpenExpiry at h
  split at h
  · cases h; exact closeRow_running _ hp ht
  · cases h; exact runningMove_wait hp (by simp [ht])
  · cases h; exact runningMove_wait hp (by simp [ht])
  all_goals cases h

/-- A move of a job before its bind point. -/
structure EarlyMove (m : Move) : Prop where
  engine : m.1.engine = RowEngine.idle
  phase : m.1.phase = .bringup ∨ m.1.phase = .blankCheck
  noPulse : ∀ c r, m.2 = .send c r → c.isPulse = false
  noRequest : ∀ d, m.2 ≠ .request d

theorem bringupDone_early (cfg : Params) {j : Job} (he : j.engine = RowEngine.idle) (hp : j.phase = .bringup) :
    EarlyMove (j.bringupDone cfg) := by
  unfold Job.bringupDone
  split
  · refine ⟨he, .inl hp, ?_, by simp⟩
    simp only [Act.send.injEq]
    rintro _ _ ⟨rfl, rfl⟩
    unfold bringupCmd
    split <;> rfl
  · exact ⟨he, .inr rfl, by simp [DieCmd.isPulse], by simp⟩

theorem blankRowRead_early {j : Job} (cells : Row) (he : j.engine = RowEngine.idle) (hp : j.phase = .blankCheck) :
    EarlyMove (j.blankRowRead cells) := by
  unfold Job.blankRowRead
  dsimp only
  split
  · exact ⟨he, .inr hp, by simp [DieCmd.isPulse], by simp⟩
  · split
    · exact ⟨he, .inr hp, by simp [DieCmd.isPulse], by simp⟩
    · split <;> exact ⟨he, .inr hp, by simp [DieCmd.isPulse], by simp⟩

theorem shadowDone_running {j : Job} (data : BitVec 32) (hp : j.phase.early = false)
    (ht : j.engine.settleTimer = none) (hi : j.engine.stage.idleWait = false) : RunningMove (j.shadowDone data) := by
  unfold Job.shadowDone
  split
  · split
    · exact runningMove_send hp ht hi
    · exact runningMove_finish hp (by simp [ht])
  · split
    · split
      · exact runningMove_send hp ht hi
      · exact runningMove_finish hp (by simp [ht])
    · exact runningMove_finish hp (by simp [ht])

/-- The move at the end of an exchange, by phase: a job past its bind point makes a running move, a job before it an early
one. -/
theorem onExchange_move (cfg : Params) (cmd : DieCmd) (j : Job) (e : Ending) (hk : j.phase ≠ .keyWait)
    (ht : j.engine.settleTimer = none) (hi : j.engine.stage.idleWait = false)
    (he : j.phase.early = true → j.engine = RowEngine.idle ∧ cmd.isPulse = false) :
    (j.phase.early = false → RunningMove (Job.onExchange cfg cmd j e)) ∧
    (j.phase.early = true → EarlyMove (Job.onExchange cfg cmd j e)) := by
  constructor
  · intro hp
    unfold Job.onExchange
    split
    · exact endingNext_running hp ht
    · cases e with
      | done data =>
        simp only [Job.exchangeDone]
        split
        · next h => rw [h] at hp; cases hp
        · next h => rw [h] at hp; cases hp
        · exact attemptExchange_running cfg _ hp ht
        · exact attemptExchange_running cfg _ hp ht
        · exact shadowDone_running _ hp ht hi
        · next h => exact absurd h hk
        · exact runningMove_wait hp (by simp [ht])
      | refused => exact runningMove_finish hp (by simp [ht])
      | lost =>
        dsimp only
        split
        · exact pulseEnded_running cfg hp ht
        · exact runningMove_finish hp (by simp [ht])
  · intro hp
    obtain ⟨hen, hnp⟩ := he hp
    have hph : j.phase = .bringup ∨ j.phase = .blankCheck := by
      revert hp hk; cases j.phase <;> simp [Phase.early]
    unfold Job.onExchange
    split
    · next h => rw [h] at hp; cases hp
    · cases e with
      | done data =>
        rcases hph with h | h
        · simp only [Job.exchangeDone, h]; exact bringupDone_early cfg hen h
        · simp only [Job.exchangeDone, h]; exact blankRowRead_early _ hen h
      | refused => exact ⟨hen, hph, by simp, by simp⟩
      | lost => simp only [hnp]; exact ⟨hen, hph, by simp, by simp⟩

end Sys2Proof.Machine
end

