-- ==== Sys2Proof/Laws/SiteInv.lean ====
section
/-!
SUPPORT. The shared operations keep what ties sites, ports, Supply Arbiter and Key Store to each other (State.SiteInv).
-/
namespace Sys2Proof.Machine

/-! ### What the invariant depends on -/

theorem State.JobOk.congr {s t : State} {i : SiteNo} {j : Job} (h : s.JobOk i j) (htd : t.td.state = s.td.state)
    (hsite : t.site i = s.site i) (hc : ∀ c, t.condOf i c = s.condOf i c)
    (hw : t.arb.waiting[i] = s.arb.waiting[i]) (hf : t.arb.inFlight[i] = s.arb.inFlight[i])
    (hb : t.ks.bound[i] = s.ks.bound[i]) (hl : i ∈ t.ks.waitList ↔ i ∈ s.ks.waitList) : t.JobOk i j := by
  obtain ⟨h1, h2, h3, h4, h5, h6, h7, h8, h9, h10, h11, h12, h13, h14⟩ := h
  constructor <;> simp_all

theorem State.SiteOk.congr {s t : State} {i : SiteNo} (h : s.SiteOk i) (htd : t.td.state = s.td.state)
    (hsite : t.site i = s.site i) (hc : ∀ c, t.condOf i c = s.condOf i c)
    (hw : t.arb.waiting[i] = s.arb.waiting[i]) (hf : t.arb.inFlight[i] = s.arb.inFlight[i])
    (hb : t.ks.bound[i] = s.ks.bound[i]) (hl : i ∈ t.ks.waitList ↔ i ∈ s.ks.waitList) : t.SiteOk i where
  job j hj := (h.job j (by rw [← hsite]; exact hj)).congr htd hsite hc hw hf hb hl
  noJob hj := by
    obtain ⟨h1, h2, h3, h4, h5⟩ := h.noJob (by rw [← hsite]; exact hj)
    exact ⟨by rw [hsite]; exact h1, by rw [hw]; exact h2, by rw [hf]; exact h3, by rw [hb]; exact h4,
      by rw [hl]; exact h5⟩
  contact hp := by rw [hc]; exact h.contact (by rw [← hsite]; exact hp)
  link hl' := by rw [hsite, htd]; exact h.link (by rw [← hc]; exact hl')

/-- What holds beside one site. -/
structure State.RestInv (s : State) (i : SiteNo) : Prop where
  sites : ∀ k, k ≠ i → s.SiteOk k
  units : s.arb.inUse = s.arb.unitsInFlight
  capacity : s.arb.inUse ≤ s.cfg.pumpCapacity
  once : s.ks.waitList.Nodup
  waitEmpty : s.ks.waitList ≠ [] → s.ks.free = []

/-- A site with an active job and nothing in progress, waiting or granted. -/
structure State.FreeSite (s : State) (i : SiteNo) : Prop where
  job : (s.site i).job.isSome = true
  touchdown : s.td.state ≠ .clear
  seated : (s.site i).posture = .seated
  driven : (s.site i).port.driven = true
  used : (s.site i).used = true
  noContact : s.condOf i .contact = false
  noLink : s.condOf i .link = false
  noDieSupply : s.condOf i .dieSupply = false
  exchange : (s.site i).port.exch = none
  waiting : s.arb.waiting[i] = none
  inFlight : s.arb.inFlight[i] = none
  inList : i ∉ s.ks.waitList

theorem State.SiteInv.rest {s : State} (h : s.SiteInv) (i : SiteNo) : s.RestInv i :=
  ⟨fun k _ => h.sites k, h.units, h.capacity, h.once, h.waitEmpty⟩

theorem State.SiteInv.free {s : State} (h : s.SiteInv) {i : SiteNo} {j : Job} (hj : (s.site i).job = some j)
    (hx : (s.site i).port.exch = none) (hw : s.arb.waiting[i] = none) (hf : s.arb.inFlight[i] = none)
    (hk : j.phase ≠ .keyWait) : s.FreeSite i := by
  have o := (h.sites i).job j hj
  exact ⟨by simp [hj], o.touchdown, o.seated, o.driven, o.used, (h.sites i).contact o.seated, o.noLink, o.noDieSupply,
    hx, hw, hf, fun hl => hk (o.inList hl)⟩

theorem State.RestInv.congr {s t : State} {i : SiteNo} (h : s.RestInv i) (htd : t.td.state = s.td.state)
    (hsite : ∀ k, k ≠ i → t.site k = s.site k) (hc : ∀ k c, k ≠ i → t.condOf k c = s.condOf k c)
    (ha : t.arb = s.arb) (hcap : t.cfg.pumpCapacity = s.cfg.pumpCapacity)
    (hb : ∀ k, k ≠ i → t.ks.bound[k] = s.ks.bound[k]) (hl : ∀ k, k ≠ i → (k ∈ t.ks.waitList ↔ k ∈ s.ks.waitList))
    (ho : t.ks.waitList.Nodup) (he : t.ks.waitList ≠ [] → t.ks.free = []) : t.RestInv i where
  sites k hk := (h.sites k hk).congr htd (hsite k hk) (fun c => hc k c hk) (by rw [ha]) (by rw [ha]) (hb k hk) (hl k hk)
  units := by rw [ha]; exact h.units
  capacity := by rw [ha, hcap]; exact h.capacity
  once := ho
  waitEmpty := he

theorem State.SiteInv.congr {s t : State} (h : s.SiteInv) (htd : t.td.state = s.td.state) (hsites : t.sites = s.sites)
    (hc : ∀ k c, t.condOf k c = s.condOf k c) (ha : t.arb = s.arb) (hcap : t.cfg.pumpCapacity = s.cfg.pumpCapacity)
    (hb : t.ks.bound = s.ks.bound) (hl : t.ks.waitList = s.ks.waitList) (hf : t.ks.free = s.ks.free) : t.SiteInv where
  sites k := (h.sites k).congr htd (site_of_sites hsites k) (hc k) (by rw [ha]) (by rw [ha]) (by rw [hb]) (by rw [hl])
  units := by rw [ha]; exact h.units
  capacity := by rw [ha, hcap]; exact h.capacity
  once := by rw [hl]; exact h.once
  waitEmpty := by rw [hl, hf]; exact h.waitEmpty

/-- An active job with nothing in progress, whose timers and phase go together, makes the whole invariant. -/
theorem State.RestInv.withJob {s : State} {i : SiteNo} {j : Job} (h : s.RestInv i) (f : s.FreeSite i)
    (hj : (s.site i).job = some j)
    (hs : j.engine.settleTimer.isSome = true → j.engine.stage = .settling)
    (he : j.phase.early = true → j.engine = RowEngine.idle ∧ s.ks.bound[i] = none) (hk : j.phase ≠ .keyWait) :
    s.SiteInv := by
  refine ⟨fun k => ?_, h.units, h.capacity, h.once, h.waitEmpty⟩
  by_cases hk' : k = i
  · subst hk'
    refine ⟨fun j' hj' => ?_, fun hn => (by rw [hj] at hn; cases hn), fun _ => f.noContact,
      fun hl => (by rw [f.noLink] at hl; cases hl)⟩
    rw [hj] at hj'
    cases hj'
    exact ⟨f.touchdown, f.seated, f.driven, f.used, f.noLink, f.noDieSupply, by simp [f.exchange], hs,
      by simp [f.waiting], by simp [f.inFlight], by simp [f.exchange], fun e => ⟨(he e).1, (he e).2, f.inFlight⟩,
      fun e => absurd e hk, fun e => absurd e f.inList⟩
  · exact h.sites k hk'

theorem State.RestInv.setJob {s : State} {i : SiteNo} (h : s.RestInv i) (j : Option Job) : (s.setJob i j).RestInv i :=
  h.congr rfl (fun _ hk => site_setJob_ne _ _ hk) (fun _ _ _ => rfl) rfl rfl (fun _ _ => rfl) (fun _ _ => Iff.rfl)
    h.once h.waitEmpty

theorem State.FreeSite.setJob {s : State} {i : SiteNo} (f : s.FreeSite i) (j : Job) : (s.setJob i (some j)).FreeSite i :=
  ⟨by simp, f.touchdown, by simpa using f.seated, by simpa using f.driven, by simpa using f.used, f.noContact, f.noLink,
    f.noDieSupply, by simpa using f.exchange, f.waiting, f.inFlight, f.inList⟩

/-! ### Sending a command, ending a job -/

theorem State.RestInv.send {s : State} {i : SiteNo} {j : Job} (h : s.RestInv i) (f : s.FreeSite i)
    (hj : (s.site i).job = some j) (c : DieCmd) (r : Bool) (hc : c.isPulse = false)
    (hs : j.engine.settleTimer.isSome = true → j.engine.stage = .settling)
    (hi : j.engine.stage.idleWait = false)
    (he : j.phase.early = true → j.engine = RowEngine.idle ∧ s.ks.bound[i] = none) (hk : j.phase ≠ .keyWait) :
    (s.startExchange i c r).SiteInv := by
  have hr : (s.startExchange i c r).RestInv i :=
    h.congr rfl (fun _ hk => site_startExchange_ne _ _ _ hk) (fun _ _ _ => rfl) rfl rfl (fun _ _ => rfl)
      (fun _ _ => Iff.rfl) h.once h.waitEmpty
  refine ⟨fun k => ?_, hr.units, hr.capacity, hr.once, hr.waitEmpty⟩
  by_cases hk' : k = i
  · subst hk'
    refine ⟨fun j' hj' => ?_, fun hn => (by simp [hj] at hn), fun _ => f.noContact,
      fun hl => (by have := f.noLink; simp [State.condOf, State.smon] at hl this; rw [this] at hl; cases hl)⟩
    have hjj : j' = j := by simpa [hj, eq_comm] using hj'
    subst hjj
    refine ⟨f.touchdown, by simpa using f.seated, by simpa using f.driven, by simpa using f.used, f.noLink, f.noDieSupply,
      fun _ => hi, hs, ?_, ?_, ?_, fun e => ⟨(he e).1, (he e).2, f.inFlight⟩, fun e => absurd e hk,
      fun e => absurd e f.inList⟩
    · intro d hd; have := f.waiting; simp at hd this; rw [this] at hd; cases hd
    · intro d hd; have := f.inFlight; simp at hd this; rw [this] at hd; cases hd
    · intro x hx hp; simp at hx; subst hx; simp [newAttempt, hc] at hp
  · exact hr.sites k hk'

theorem endJob_site_ne (s : State) {i k : SiteNo} (o : JobOutcome) (h : k ≠ i) : (s.endJob i o).site k = s.site k := by
  unfold State.endJob
  split
  · rfl
  · simp only [site_latchGlobal]
    rw [site_setJob_ne _ _ h]
    split <;> simp

theorem endJob_site (s : State) (i : SiteNo) (o : JobOutcome) :
    (s.endJob i o).site i = { s.site i with job := none } := by
  unfold State.endJob
  split
  · next h => cases hs : s.site i; simp_all
  · simp only [site_latchGlobal, site_setJob]
    split <;> simp

theorem endJob_ks (s : State) {i : SiteNo} (o : JobOutcome) (h : (s.site i).job.isSome = true) :
    (s.endJob i o).ks = s.ks.endJob i := by
  unfold State.endJob
  split
  · next hn => rw [hn] at h; cases h
  · simp only [latchGlobal_ks, setJob_ks]
    split <;> simp

theorem endJob_condOf_ne (s : State) {i k : SiteNo} (o : JobOutcome) {c : SiteCond} (h : k ≠ i ∨ c ≠ .link) :
    (s.endJob i o).condOf k c = s.condOf k c := by
  unfold State.endJob
  split
  · rfl
  · simp only [condOf_latchGlobal, condOf_setJob, condOf_accountEnd]
    split
    · exact condOf_changeCond_ne _ _ h
    · rfl

theorem State.RestInv.finish {s : State} {i : SiteNo} (h : s.RestInv i) (hj : (s.site i).job.isSome = true)
    (hu : (s.site i).used = true) (hco : (s.site i).posture = .seated → s.condOf i .contact = false)
    (hx : (s.site i).port.exch = none) (hw : s.arb.waiting[i] = none) (hf : s.arb.inFlight[i] = none)
    (o : JobOutcome) : (s.endJob i o).SiteInv := by
  have hks := endJob_ks s o hj
  have hr : (s.endJob i o).RestInv i := by
    refine h.congr (by simp) (fun _ hk => endJob_site_ne _ _ hk) (fun _ _ hk => endJob_condOf_ne _ _ (.inl hk))
      (by simp) (by simp) ?_ ?_ ?_ ?_
    · intro k hk
      have : i.val ≠ k.val := fun e => hk (Fin.ext e.symm)
      simp [hks, KeyStore.endJob, this]
    · intro k hk
      simp [hks, KeyStore.endJob, hk]
    · rw [hks]; exact h.once.filter _
    · intro hne
      rw [endJob_ks_free]
      refine h.waitEmpty fun e => hne ?_
      rw [hks]; simp [KeyStore.endJob, e]
  refine ⟨fun k => ?_, hr.units, hr.capacity, hr.once, hr.waitEmpty⟩
  by_cases hk' : k = i
  · subst hk'
    refine ⟨fun j' hj' => (by rw [endJob_site] at hj'; cases hj'), fun _ => ⟨?_, by simpa using hw, by simpa using hf, ?_, ?_⟩,
      ?_, fun _ => .inl ?_⟩
    · rw [endJob_site]; exact hx
    · simp [hks, KeyStore.endJob]
    · simp [hks, KeyStore.endJob]
    · rw [endJob_site, endJob_condOf_ne _ _ (.inr (by simp))]; exact hco
    · rw [endJob_site]; exact hu
  · exact hr.sites k hk'

/-! ### Units -/

theorem sum_map_set {l : List SiteNo} (hl : l.Nodup) {i : SiteNo} (hi : i ∈ l) (f : SiteNo → Nat) (x : Nat) :
    (l.map (fun k => if k = i then x else f k)).sum + f i = (l.map f).sum + x := by
  induction l with
  | nil => cases hi
  | cons a l ih =>
    obtain ⟨ha, hl'⟩ := List.nodup_cons.1 hl
    by_cases e : a = i
    · subst e
      have : l.map (fun k => if k = a then x else f k) = l.map f := by
        refine List.map_congr_left fun k hk => ?_
        have : k ≠ a := fun e => ha (e ▸ hk)
        simp [this]
      simp only [List.map_cons, List.sum_cons, this, if_true]; omega
    · have := ih hl' (by rcases List.mem_cons.1 hi with h | h; exact absurd h.symm e; exact h)
      simp only [List.map_cons, List.sum_cons, e, if_false]; omega

theorem allSites_nodup : allSites.Nodup := by decide

theorem units_set (a : Arbiter) (i : SiteNo) (v : Option Nat) (w : Vector (Option Nat) 16) (u : Nat) (n : SiteNo) :
    Arbiter.unitsInFlight { a with inFlight := a.inFlight.set i.val v i.isLt, waiting := w, inUse := u, pointer := n }
      + a.inFlight[i].getD 0 = a.unitsInFlight + v.getD 0 := by
  have h := sum_map_set allSites_nodup (mem_allSites i) (fun k => a.inFlight[k].getD 0) (v.getD 0)
  have e : allSites.map (fun k => ((a.inFlight.set i.val v i.isLt)[k]).getD 0)
      = allSites.map (fun k => if k = i then v.getD 0 else a.inFlight[k].getD 0) := by
    refine List.map_congr_left fun k _ => ?_
    by_cases e : k = i
    · subst e; simp
    · have : i.val ≠ k.val := fun e' => e (Fin.ext e'.symm)
      simp [e, this]
  unfold Arbiter.unitsInFlight
  dsimp only at h ⊢
  rw [e]
  exact h

/-! ### Grants, withdrawals, releases -/

/-- What a waiting request says of its site. -/
theorem State.SiteOk.waits {s : State} {i : SiteNo} {d : Nat} (o : s.SiteOk i) (hd : s.arb.waiting[i] = some d) :
    ∃ j, (s.site i).job = some j ∧ s.arb.inFlight[i] = none ∧ j.engine.stage = .grantWait ∧
      d = cellCount (j.engine.chunks.headD 0) ∧ j.phase.early = false := by
  cases hj : (s.site i).job with
  | none => have := (o.noJob hj).waiting; rw [hd] at this; cases this
  | some j =>
    have oj := o.job j hj
    obtain ⟨-, hf, hst, hcells⟩ := oj.waiting d hd
    refine ⟨j, rfl, hf, hst, hcells, ?_⟩
    cases he : j.phase.early with
    | false => rfl
    | true => rw [(oj.early he).1] at hst; cases hst

theorem State.SiteOk.grantOne_self {s : State} {i : SiteNo} {d : Nat} (o : s.SiteOk i)
    (hd : s.arb.waiting[i] = some d) : (s.grantOne i d).SiteOk i := by
  obtain ⟨j, hj, hf, hst, hcells, hlate⟩ := o.waits hd
  have oj := o.job j hj
  have hsite := grantOne_site s i d hj
  refine ⟨fun j' hj' => ?_, fun hn => (by rw [hsite] at hn; cases hn), ?_, ?_⟩
  · rw [hsite] at hj'
    cases hj'
    have hsettle : j.engine.settleTimer.isSome = true → False := fun e => by
      have := oj.settle e; rw [hst] at this; cases this
    refine ⟨by simpa [State.grantOne] using oj.touchdown, by rw [hsite]; exact oj.seated, by rw [hsite]; exact oj.driven,
      by rw [hsite]; exact oj.used, ?_, ?_, fun _ => rfl, fun e => (hsettle e).elim, ?_, ?_, ?_, ?_, ?_, ?_⟩
    · rw [grantOne_condOf]; exact oj.noLink
    · rw [grantOne_condOf]; exact oj.noDieSupply
    · intro d' hd'; simp [Arbiter.grant] at hd'
    · intro d' hd'
      simp only [grantOne_arb, Arbiter.grant, Fin.getElem_fin, Vector.getElem_set_self, Option.some.injEq] at hd'
      subst hd'
      rw [hsite]
      exact ⟨_, _, rfl, rfl, hcells.symm⟩
    · intro _ _ _; simp [Arbiter.grant]
    · intro e; rw [show j.onGrant.1.phase = j.phase from rfl, hlate] at e; cases e
    · intro e
      have : j.phase = .keyWait := e
      rw [this] at hlate; cases hlate
    · intro e
      have := oj.inList (by simpa [State.grantOne] using e)
      rw [this] at hlate; cases hlate
  · rw [hsite, grantOne_condOf]; exact o.contact
  · rw [hsite, grantOne_condOf]; simpa [State.grantOne] using o.link

theorem State.SiteOk.grantOne_ne {s : State} {i k : SiteNo} (o : s.SiteOk k) (d : Nat) (hk : k ≠ i) :
    (s.grantOne i d).SiteOk k := by
  have hv : i.val ≠ k.val := fun e => hk (Fin.ext e.symm)
  exact o.congr (by simp [State.grantOne]) (grantOne_site_ne _ _ hk)
    (fun c => grantOne_condOf _ _ _ _ _) (by simp [Arbiter.grant, hv])
    (by simp [Arbiter.grant, hv]) (by simp [State.grantOne]) (by simp [State.grantOne])

theorem grantOne_units (s : State) (i : SiteNo) (d : Nat) (hf : s.arb.inFlight[i] = none)
    (hu : s.arb.inUse = s.arb.unitsInFlight) : (s.grantOne i d).arb.inUse = (s.grantOne i d).arb.unitsInFlight := by
  have := units_set s.arb i (some d) (s.arb.waiting.set i.val none i.isLt) (s.arb.inUse + d) (i + 1)
  rw [hf] at this
  simp only [grantOne_arb, Arbiter.grant]
  simp only [Option.getD_none, Option.getD_some] at this
  omega

theorem State.SiteInv.grantOne {s : State} (h : s.SiteInv) {i : SiteNo} {d : Nat} (hd : s.arb.waiting[i] = some d)
    (hfit : s.arb.inUse + d ≤ s.cfg.pumpCapacity) : (s.grantOne i d).SiteInv := by
  obtain ⟨j, hj, hf, -⟩ := (h.sites i).waits hd
  refine ⟨fun k => ?_, grantOne_units s i d hf h.units, ?_, ?_, ?_⟩
  · by_cases hk : k = i
    · subst hk; exact (h.sites k).grantOne_self hd
    · exact (h.sites k).grantOne_ne d hk
  · simpa [Arbiter.grant, State.grantOne] using hfit
  · simpa [State.grantOne] using h.once
  · simpa [State.grantOne] using h.waitEmpty

/-- A grant test keeps what holds beside a site that has no request waiting. -/
theorem State.RestInv.grantTest {s : State} {i : SiteNo} (h : s.RestInv i) (hw : s.arb.waiting[i] = none) :
    s.grantTest.RestInv i := by
  refine (grantTest_inv (fun t => t.RestInv i ∧ t.arb.waiting[i] = none) ?_ s ⟨h, hw⟩).1
  rintro t k d ⟨h, hw⟩ hd hfit
  have hki : k ≠ i := by rintro rfl; rw [hw] at hd; cases hd
  have hv : k.val ≠ i.val := fun e => hki (Fin.ext e)
  obtain ⟨j, hj, hf, -⟩ := (h.sites k hki).waits hd
  refine ⟨⟨fun k' hk' => ?_, grantOne_units t k d hf h.units, ?_, ?_, ?_⟩, by simpa [Arbiter.grant, hv] using hw⟩
  · by_cases e : k' = k
    · subst e; exact (h.sites k' hk').grantOne_self hd
    · exact (h.sites k' hk').grantOne_ne d e
  · simpa [Arbiter.grant, State.grantOne] using hfit
  · simpa [State.grantOne] using h.once
  · simpa [State.grantOne] using h.waitEmpty

theorem State.SiteInv.grantTest {s : State} (h : s.SiteInv) : s.grantTest.SiteInv :=
  grantTest_inv State.SiteInv (fun _ _ _ h hd hfit => h.grantOne hd hfit) s h

theorem State.SiteInv.withdraw {s : State} (h : s.SiteInv) (i : SiteNo) : (s.withdraw i).SiteInv := by
  unfold State.withdraw
  split
  · refine SiteInv.grantTest ⟨fun k => ?_, h.units, h.capacity, h.once, h.waitEmpty⟩
    by_cases hk : k = i
    · subst hk
      have o := h.sites k
      refine ⟨fun j hj => ?_, fun hn => ?_, o.contact, o.link⟩
      · obtain ⟨h1, h2, h3, h4, h5, h6, h7, h8, h9, h10, h11, h12, h13, h14⟩ := o.job j hj
        exact ⟨h1, h2, h3, h4, h5, h6, h7, h8, by simp [Arbiter.withdraw], h10, h11, h12, h13, h14⟩
      · obtain ⟨h1, h2, h3, h4, h5⟩ := o.noJob hn
        exact ⟨h1, by simp [Arbiter.withdraw], h3, h4, h5⟩
    · have hv : i.val ≠ k.val := fun e => hk (Fin.ext e.symm)
      exact (h.sites k).congr rfl rfl (fun _ => rfl) (by simp [Arbiter.withdraw, hv]) rfl rfl Iff.rfl
  · exact h

theorem State.RestInv.withdraw {s : State} {i : SiteNo} (h : s.RestInv i) : (s.withdraw i).RestInv i := by
  unfold State.withdraw
  split
  · refine RestInv.grantTest ⟨fun k hk => ?_, h.units, h.capacity, h.once, h.waitEmpty⟩ (by simp [Arbiter.withdraw])
    have hv : i.val ≠ k.val := fun e => hk (Fin.ext e.symm)
    exact (h.sites k hk).congr rfl rfl (fun _ => rfl) (by simp [Arbiter.withdraw, hv]) rfl rfl Iff.rfl
  · exact h

theorem State.RestInv.release {s : State} {i : SiteNo} (h : s.RestInv i) (hw : s.arb.waiting[i] = none) :
    (s.release i).RestInv i := by
  unfold State.release
  split
  · have hu := units_set s.arb i none s.arb.waiting (s.arb.inUse - s.arb.inFlight[i].getD 0) s.arb.pointer
    have h1 := h.units
    have h2 := h.capacity
    refine RestInv.grantTest ⟨fun k hk => ?_, ?_, ?_, h.once, h.waitEmpty⟩ hw
    · have hv : i.val ≠ k.val := fun e => hk (Fin.ext e.symm)
      exact (h.sites k hk).congr rfl rfl (fun _ => rfl) rfl (by simp [Arbiter.release, hv]) rfl Iff.rfl
    · simp only [Option.getD_none] at hu
      simp only [setArb_arb, Arbiter.release]
      omega
    · simp only [setArb_arb, setArb_cfg, Arbiter.release]; omega
  · exact h

theorem State.RestInv.setPort {s : State} {i : SiteNo} (h : s.RestInv i) (p : Port) : (s.setPort i p).RestInv i :=
  h.congr rfl (fun _ hk => site_setPort_ne _ _ hk) (fun _ _ _ => rfl) rfl rfl (fun _ _ => rfl) (fun _ _ => Iff.rfl)
    h.once h.waitEmpty

theorem State.RestInv.setExch {s : State} {i : SiteNo} (h : s.RestInv i) (x : Option Exchange) :
    (s.setExch i x).RestInv i := h.setPort _

theorem State.RestInv.deselect {s : State} {i : SiteNo} (h : s.RestInv i) (k : SiteNo) : (s.deselect k).RestInv i :=
  h.congr rfl (fun _ _ => rfl) (fun _ _ _ => rfl) rfl rfl (fun _ _ => rfl) (fun _ _ => Iff.rfl) h.once h.waitEmpty

end Sys2Proof.Machine
end

