-- ==== Sys2Proof/Laws/SitePerform.lean ====
section
/-!
SUPPORT. Performing a job's act, aborts, drive cuts and the end of an exchange keep State.SiteInv.
-/
namespace Sys2Proof.Machine

/-! ### Acts of a job past its bind point -/

theorem State.RestInv.doRunning {s : State} {i : SiteNo} {m : Move} (h : s.RestInv i) (f : s.FreeSite i)
    (hm : RunningMove m) : (s.doMove i m).SiteInv := by
  have h' := h.setJob (some m.1)
  have f' := f.setJob m.1
  have hj : ((s.setJob i (some m.1)).site i).job = some m.1 := by simp
  have hk : m.1.phase ≠ .keyWait := fun e => by have := hm.late; rw [e] at this; cases this
  have he : m.1.phase.early = true → m.1.engine = RowEngine.idle ∧ (s.setJob i (some m.1)).ks.bound[i] = none := fun e => by
    rw [hm.late] at e; cases e
  unfold State.doMove
  cases ha : m.2 with
  | send c r => exact h'.send f' hj c r (hm.noPulse c r ha) hm.settle (hm.send c r ha) he hk
  | finish o => exact h'.finish f'.job f'.used (fun _ => f'.noContact) f'.exchange f'.waiting f'.inFlight o
  | wait => exact h'.withJob f' hj hm.settle he hk
  | request d => exact h'.withJob f' hj hm.settle he hk
  | bind => exact absurd ha hm.noBind

/-! ### Orderly abort (R57) -/

theorem State.SiteInv.abort {s : State} (h : s.SiteInv) (i : SiteNo) (p : PendingEnd) : (s.abort i p).SiteInv := by
  unfold State.abort
  split
  · exact h
  · next j hj =>
    split
    · exact h
    · dsimp only
      obtain ⟨hs, hw, hf⟩ := withdraw_self s i
      have h1 := h.withdraw i
      have hj1 : ((s.withdraw i).site i).job = some j := by rw [hs]; exact hj
      have o := (h1.sites i).job j hj1
      generalize hu : s.withdraw i = u at *
      rw [← hs]
      cases hx : (u.site i).port.exch with
      | none =>
        have hfl : u.arb.inFlight[i] = none := by
          cases hd : u.arb.inFlight[i] with
          | none => rfl
          | some d => obtain ⟨x, m, hx', -⟩ := o.inFlight d hd; rw [hx] at hx'; cases hx'
        have hset : u.setExch i none = u := by
          simp only [State.setExch, State.setPort]
          rw [← hx]
          exact setSite_site u i
        simp only [Option.map_none, Option.isSome_none, hset]
        have hr := onAbort_running j p false
        have he : (∃ w, (j.onAbort p false).2 = .finish w) ∨ j.engine.rowOpen = true := by
          cases hb : j.engine.rowOpen with
          | true => exact .inr rfl
          | false => exact .inl ⟨_, by simp only [Job.onAbort, Job.endingNext, hb, Bool.false_eq_true, if_false]; rfl⟩
        rcases he with ⟨w, he⟩ | ho
        · simp only [State.doMove, he, State.doAct]
          refine ((h1.rest i).setJob _).finish (by simp) (by simpa using o.used)
            (fun _ => (h1.sites i).contact o.seated) (by simpa using hx) hw hfl _
        · refine (h1.rest i).doRunning (h1.free hj1 hx hw hfl ?_) hr
          intro hk
          have := (o.early (by rw [hk]; rfl)).1
          rw [this] at ho; cases ho
      | some x =>
        have hk : j.phase ≠ .keyWait := fun e => by have := (o.keyWait e).2; rw [hx] at this; cases this
        have hst := o.exchange (by simp [hx])
        have hr := onAbort_running j p true
        simp only [Option.map_some, Option.isSome_some, State.doMove]
        rw [show (j.onAbort p true).2 = .wait from rfl]
        simp only [State.doAct]
        refine ⟨fun k => ?_, h1.units, h1.capacity, h1.once, h1.waitEmpty⟩
        by_cases hk' : k = i
        · subst hk'
          refine ⟨fun j' hj' => ?_, fun hn => (by simp at hn), ?_, ?_⟩
          · have hjj : (j.onAbort p true).1 = j' := by simpa using hj'
            subst hjj
            refine ⟨o.touchdown, by simpa using o.seated, by simpa using o.driven, by simpa using o.used, o.noLink,
              o.noDieSupply, fun _ => hst, hr.settle, ?_, ?_, ?_, fun e => ?_, fun e => ?_, fun e => ?_⟩
            · intro d hd; simp only [setJob_arb, setExch_arb] at hd; rw [hw] at hd; cases hd
            · intro d hd
              obtain ⟨y, m, hy, hc, hm⟩ := o.inFlight d hd
              rw [hx] at hy; cases hy
              exact ⟨x.noRetry, m, by simp, hc, hm⟩
            · intro y hy hp
              have hxy : x.noRetry = y := by simpa using hy
              subst hxy
              exact o.pulse x hx hp
            · have := hr.late; rw [this] at e; cases e
            · have := hr.late; rw [e] at this; cases this
            · exact absurd (o.inList e) hk
          · simpa using (h1.sites k).contact
          · simpa using (h1.sites k).link
        · exact (h1.sites k).congr rfl (by rw [site_setJob_ne _ _ hk', site_setExch_ne _ _ hk']) (fun _ => rfl) rfl rfl rfl
            Iff.rfl

/-! ### Requests for a grant (R111) -/

theorem State.RestInv.request {s : State} {i : SiteNo} {j : Job} (h : s.RestInv i) (f : s.FreeSite i)
    (hj : (s.site i).job = some j) (hl : j.phase.early = false)
    (hs : j.engine.settleTimer.isSome = true → j.engine.stage = .settling) (hg : j.engine.stage = .grantWait) :
    (s.request i (cellCount (j.engine.chunks.headD 0))).SiteInv := by
  have hk : j.phase ≠ .keyWait := fun e => by rw [e] at hl; cases hl
  have h0 : s.SiteInv := h.withJob f hj hs (fun e => by rw [hl] at e; cases e) hk
  unfold State.request
  split
  · exact h0.abort i _
  · refine SiteInv.grantTest ⟨fun k => ?_, h0.units, h0.capacity, h0.once, h0.waitEmpty⟩
    by_cases hk' : k = i
    · subst hk'
      refine ⟨fun j' hj' => ?_, fun hn => (by simp [hj] at hn), (h0.sites k).contact, (h0.sites k).link⟩
      have hjj : j = j' := by simpa [hj] using hj'
      subst hjj
      obtain ⟨h1, h2, h3, h4, h5, h6, h7, h8, -, h10, h11, h12, h13, h14⟩ := (h0.sites k).job j hj
      refine ⟨h1, h2, h3, h4, h5, h6, h7, h8, ?_, h10, h11, h12, h13, h14⟩
      intro d hd
      have hd' : cellCount (j.engine.chunks.headD 0) = d := by simpa [Arbiter.join] using hd
      exact ⟨f.exchange, f.inFlight, hg, hd'.symm⟩
    · have hv : i.val ≠ k.val := fun e => hk' (Fin.ext e.symm)
      exact (h0.sites k).congr rfl rfl (fun _ => rfl) (by simp [Arbiter.join, hv]) rfl rfl Iff.rfl

/-! ### The bind point (R26, R27) -/

theorem State.SiteInv.evalPoolLow {s : State} (h : s.SiteInv) : s.evalPoolLow.SiteInv :=
  h.congr (by simp) (by simp) (by simp) (by simp) (by simp) (by simp) (by simp) (by simp)

theorem State.RestInv.bindRequest {s : State} {i : SiteNo} {j : Job} (h : s.RestInv i) (f : s.FreeSite i)
    (hj : (s.site i).job = some j) (he : j.engine = RowEngine.idle) (hb : s.ks.bound[i] = none) :
    (s.bindRequest i).SiteInv := by
  unfold State.bindRequest
  split
  · next key rest hfree =>
    have hwl : s.ks.waitList = [] := by
      by_contra hne
      have := h.waitEmpty hne
      rw [hfree] at this; cases this
    have hr : (s.setKs (s.ks.bindFront i key rest)).RestInv i := by
      refine h.congr (by simp) (fun _ _ => by simp) (fun _ _ _ => by simp) (by simp) (by simp) (fun k hk => ?_)
        (fun _ _ => by simp [KeyStore.bindFront]) (by simpa [KeyStore.bindFront] using h.once)
        (by simp [KeyStore.bindFront, hwl])
      have hv : i.val ≠ k.val := fun e => hk (Fin.ext e.symm)
      simp [KeyStore.bindFront, hv]
    have hf : (s.setKs (s.ks.bindFront i key rest)).FreeSite i := by
      obtain ⟨f1, f2, f3, f4, f5, f6, f7, f8, f9, f10, f11, f12⟩ := f
      exact ⟨by simpa using f1, by simpa using f2, by simpa using f3, by simpa using f4, by simpa using f5,
        by simpa using f6, by simpa using f7, by simpa using f8, by simpa using f9, by simpa using f10,
        by simpa using f11, by simpa [KeyStore.bindFront] using f12⟩
    refine State.SiteInv.evalPoolLow ?_
    unfold State.giveKey
    split
    · next hn => simp [hj] at hn
    · next j' hj' => exact hr.doRunning hf (onKey_running _ _ _)
  · next hfree =>
    unfold State.joinWaitList
    rw [hj]
    dsimp only
    refine ⟨fun k => ?_, h.units, h.capacity, ?_, fun _ => hfree⟩
    · by_cases hk : k = i
      · subst hk
        refine ⟨fun j' hj' => ?_, fun hn => (by simp at hn), fun _ => f.noContact,
          fun hl => (by have := f.noLink; simp only [condOf_setJob, condOf_setKs] at hl; rw [this] at hl; cases hl)⟩
        have hjj : { j with phase := Phase.keyWait } = j' := by simpa using hj'
        subst hjj
        refine ⟨f.touchdown, by simpa using f.seated, by simpa using f.driven, by simpa using f.used, f.noLink,
          f.noDieSupply, by simp [f.exchange], by simp [he, RowEngine.idle], ?_, ?_, ?_, fun _ => ⟨he, hb, f.inFlight⟩,
          fun _ => ⟨by simp, by simpa using f.exchange⟩, fun _ => rfl⟩
        · intro d hd; have := f.waiting; simp only [setJob_arb, setKs_arb] at hd; rw [this] at hd; cases hd
        · intro d hd; have := f.inFlight; simp only [setJob_arb, setKs_arb] at hd; rw [this] at hd; cases hd
        · intro x hx; have := f.exchange; simp at hx; rw [this] at hx; cases hx
      · exact (h.sites k hk).congr rfl (by rw [site_setJob_ne _ _ hk]; rfl) (fun _ => rfl) rfl rfl rfl (by simp [hk])
    · show (s.ks.waitList ++ [i]).Nodup
      refine List.Nodup.append h.once (by simp) ?_
      simpa using f.inList

/-! ### Moves -/

theorem State.RestInv.performRunning {s : State} {i : SiteNo} {m : Move} (h : s.RestInv i) (f : s.FreeSite i)
    (hm : RunningMove m) : (s.perform i m).SiteInv := by
  unfold State.perform
  split
  · next d ha =>
    obtain ⟨hg, hd⟩ := hm.request d ha
    rw [hd]
    exact (h.setJob _).request (f.setJob _) (by simp) hm.late hm.settle hg
  · next ha => exact absurd ha hm.noBind
  · exact h.doRunning f hm

theorem State.RestInv.performEarly {s : State} {i : SiteNo} {m : Move} (h : s.RestInv i) (f : s.FreeSite i)
    (hb : s.ks.bound[i] = none) (hm : EarlyMove m) : (s.perform i m).SiteInv := by
  have hk : m.1.phase ≠ .keyWait := by rcases hm.phase with e | e <;> rw [e] <;> simp
  have hs : m.1.engine.settleTimer.isSome = true → m.1.engine.stage = .settling := by simp [hm.engine, RowEngine.idle]
  unfold State.perform
  split
  · next d ha => exact absurd ha (hm.noRequest d)
  · exact (h.setJob _).bindRequest (f.setJob _) (by simp) hm.engine hb
  · unfold State.doMove
    have h' := h.setJob (some m.1)
    have f' := f.setJob m.1
    have hj : ((s.setJob i (some m.1)).site i).job = some m.1 := by simp
    cases ha : m.2 with
    | send c r =>
      exact h'.send f' hj c r (hm.noPulse c r ha) hs (by rw [hm.engine]; rfl) (fun _ => ⟨hm.engine, hb⟩) hk
    | finish o => exact h'.finish f'.job f'.used (fun _ => f'.noContact) f'.exchange f'.waiting f'.inFlight o
    | wait => exact h'.withJob f' hj hs (fun _ => ⟨hm.engine, hb⟩) hk
    | request d => exact h'.withJob f' hj hs (fun _ => ⟨hm.engine, hb⟩) hk
    | bind => exact h'.withJob f' hj hs (fun _ => ⟨hm.engine, hb⟩) hk

end Sys2Proof.Machine
end

