-- ==== Sys2Proof/Laws/SiteEvents.lean ====
section
/-!
SUPPORT. The end of an exchange, the timers of an attempt, drive cuts, admission, hand-out and liftoff completion keep
State.SiteInv.
-/
namespace Sys2Proof.Machine

theorem settle_none {j : Job} (hs : j.engine.settleTimer.isSome = true → j.engine.stage = .settling)
    (hi : j.engine.stage ≠ .settling) : j.engine.settleTimer = none := by
  cases h : j.engine.settleTimer with
  | none => rfl
  | some n => exact absurd (hs (by simp [h])) hi

/-! ### A site's job context replaced by one that differs in its timers alone -/

theorem State.SiteInv.retime {s : State} (h : s.SiteInv) {i : SiteNo} {j j' : Job} (hj : (s.site i).job = some j)
    (hp : j'.phase = j.phase) (hs : j'.engine.stage = j.engine.stage) (hc : j'.engine.chunks = j.engine.chunks)
    (ht : j'.engine.settleTimer = j.engine.settleTimer) (hi : j.engine = RowEngine.idle → j'.engine = RowEngine.idle) :
    (s.setJob i (some j')).SiteInv := by
  refine ⟨fun k => ?_, h.units, h.capacity, h.once, h.waitEmpty⟩
  by_cases hk : k = i
  · subst hk
    obtain ⟨h1, h2, h3, h4, h5, h6, h7, h8, h9, h10, h11, h12, h13, h14⟩ := (h.sites k).job j hj
    refine ⟨fun a ha => ?_, fun hn => (by simp at hn), by simpa using (h.sites k).contact, by simpa using (h.sites k).link⟩
    have : j' = a := by simpa using ha
    subst this
    refine ⟨h1, by simpa using h2, by simpa using h3, by simpa using h4, h5, h6, by simpa [hs] using h7,
      by rw [ht, hs]; exact h8, by simpa [hs, hc] using h9, by simpa using h10, by simpa using h11, ?_,
      by simpa [hp] using h13, by rw [hp]; exact h14⟩
    intro e
    rw [hp] at e
    exact ⟨hi (h12 e).1, (h12 e).2⟩
  · exact (h.sites k).congr rfl (site_setJob_ne _ _ hk) (fun _ => rfl) rfl rfl rfl Iff.rfl

theorem State.SiteInv.noteOpenLeft {s : State} (h : s.SiteInv) (i : SiteNo) (n : Nat) : (s.noteOpenLeft i n).SiteInv := by
  unfold State.noteOpenLeft
  split
  · next j hj => exact h.retime hj rfl rfl rfl rfl (fun e => by simp [Job.noteOpenLeft, e, RowEngine.idle])
  · exact h

/-- The exchange in progress replaced by another attempt of the same command, or by more bytes received. -/
theorem State.SiteInv.sameCmd {s : State} (h : s.SiteInv) {i : SiteNo} {x y : Exchange}
    (hx : (s.site i).port.exch = some x) (hc : y.cmd = x.cmd) : (s.setExch i (some y)).SiteInv := by
  refine ⟨fun k => ?_, h.units, h.capacity, h.once, h.waitEmpty⟩
  by_cases hk : k = i
  · subst hk
    refine ⟨fun a ha => ?_, fun hn => ?_, by simpa using (h.sites k).contact, by simpa using (h.sites k).link⟩
    · obtain ⟨h1, h2, h3, h4, h5, h6, h7, h8, h9, h10, h11, h12, h13, h14⟩ := (h.sites k).job a (by simpa using ha)
      refine ⟨h1, by simpa using h2, by simpa using h3, by simpa using h4, h5, h6, by simpa [hx] using h7, h8, ?_, ?_, ?_,
        h12, ?_, h14⟩
      · intro d hd; have := (h9 d hd).1; rw [hx] at this; cases this
      · intro d hd
        obtain ⟨z, m, hz, hm, hn⟩ := h10 d hd
        rw [hx] at hz; cases hz
        exact ⟨y, m, by simp, hc.trans hm, hn⟩
      · intro z hz hp
        have : y = z := by simpa using hz
        subst this
        exact h11 x hx (by rw [← hc]; exact hp)
      · intro e; have := (h13 e).2; rw [hx] at this; cases this
    · have := ((h.sites k).noJob (by simpa using hn)).exchange
      rw [hx] at this; cases this
  · exact (h.sites k).congr rfl (site_setExch_ne _ _ hk) (fun _ => rfl) rfl rfl rfl Iff.rfl

theorem State.SiteInv.deselect {s : State} (h : s.SiteInv) (i : SiteNo) : (s.deselect i).SiteInv :=
  h.congr rfl rfl (fun _ _ => rfl) rfl rfl rfl rfl rfl

theorem State.SiteInv.setDie {s : State} (h : s.SiteInv) (i : SiteNo) (d : Die) : (s.setDie i d).SiteInv :=
  h.congr rfl rfl (fun _ _ => rfl) rfl rfl rfl rfl rfl

/-! ### The end of an exchange (R66, R70) -/

/-- What an exchange in progress says of its site. -/
theorem State.SiteOk.exchanging {s : State} {i : SiteNo} {x : Exchange} (o : s.SiteOk i)
    (hx : (s.site i).port.exch = some x) : ∃ j, (s.site i).job = some j ∧ s.arb.waiting[i] = none ∧
      j.phase ≠ .keyWait ∧ j.engine.settleTimer = none ∧ j.engine.stage.idleWait = false ∧
      (j.phase.early = true → j.engine = RowEngine.idle ∧ x.cmd.isPulse = false ∧ s.ks.bound[i] = none) ∧
      (x.cmd.isPulse = false → s.arb.inFlight[i] = none) := by
  cases hj : (s.site i).job with
  | none => have := (o.noJob hj).exchange; rw [hx] at this; cases this
  | some j =>
    have oj := o.job j hj
    have hst := oj.exchange (by simp [hx])
    refine ⟨j, rfl, ?_, ?_, settle_none oj.settle (fun e => by rw [e] at hst; cases hst), hst, fun e => ?_, fun e => ?_⟩
    · cases hd : s.arb.waiting[i] with
      | none => rfl
      | some d => have := (oj.waiting d hd).1; rw [hx] at this; cases this
    · intro e; have := (oj.keyWait e).2; rw [hx] at this; cases this
    · obtain ⟨e1, e2, e3⟩ := oj.early e
      refine ⟨e1, ?_, e2⟩
      cases hp : x.cmd.isPulse with
      | false => rfl
      | true => have := oj.pulse x hx hp; rw [e3] at this; cases this
    · cases hd : s.arb.inFlight[i] with
      | none => rfl
      | some d =>
        obtain ⟨y, m, hy, hm, -⟩ := oj.inFlight d hd
        rw [hx] at hy; cases hy
        rw [hm] at e; cases e

theorem State.SiteInv.exchangeEnded {s : State} (h : s.SiteInv) {i : SiteNo} {x : Exchange}
    (hx : (s.site i).port.exch = some x) (e : Ending) : (s.exchangeEnded i x.cmd e).SiteInv := by
  obtain ⟨j, hj, hw, hk, ht, hi, he, hf⟩ := (h.sites i).exchanging hx
  have o := (h.sites i).job j hj
  have hrel : (if x.cmd.isPulse then (s.setExch i none).release i else s.setExch i none) = (s.setExch i none).release i := by
    split
    · rfl
    · next hp =>
      have : (s.setExch i none).arb.inFlight[i] = none := hf (by simpa using hp)
      unfold State.release
      rw [this]
      rfl
  unfold State.exchangeEnded
  dsimp only
  rw [hrel]
  obtain ⟨g1, g2, g3⟩ := release_self (s.setExch i none) i hw
  have hr : ((s.setExch i none).release i).RestInv i := ((h.rest i).setExch none).release hw
  generalize hu : (s.setExch i none).release i = u at *
  have hks : u.ks = s.ks := by rw [← hu]; simp
  have htd : u.td = s.td := by rw [← hu]; simp
  have hmon : ∀ c, u.condOf i c = s.condOf i c := fun c => condOf_of_mon (by rw [← hu]; simp) _ _
  rw [site_setExch] at g1
  have hj' : (u.site i).job = some j := by rw [g1]; exact hj
  have f : u.FreeSite i := ⟨by simp [hj'], by rw [htd]; exact o.touchdown, by rw [g1]; exact o.seated,
    by rw [g1]; exact o.driven, by rw [g1]; exact o.used, by rw [hmon]; exact (h.sites i).contact o.seated,
    by rw [hmon]; exact o.noLink, by rw [hmon]; exact o.noDieSupply, by rw [g1], g2, g3,
    by rw [hks]; exact fun e => hk (o.inList e)⟩
  rw [hj']
  dsimp only
  obtain ⟨m1, m2⟩ := onExchange_move u.cfg x.cmd j e hk ht hi (fun a => ⟨(he a).1, (he a).2.1⟩)
  cases hp : j.phase.early with
  | false => exact hr.performRunning f (m1 hp)
  | true => exact hr.performEarly f (by rw [hks]; exact (he hp).2.2) (m2 hp)

theorem State.SiteInv.attemptEnded {s : State} (h : s.SiteInv) {i : SiteNo} {x y : Exchange}
    (hx : (s.site i).port.exch = some y) (hc : x.cmd = y.cmd) (e : Ending) : (s.attemptEnded i x e).SiteInv := by
  unfold State.attemptEnded
  dsimp only
  have hx' : ((s.deselect i).site i).port.exch = some y := hx
  split
  · exact (h.deselect i).sameCmd hx' (by simp [newAttempt, hc])
  · rw [hc]; exact (h.deselect i).exchangeEnded hx' e

/-! ### Drive cut (R56, R58) -/

theorem State.RestInv.driveCut {s : State} {i : SiteNo} (h : s.RestInv i) {j : Job} (hj : (s.site i).job = some j)
    (hu : (s.site i).used = true) (hco : (s.site i).posture = .seated → s.condOf i .contact = false) (o : JobOutcome) :
    (s.driveCut i o).SiteInv := by
  unfold State.driveCut
  rw [hj]
  dsimp only
  have h1 := ((h.setPort { driven := false, exch := none }).deselect i).withdraw
  obtain ⟨w1, w2, w3⟩ := withdraw_self ((s.setPort i { driven := false, exch := none }).deselect i) i
  have h2 := h1.release w2
  obtain ⟨r1, r2, r3⟩ := release_self _ i w2
  rw [w1, site_deselect, site_setPort] at r1
  have hmon : ∀ c, (((((s.setPort i { driven := false, exch := none }).deselect i).withdraw i).release i).condOf i c)
      = s.condOf i c := fun c => condOf_of_mon (by simp) _ _
  refine h2.finish (by rw [r1]; simp [hj]) (by rw [r1]; exact hu) ?_ (by rw [r1]) r2 r3 _
  rw [r1, hmon]
  exact hco

/-! ### Admission (R47, R48) -/

theorem State.SiteInv.setLog {s : State} (h : s.SiteInv) (l : IssueLog) : (s.setLog l).SiteInv :=
  h.congr rfl rfl (fun _ _ => rfl) rfl rfl rfl rfl rfl

theorem State.SiteInv.evalLogHigh {s : State} (h : s.SiteInv) : s.evalLogHigh.SiteInv :=
  h.congr (by simp) (by simp) (by simp) (by simp) (by simp) (by simp) (by simp) (by simp)

theorem State.SiteInv.evalPoolLowNew {s : State} (h : s.SiteInv) : s.evalPoolLowNew.SiteInv :=
  h.congr (by simp) (by simp) (by simp) (by simp) (by simp) (by simp) (by simp) (by simp)

theorem State.SiteInv.setSlotWaiter {s : State} (h : s.SiteInv) (i : SiteNo) (v : Bool) : (s.setSlotWaiter i v).SiteInv :=
  h.setLog _

/-- Admission at a site without an active job, SEATED, with no site condition declared and a touchdown in progress. -/
theorem State.SiteInv.admitHead {s : State} (h : s.SiteInv) {i : SiteNo} (hj : (s.site i).job = none)
    (htd : s.td.state ≠ .clear) (hs : (s.site i).posture = .seated) (hu : (s.site i).used = false)
    (hd : s.condOf i .dieSupply = false) : (s.admitHead i).SiteInv := by
  unfold State.admitHead
  split
  · exact h
  · next p rest hq =>
    have n := (h.sites i).noJob hj
    have hlk : s.condOf i .link = false := by
      cases hl : s.condOf i .link with
      | false => rfl
      | true => rcases (h.sites i).link hl with e | e; rw [hu] at e; cases e; exact absurd e htd
    dsimp only
    set c : SiteCtl := { s.site i with
      queue := rest, used := true, job := some (newJob p s.td.number), port := { driven := true, exch := none } } with hc
    set t := (s.setSite i c).setLog
      { (s.setSite i c).log with reservations := (s.setSite i c).log.reservations + 1 } with ht
    have hsite : t.site i = c := by simp [ht]
    have hr : t.RestInv i := (h.rest i).congr rfl (fun k hk => site_setSite_ne _ _ hk) (fun _ _ _ => rfl) rfl rfl
      (fun _ _ => rfl) (fun _ _ => Iff.rfl) h.once h.waitEmpty
    have f : t.FreeSite i := ⟨by rw [hsite]; rfl, htd, by rw [hsite]; exact hs, by rw [hsite], by rw [hsite],
      (h.sites i).contact hs, hlk, hd, by rw [hsite], n.waiting, n.inFlight, n.inList⟩
    exact hr.send f (j := newJob p s.td.number) (by rw [hsite]) _ _ rfl (by simp [newJob, RowEngine.idle]) rfl
      (fun _ => ⟨rfl, n.bound⟩) (by simp [newJob])

theorem State.readyToAdmit_spec {s : State} {i : SiteNo} (h : s.readyToAdmit i = true) : s.td.state = .opened ∧
    (s.site i).posture = .seated ∧ (s.site i).used = false ∧ (s.site i).job = none ∧ s.condOf i .dieSupply = false ∧
    (s.site i).queue ≠ [] := by
  simpa [State.readyToAdmit, State.active, and_assoc] using h

theorem State.SiteInv.admitReady {s : State} (h : s.SiteInv) {i : SiteNo} (hr : s.readyToAdmit i = true) :
    (s.admitHead i).SiteInv := by
  obtain ⟨h1, h2, h3, h4, h5, -⟩ := readyToAdmit_spec hr
  exact h.admitHead h4 (by rw [h1]; simp) h2 h3 h5

theorem State.SiteInv.testAdmission {s : State} (h : s.SiteInv) (i : SiteNo) : (s.testAdmission i).SiteInv := by
  unfold State.testAdmission
  split
  · next hr =>
    unfold State.askSlot
    split
    · exact (h.admitReady (by simpa using (Bool.and_eq_true _ _ ▸ hr).1)).evalLogHigh
    · exact h.setSlotWaiter i true
  · exact h

/-! ### Hand-out (R25) -/

/-- The machine with the free queue replaced. -/
def State.setFree (s : State) (f : List Key) : State := s.setKs { s.ks with free := f }

theorem throttle_setFree (s : State) (f : List Key) (sc : Scope) : (s.setFree f).throttle sc = (s.throttle sc).setFree f := by
  unfold State.throttle
  rw [show (s.setFree f).noticePending sc = s.noticePending sc by cases sc <;> rfl,
    show (s.setFree f).enabledFlag sc = s.enabledFlag sc by cases sc <;> rfl]
  split
  · cases sc <;> rfl
  · rfl

theorem endJob_setFree (s : State) (f : List Key) (i : SiteNo) (o : JobOutcome) :
    (s.setFree f).endJob i o = (s.endJob i o).setFree f := by
  unfold State.endJob
  rw [show (s.setFree f).site i = s.site i from rfl]
  split
  · rfl
  · dsimp only
    have h1 : (if o = .linkLost then (s.setFree f).changeCond i .link true else s.setFree f)
        = (if o = .linkLost then s.changeCond i .link true else s).setFree f := by
      split
      · exact throttle_setFree ((s.setCond i .link true).setSmon i
          { (s.setCond i .link true).smon i with
            flags := ((s.setCond i .link true).smon i).flags.put .link true }) f (.site i)
      · rfl
    rw [h1]
    generalize (if o = .linkLost then s.changeCond i .link true else s) = u
    exact throttle_setFree { ((u.accountEnd i _ o).setJob i none) with
      mon := { ((u.accountEnd i _ o).setJob i none).mon with
        flags := ((u.accountEnd i _ o).setJob i none).mon.flags.put .recordAdded true } } f .global

/-- A job's own move does not read the free queue. -/
theorem doMove_setFree (s : State) (f : List Key) (i : SiteNo) (m : Move) :
    (s.setFree f).doMove i m = (s.doMove i m).setFree f := by
  unfold State.doMove
  rw [show (s.setFree f).setJob i (some m.1) = (s.setJob i (some m.1)).setFree f from rfl]
  cases m.2 with
  | finish o => exact endJob_setFree _ f i o
  | wait | send | request | bind => rfl

theorem doMove_waitList (s : State) (i : SiteNo) (m : Move) (h : i ∉ s.ks.waitList) :
    (s.doMove i m).ks.waitList = s.ks.waitList := by
  unfold State.doMove
  cases m.2 with
  | finish o =>
    simp only [State.doAct]
    rw [endJob_ks _ _ (by simp)]
    refine List.filter_eq_self.2 fun a ha => ?_
    have : a ≠ i := fun e => h (e ▸ ha)
    simpa using this
  | wait | send | request | bind => rfl

/-- While keys are handed out the free queue need not be empty, but every site still to be served stands in the wait
list, and no other does. -/
structure State.HandInv (l : List SiteNo) (s : State) : Prop where
  sites : ∀ i, s.SiteOk i
  units : s.arb.inUse = s.arb.unitsInFlight
  capacity : s.arb.inUse ≤ s.cfg.pumpCapacity
  once : l.Nodup
  left : s.ks.waitList = l

theorem State.HandInv.handOut {l : List SiteNo} {s : State} (h : s.HandInv l) :
    (State.handOut l s).SiteInv := by
  induction l generalizing s with
  | nil => exact ⟨h.sites, h.units, h.capacity, by rw [State.handOut, h.left]; simp, by simp [State.handOut, h.left]⟩
  | cons i l ih =>
    unfold State.handOut
    have hnd := List.nodup_cons.1 h.once
    split
    · next hfree => exact ⟨h.sites, h.units, h.capacity, by rw [h.left]; exact h.once, fun _ => hfree⟩
    · next key rest hfree =>
      dsimp only
      refine ih ?_
      have hfil : (i :: l).filter (· ≠ i) = l := by
        rw [List.filter_cons]
        simp only [ne_eq, not_true_eq_false, decide_false, Bool.false_eq_true, if_false]
        exact List.filter_eq_self.2 fun a ha => by
          have : a ≠ i := fun e => hnd.1 (e ▸ ha)
          simpa using this
      obtain ⟨j, hj⟩ : ∃ j, (s.site i).job = some j := by
        cases hj : (s.site i).job with
        | some j => exact ⟨j, rfl⟩
        | none => exact absurd (by rw [h.left]; simp) ((h.sites i).noJob hj).inList
      have o := (h.sites i).job j hj
      have hk : j.phase = .keyWait := o.inList (by rw [h.left]; simp)
      have hsl : i ∉ l := hnd.1
      set u := (s.setKs { s.ks.bindFront i key rest with
        waitList := (s.ks.bindFront i key rest).waitList.filter (· ≠ i) }) with hu
      have huw : u.ks.waitList = l := by
        show s.ks.waitList.filter (· ≠ i) = l
        rw [h.left, hfil]
      have hst := o.early (by rw [hk]; rfl)
      have hv : (u.setFree []).RestInv i := by
        refine ⟨fun k hk' => (h.sites k).congr rfl rfl (fun _ => rfl) rfl rfl ?_ ?_, h.units, h.capacity,
          by show u.ks.waitList.Nodup; rw [huw]; exact hnd.2, fun _ => rfl⟩
        · have hv : i.val ≠ k.val := fun e => hk' (Fin.ext e.symm)
          simp [hu, State.setFree, KeyStore.bindFront, hv]
        · show k ∈ u.ks.waitList ↔ _
          rw [huw, h.left]; simp [hk']
      have hf : (u.setFree []).FreeSite i := by
        refine ⟨by show (s.site i).job.isSome = true; rw [hj]; rfl, o.touchdown, o.seated, o.driven, o.used,
          (h.sites i).contact o.seated, o.noLink, o.noDieSupply, (o.keyWait hk).2, ?_, hst.2.2, by
            show i ∉ u.ks.waitList; rw [huw]; exact hsl⟩
        cases hd : s.arb.waiting[i] with
        | none => exact hd
        | some d => have := (o.waiting d hd).2.2.1; rw [hst.1] at this; cases this
      have hg : u.giveKey i key = u.doMove i (j.onKey u.unitNumber key) := by
        unfold State.giveKey
        rw [show u.site i = s.site i from rfl, hj]
      have hdone := hv.doRunning hf (onKey_running u.unitNumber j key)
      rw [doMove_setFree] at hdone
      rw [hg]
      refine ⟨fun k => (hdone.sites k).congr rfl rfl (fun _ => rfl) rfl rfl rfl Iff.rfl, hdone.units, hdone.capacity, hnd.2, ?_⟩
      rw [doMove_waitList _ _ _ (by rw [huw]; exact hsl), huw]

theorem State.SiteInv.acceptKeys {s : State} (h : s.SiteInv) (keys : List Key) : (s.acceptKeys keys).SiteInv := by
  unfold State.acceptKeys
  dsimp only
  refine SiteInv.evalPoolLow (State.HandInv.handOut ⟨fun i => ?_, h.units, h.capacity, h.once, rfl⟩)
  exact (h.sites i).congr rfl rfl (fun _ => rfl) rfl rfl rfl Iff.rfl

/-! ### Liftoff completion (R131, R45) -/

theorem noJob_of_not_anyActive {s : State} (h : s.anyActive = false) (i : SiteNo) : (s.site i).job = none := by
  have := List.any_eq_false.1 h i (mem_allSites i)
  simpa [State.active] using this

/-- With no active job and the touchdown state CLEAR, a site needs nothing in progress and no CONTACT while SEATED. -/
structure State.QuietInv (s : State) : Prop where
  clear : s.td.state = .clear
  job : ∀ i, (s.site i).job = none
  noJob : ∀ i, s.NoJobOk i
  contact : ∀ i, (s.site i).posture = .seated → s.condOf i .contact = false
  units : s.arb.inUse = s.arb.unitsInFlight
  capacity : s.arb.inUse ≤ s.cfg.pumpCapacity
  once : s.ks.waitList.Nodup
  waitEmpty : s.ks.waitList ≠ [] → s.ks.free = []

theorem State.QuietInv.siteInv {s : State} (h : s.QuietInv) : s.SiteInv :=
  ⟨fun i => ⟨fun j hj => (by rw [h.job i] at hj; cases hj), fun _ => h.noJob i, h.contact i, fun _ => .inr h.clear⟩,
    h.units, h.capacity, h.once, h.waitEmpty⟩

theorem State.QuietInv.ofSiteInv {s : State} (h : s.SiteInv) (ha : s.anyActive = false) (hc : s.td.state = .clear) :
    s.QuietInv :=
  ⟨hc, noJob_of_not_anyActive ha, fun i => (h.sites i).noJob (noJob_of_not_anyActive ha i),
    fun i => (h.sites i).contact, h.units, h.capacity, h.once, h.waitEmpty⟩

theorem State.QuietInv.congr {s t : State} (h : s.QuietInv) (htd : t.td.state = s.td.state)
    (hj : ∀ i, (t.site i).job = (s.site i).job) (hp : ∀ i, (t.site i).port = (s.site i).port)
    (hc : ∀ i, (t.site i).posture = .seated → t.condOf i .contact = false)
    (ha : t.arb = s.arb) (hcap : t.cfg.pumpCapacity = s.cfg.pumpCapacity) (hk : t.ks = s.ks) : t.QuietInv where
  clear := by rw [htd]; exact h.clear
  job i := by rw [hj]; exact h.job i
  noJob i := by
    obtain ⟨h1, h2, h3, h4, h5⟩ := h.noJob i
    exact ⟨by rw [hp]; exact h1, by rw [ha]; exact h2, by rw [ha]; exact h3, by rw [hk]; exact h4, by rw [hk]; exact h5⟩
  contact := hc
  units := by rw [ha]; exact h.units
  capacity := by rw [ha, hcap]; exact h.capacity
  once := by rw [hk]; exact h.once
  waitEmpty := by rw [hk]; exact h.waitEmpty

theorem State.QuietInv.liftSite {s : State} (h : s.QuietInv) (i : SiteNo) : (s.liftSite i).QuietInv := by
  have hs : ∀ k, ((s.liftSite i).site k) = s.site k ∨ (k = i ∧ (s.liftSite i).site k = (s.site k).liftDone) := by
    intro k
    unfold State.liftSite
    dsimp only
    rw [site_setCond, site_setCond]
    split
    · by_cases e : k = i
      · subst e; exact .inr ⟨rfl, by simp⟩
      · exact .inl (site_setSite_ne _ _ e)
    · exact .inl rfl
  refine h.congr (by simp) (fun k => ?_) (fun k => ?_) (fun k hk => ?_) (by simp) (by simp) (by simp)
  · rcases hs k with e | ⟨-, e⟩ <;> rw [e]; rfl
  · rcases hs k with e | ⟨-, e⟩ <;> rw [e]; rfl
  · rcases hs k with e | ⟨-, e⟩
    · rw [e] at hk
      unfold State.liftSite
      dsimp only
      by_cases e' : k = i
      · subst e'
        rw [condOf_setCond_ne _ _ (.inr (by simp)), condOf_setCond]
      · rw [condOf_setCond_ne _ _ (.inl e'), condOf_setCond_ne _ _ (.inl e')]
        have := h.contact k hk
        split
        · exact this
        · exact this
    · rw [e] at hk; cases hk

theorem State.SiteInv.completeLift {s : State} (h : s.SiteInv) (ha : s.anyActive = false) : s.completeLift.SiteInv := by
  have h0 : (s.setTd { s.td with state := .clear, deferred := none, liftCount := 0 }).QuietInv :=
    ⟨rfl, noJob_of_not_anyActive ha, fun i => ⟨((h.sites i).noJob (noJob_of_not_anyActive ha i)).1,
      ((h.sites i).noJob (noJob_of_not_anyActive ha i)).2, ((h.sites i).noJob (noJob_of_not_anyActive ha i)).3,
      ((h.sites i).noJob (noJob_of_not_anyActive ha i)).4, ((h.sites i).noJob (noJob_of_not_anyActive ha i)).5⟩,
      fun i => (h.sites i).contact, h.units, h.capacity, h.once, h.waitEmpty⟩
  have h1 := foldl_inv State.QuietInv State.liftSite (fun _ i h => h.liftSite i) allSites _ h0
  unfold State.completeLift
  dsimp only
  split
  · exact SiteInv.congr h1.siteInv rfl rfl (fun _ _ => rfl) rfl rfl rfl rfl rfl
  · exact h1.siteInv

theorem State.SiteInv.finishLift {s : State} (h : s.SiteInv) : s.finishLift.SiteInv := by
  unfold State.finishLift
  split
  · next hc => exact h.completeLift (by simp only [Bool.and_eq_true, Bool.not_eq_true'] at hc; exact hc.2)
  · exact h

theorem State.SiteInv.forSites {s : State} (h : s.SiteInv) (f : State → SiteNo → State)
    (hf : ∀ (s : State) (i : SiteNo), s.SiteInv → (f s i).SiteInv) : (Sys2Proof.Machine.forSites f s).SiteInv :=
  foldl_inv State.SiteInv f (fun s i h => hf s i h) allSites s h

end Sys2Proof.Machine
end

