-- ==== Sys2Proof/Laws/LogInv.lean ====
section
/-!
SUPPORT. The shared operations keep the Issue Log's account (State.LogInv) and its sequence numbers (State.SeqInv).
-/
namespace Sys2Proof.Machine

/-! ### Sequence numbers (R139, R140) -/

theorem followOn_append {l : List Record} {r : Record} (h : followOn l)
    (hr : ∀ a, l.getLast? = some a → r.seq = nextNumber a.seq) : followOn (l ++ [r]) := by
  induction l with
  | nil => trivial
  | cons a l ih =>
    cases l with
    | nil => exact ⟨hr a rfl, trivial⟩
    | cons b l => exact ⟨h.1, ih h.2 (fun x hx => hr x (by simpa [List.getLast?_cons_cons] using hx))⟩

theorem followOn_drop {l : List Record} (h : followOn l) (n : Nat) : followOn (l.drop n) := by
  induction n generalizing l with
  | zero => exact h
  | succ n ih =>
    cases l with
    | nil => trivial
    | cons a l =>
      refine ih ?_
      cases l with
      | nil => trivial
      | cons b l => exact h.2

theorem nextNumber_ne_zero (n : BitVec 32) : nextNumber n ≠ 0 := by
  unfold nextNumber
  split
  · decide
  · intro h
    have : n = 0xFFFFFFFF := by
      have := congrArg (· - 1) h
      simpa using this
    contradiction

theorem State.SeqInv.congr {s t : State} (h : s.SeqInv) (hr : t.log.records = s.log.records)
    (hn : t.log.nextSeq = s.log.nextSeq) : t.SeqInv :=
  ⟨by rw [hn]; exact h.nextNonzero, by rw [hr]; exact h.nonzero, by rw [hr]; exact h.chain, by rw [hr, hn]; exact h.last⟩

/-- The log after a job end. -/
theorem endJob_log (s : State) (i : SiteNo) (o : JobOutcome) {j : Job} (h : (s.site i).job = some j) :
    ∃ r, r.seq = s.log.nextSeq ∧ (s.endJob i o).log = s.log.append r := by
  unfold State.endJob
  rw [h]
  dsimp only
  rw [latchGlobal_log, setJob_log]
  split
  · refine ⟨(s.changeCond i .link true).recordOf i j o, ?_, ?_⟩
    · simp [State.recordOf]
    · simp [State.accountEnd]
  · exact ⟨s.recordOf i j o, rfl, rfl⟩

theorem State.SeqInv.endJob {s : State} (h : s.SeqInv) (i : SiteNo) (o : JobOutcome) : (s.endJob i o).SeqInv := by
  cases hj : (s.site i).job with
  | none => unfold State.endJob; rw [hj]; exact h
  | some j =>
    obtain ⟨r, hr, hl⟩ := endJob_log s i o hj
    refine ⟨?_, ?_, ?_, ?_⟩ <;> rw [hl]
    · exact nextNumber_ne_zero _
    · intro x hx
      rcases List.mem_append.1 hx with hx | hx
      · exact h.nonzero x hx
      · rw [List.mem_singleton.1 hx, hr]; exact h.nextNonzero
    · exact followOn_append h.chain (fun a ha => by rw [hr]; exact h.last a ha)
    · intro x hx
      have : r = x := by simpa [IssueLog.append] using hx
      rw [← this, hr]; rfl

theorem State.SeqInv.doMove {s : State} (h : s.SeqInv) (i : SiteNo) (m : Move) : (s.doMove i m).SeqInv := by
  unfold State.doMove
  cases m.2 with
  | finish o => exact SeqInv.endJob (s := s.setJob i (some m.1)) (h.congr rfl rfl) i o
  | wait | send | request | bind => exact h.congr rfl rfl

theorem State.SeqInv.abort {s : State} (h : s.SeqInv) (i : SiteNo) (p : PendingEnd) : (s.abort i p).SeqInv := by
  unfold State.abort
  split
  · exact h
  · split
    · exact h
    · exact SeqInv.doMove (h.congr (by simp) (by simp)) _ _

theorem State.SeqInv.request {s : State} (h : s.SeqInv) (i : SiteNo) (d : Nat) : (s.request i d).SeqInv := by
  unfold State.request
  split
  · exact h.abort _ _
  · exact h.congr (by simp) (by simp)

theorem State.SeqInv.giveKey {s : State} (h : s.SeqInv) (i : SiteNo) (k : Key) : (s.giveKey i k).SeqInv := by
  unfold State.giveKey
  split
  · exact h
  · exact h.doMove _ _

theorem State.SeqInv.bindRequest {s : State} (h : s.SeqInv) (i : SiteNo) : (s.bindRequest i).SeqInv := by
  unfold State.bindRequest
  split
  · next key rest _ =>
    have hg := SeqInv.giveKey (s := s.setKs (s.ks.bindFront i key rest)) (h.congr rfl rfl) i key
    exact hg.congr (by simp) (by simp)
  · exact h.congr (by simp) (by simp)

theorem State.SeqInv.perform {s : State} (h : s.SeqInv) (i : SiteNo) (m : Move) : (s.perform i m).SeqInv := by
  unfold State.perform
  split
  · exact SeqInv.request (s := s.setJob i (some m.1)) (h.congr rfl rfl) _ _
  · exact SeqInv.bindRequest (s := s.setJob i (some m.1)) (h.congr rfl rfl) _
  · exact h.doMove _ _

theorem State.SeqInv.driveCut {s : State} (h : s.SeqInv) (i : SiteNo) (o : JobOutcome) : (s.driveCut i o).SeqInv := by
  unfold State.driveCut
  split
  · exact h
  · exact SeqInv.endJob (h.congr (by simp) (by simp)) _ _

theorem State.SeqInv.exchangeEnded {s : State} (h : s.SeqInv) (i : SiteNo) (c : DieCmd) (e : Ending) :
    (s.exchangeEnded i c e).SeqInv := by
  have h2 : (if c.isPulse then (s.setExch i none).release i else s.setExch i none).SeqInv := by
    split <;> exact h.congr (by simp) (by simp)
  unfold State.exchangeEnded
  dsimp only
  split
  · exact h2.perform _ _
  · exact h2

theorem State.SeqInv.attemptEnded {s : State} (h : s.SeqInv) (i : SiteNo) (x : Exchange) (e : Ending) :
    (s.attemptEnded i x e).SeqInv := by
  unfold State.attemptEnded
  dsimp only
  split
  · exact h.congr (by simp) (by simp)
  · exact SeqInv.exchangeEnded (h.congr (by simp) (by simp)) _ _ _

theorem State.SeqInv.handOut {s : State} (h : s.SeqInv) (l : List SiteNo) : (State.handOut l s).SeqInv := by
  induction l generalizing s with
  | nil => exact h
  | cons i l ih =>
    unfold State.handOut
    split
    · exact h
    · refine ih (SeqInv.giveKey ?_ _ _)
      exact h.congr rfl rfl

theorem State.SeqInv.finishLift {s : State} (h : s.SeqInv) : s.finishLift.SeqInv := h.congr (by simp) (by simp)

theorem State.SeqInv.testAdmission {s : State} (h : s.SeqInv) (i : SiteNo) : (s.testAdmission i).SeqInv :=
  h.congr (by simp) (by simp)

/-! ### Slots, reservations and slot waiters (R134 to R138) -/

/-- What an operation leaves as it was, as far as the log's account reads it. -/
structure Beside (s t : State) : Prop where
  posture : ∀ k, (t.site k).posture = (s.site k).posture
  used : ∀ k, (t.site k).used = (s.site k).used
  queue : ∀ k, (t.site k).queue = (s.site k).queue
  active : ∀ k, t.active k = s.active k
  td : t.td.state = s.td.state
  dieSupply : ∀ k, t.condOf k .dieSupply = s.condOf k .dieSupply
  log : t.log = s.log

theorem Beside.refl (s : State) : Beside s s := ⟨fun _ => rfl, fun _ => rfl, fun _ => rfl, fun _ => rfl, rfl, fun _ => rfl, rfl⟩

theorem Beside.trans {s t u : State} (h : Beside s t) (g : Beside t u) : Beside s u :=
  ⟨fun k => (g.posture k).trans (h.posture k), fun k => (g.used k).trans (h.used k), fun k => (g.queue k).trans (h.queue k),
    fun k => (g.active k).trans (h.active k), g.td.trans h.td, fun k => (g.dieSupply k).trans (h.dieSupply k),
    g.log.trans h.log⟩

theorem beside_of_sites {s t : State} (hs : ∀ k, t.site k = s.site k) (htd : t.td.state = s.td.state)
    (hd : ∀ k, t.condOf k .dieSupply = s.condOf k .dieSupply) (hl : t.log = s.log) : Beside s t :=
  ⟨fun k => by rw [hs], fun k => by rw [hs], fun k => by rw [hs], fun k => by unfold State.active; rw [hs], htd, hd, hl⟩

/-- One site's controller replaced by one that differs in its job context, its port or its timers alone. -/
theorem beside_setSite (s : State) (i : SiteNo) (c : SiteCtl) (hp : c.posture = (s.site i).posture)
    (hu : c.used = (s.site i).used) (hq : c.queue = (s.site i).queue) (hj : c.job.isSome = (s.site i).job.isSome) :
    Beside s (s.setSite i c) := by
  refine ⟨fun k => ?_, fun k => ?_, fun k => ?_, fun k => ?_, rfl, fun _ => rfl, rfl⟩ <;>
    (by_cases e : k = i; (subst e; simp [State.active, hp, hu, hq, hj]); simp [State.active, site_setSite_ne _ _ e])

theorem beside_setJob {s : State} {i : SiteNo} {j : Job} (j' : Job) (h : (s.site i).job = some j) :
    Beside s (s.setJob i (some j')) := beside_setSite s i _ rfl rfl rfl (by simp [h])

theorem beside_setPort (s : State) (i : SiteNo) (p : Port) : Beside s (s.setPort i p) :=
  beside_setSite s i _ rfl rfl rfl rfl

theorem beside_setArb (s : State) (a : Arbiter) : Beside s (s.setArb a) :=
  beside_of_sites (fun _ => rfl) rfl (fun _ => rfl) rfl

theorem beside_grantOne (s : State) (i : SiteNo) (d : Nat) : Beside s (s.grantOne i d) := by
  refine (beside_setArb s (s.arb.grant i d)).trans ?_
  unfold State.grantOne State.sendPulse
  split
  · next j hj => exact (beside_setJob _ hj).trans (beside_setPort _ _ _)
  · exact Beside.refl _

theorem beside_grantTest (s : State) : Beside s s.grantTest :=
  grantTest_inv (Beside s) (fun t i d h _ _ => h.trans (beside_grantOne t i d)) s (Beside.refl s)

theorem beside_withdraw (s : State) (i : SiteNo) : Beside s (s.withdraw i) := by
  unfold State.withdraw
  split
  · exact (beside_setArb _ _).trans (beside_grantTest _)
  · exact Beside.refl s

theorem beside_release (s : State) (i : SiteNo) : Beside s (s.release i) := by
  unfold State.release
  split
  · exact (beside_setArb _ _).trans (beside_grantTest _)
  · exact Beside.refl s

theorem beside_noteOpenLeft (s : State) (i : SiteNo) (n : Nat) : Beside s (s.noteOpenLeft i n) := by
  unfold State.noteOpenLeft
  split
  · next j hj => exact beside_setJob _ hj
  · exact Beside.refl s

theorem beside_evalPoolLow (s : State) : Beside s s.evalPoolLow :=
  beside_of_sites (by simp) (by simp) (by simp) (by simp)

theorem beside_evalPoolLowNew (s : State) : Beside s s.evalPoolLowNew :=
  beside_of_sites (by simp) (by simp) (by simp) (by simp)

theorem beside_latchGlobal (s : State) (g : GlobalFlag) : Beside s (s.latchGlobal g) :=
  beside_of_sites (by simp) (by simp) (by simp) (by simp)

theorem Beside.ready {s t : State} (h : Beside s t) (k : SiteNo) : t.readyToAdmit k = s.readyToAdmit k := by
  simp only [State.readyToAdmit, h.td, h.posture, h.used, h.active, h.dieSupply, h.queue]

theorem readyToAdmit_congr {s t : State} {k : SiteNo} (htd : t.td.state = s.td.state) (hs : t.site k = s.site k)
    (hd : t.condOf k .dieSupply = s.condOf k .dieSupply) : t.readyToAdmit k = s.readyToAdmit k := by
  simp only [State.readyToAdmit, State.active, htd, hs, hd]

theorem State.LogInv.beside {s t : State} (h : s.LogInv) (b : Beside s t) : t.LogInv := by
  refine ⟨by rw [b.log]; exact h.room, ?_, fun i hi => ?_⟩
  · rw [b.log, h.account]
    exact List.countP_congr fun k _ => by rw [b.active]
  · rw [b.ready]; exact h.waiters i (by rw [← b.log]; exact hi)

/-- The account alone changes nothing else: the log may change in its LOG_HIGH state. -/
theorem State.LogInv.evalLogHigh {s : State} (h : s.LogInv) : s.evalLogHigh.LogInv := by
  refine ⟨?_, ?_, fun i hi => ?_⟩
  · have := h.room
    simpa [IssueLog.slotsInUse] using this
  · simp only [evalLogHigh_log_reservations, h.account]
    exact List.countP_congr fun k _ => by simp [State.active]
  · rw [readyToAdmit_congr (s := s) (by simp) (by simp) (by simp)]
    exact h.waiters i (by simpa using hi)

theorem countP_one {l : List SiteNo} (hl : l.Nodup) {i : SiteNo} (hi : i ∈ l) {p q : SiteNo → Bool}
    (h : ∀ k, k ≠ i → q k = p k) : l.countP q + (p i).toNat = l.countP p + (q i).toNat := by
  induction l with
  | nil => cases hi
  | cons a l ih =>
    obtain ⟨ha, hl'⟩ := List.nodup_cons.1 hl
    rw [List.countP_cons, List.countP_cons]
    by_cases e : a = i
    · subst e
      have : l.countP q = l.countP p := List.countP_congr fun k hk => by
        rw [h k (fun e => ha (e ▸ hk))]
      rw [this]
      cases p a <;> cases q a <;> simp
    · have := ih hl' (by rcases List.mem_cons.1 hi with h | h; exact absurd h.symm e; exact h)
      rw [h a e]
      omega

/-- The number of active jobs, when one site alone may change. -/
theorem active_count {s t : State} (i : SiteNo) (h : ∀ k, k ≠ i → t.active k = s.active k) :
    allSites.countP t.active + (s.active i).toNat = allSites.countP s.active + (t.active i).toNat :=
  countP_one allSites_nodup (mem_allSites i) h

theorem State.LogInv.endJob {s : State} (h : s.LogInv) (i : SiteNo) (o : JobOutcome) : (s.endJob i o).LogInv := by
  cases hj : (s.site i).job with
  | none => unfold State.endJob; rw [hj]; exact h
  | some j =>
    obtain ⟨r, -, hl⟩ := endJob_log s i o hj
    have hc := active_count (s := s) (t := s.endJob i o) i (fun k hk => by
      unfold State.active; rw [endJob_site_ne _ _ hk])
    have h1 : s.active i = true := by simp [State.active, hj]
    have h2 : (s.endJob i o).active i = false := by unfold State.active; rw [endJob_site]; rfl
    rw [h1, h2] at hc
    have ha := h.account
    have hroom := h.room
    simp only [Bool.toNat_true, Bool.toNat_false] at hc
    refine ⟨?_, ?_, fun k hk => ?_⟩
    · rw [hl]
      simp only [IssueLog.slotsInUse, IssueLog.append, List.length_append, List.length_singleton] at hroom ⊢
      omega
    · rw [hl]
      simp only [IssueLog.append]
      omega
    · have hw := h.waiters k (by simpa using hk)
      obtain ⟨g1, g2, g3, g4, g5, g6⟩ := readyToAdmit_spec hw
      have hki : k ≠ i := by rintro rfl; rw [hj] at g4; cases g4
      rw [readyToAdmit_congr (s := s) (by simp) (endJob_site_ne _ _ hki) (endJob_condOf_ne _ _ (.inl hki))]
      exact hw

theorem State.LogInv.doMove {s : State} (h : s.LogInv) {i : SiteNo} {j : Job} (hj : (s.site i).job = some j) (m : Move) :
    (s.doMove i m).LogInv := by
  have h1 := h.beside (beside_setJob m.1 hj)
  unfold State.doMove
  cases m.2 with
  | finish o => exact h1.endJob i o
  | send c r => exact h1.beside (beside_setPort _ _ _)
  | wait | request | bind => exact h1

theorem State.LogInv.abort {s : State} (h : s.LogInv) (i : SiteNo) (p : PendingEnd) : (s.abort i p).LogInv := by
  unfold State.abort
  split
  · exact h
  · next j hj =>
    split
    · exact h
    · have hw := (withdraw_self s i).1
      refine LogInv.doMove (j := j) ((h.beside (beside_withdraw s i)).beside (beside_setPort _ _ _)) ?_ _
      show (((s.withdraw i).setExch i _).site i).job = some j
      rw [site_setExch, hw]; exact hj

theorem State.LogInv.request {s : State} (h : s.LogInv) (i : SiteNo) (d : Nat) : (s.request i d).LogInv := by
  unfold State.request
  split
  · exact h.abort _ _
  · exact h.beside ((beside_setArb _ _).trans (beside_grantTest _))

theorem State.LogInv.giveKey {s : State} (h : s.LogInv) (i : SiteNo) (k : Key) : (s.giveKey i k).LogInv := by
  unfold State.giveKey
  split
  · exact h
  · next j hj => exact h.doMove hj _

theorem beside_setKs (s : State) (k : KeyStore) : Beside s (s.setKs k) :=
  beside_of_sites (fun _ => rfl) rfl (fun _ => rfl) rfl

theorem State.LogInv.bindRequest {s : State} (h : s.LogInv) (i : SiteNo) : (s.bindRequest i).LogInv := by
  unfold State.bindRequest
  split
  · exact (LogInv.giveKey (h.beside (beside_setKs _ _)) _ _).beside (beside_evalPoolLow _)
  · unfold State.joinWaitList
    split
    · exact h
    · next j hj => exact h.beside ((beside_setKs _ _).trans (beside_setJob (j := j) _ hj))

theorem State.LogInv.perform {s : State} (h : s.LogInv) {i : SiteNo} {j : Job} (hj : (s.site i).job = some j) (m : Move) :
    (s.perform i m).LogInv := by
  unfold State.perform
  split
  · exact (h.beside (beside_setJob _ hj)).request _ _
  · exact (h.beside (beside_setJob _ hj)).bindRequest _
  · exact h.doMove hj _

theorem beside_deselect (s : State) (i : SiteNo) : Beside s (s.deselect i) :=
  beside_of_sites (fun _ => rfl) rfl (fun _ => rfl) rfl

theorem State.LogInv.driveCut {s : State} (h : s.LogInv) (i : SiteNo) (o : JobOutcome) : (s.driveCut i o).LogInv := by
  unfold State.driveCut
  split
  · exact h
  · exact (h.beside ((((beside_setPort _ _ _).trans (beside_deselect _ _)).trans (beside_withdraw _ _)).trans
      (beside_release _ _))).endJob _ _

theorem State.LogInv.exchangeEnded {s : State} (h : s.LogInv) (i : SiteNo) (c : DieCmd) (e : Ending) :
    (s.exchangeEnded i c e).LogInv := by
  have h2 : (if c.isPulse then (s.setExch i none).release i else s.setExch i none).LogInv := by
    split
    · exact h.beside ((beside_setPort _ _ _).trans (beside_release _ _))
    · exact h.beside (beside_setPort _ _ _)
  unfold State.exchangeEnded
  dsimp only
  split
  · next j hj => exact h2.perform hj _
  · exact h2

theorem State.LogInv.attemptEnded {s : State} (h : s.LogInv) (i : SiteNo) (x : Exchange) (e : Ending) :
    (s.attemptEnded i x e).LogInv := by
  unfold State.attemptEnded
  dsimp only
  have h1 := h.beside (beside_deselect s i)
  split
  · exact h1.beside (beside_setPort _ _ _)
  · exact h1.exchangeEnded _ _ _

theorem State.LogInv.handOut {s : State} (h : s.LogInv) (l : List SiteNo) : (State.handOut l s).LogInv := by
  induction l generalizing s with
  | nil => exact h
  | cons i l ih =>
    unfold State.handOut
    split
    · exact h
    · exact ih ((h.beside (beside_setKs _ _)).giveKey _ _)

/-! ### Admission -/

theorem admitHead_site_ne (s : State) {i k : SiteNo} (h : k ≠ i) : (s.admitHead i).site k = s.site k := by
  unfold State.admitHead
  split
  · rfl
  · rw [site_startExchange_ne _ _ _ h]; simp only [site_setLog]; exact site_setSite_ne _ _ h

theorem admitHead_active (s : State) (i : SiteNo) (hq : (s.site i).queue ≠ []) : (s.admitHead i).active i = true := by
  unfold State.admitHead State.active
  split
  · contradiction
  · simp

theorem admitHead_reservations (s : State) (i : SiteNo) (hq : (s.site i).queue ≠ []) :
    (s.admitHead i).log.reservations = s.log.reservations + 1 := by
  unfold State.admitHead
  split
  · contradiction
  · rfl

/-- Admission of a site that is ready, not in the slot-waiter set, with a slot to spare. -/
theorem State.LogInv.admitHead {s : State} (h : s.LogInv) {i : SiteNo} (hr : s.readyToAdmit i = true)
    (hw : s.log.slotWaiters[i] = false) (hroom : s.log.slotsInUse < Config.logSlots) : (s.admitHead i).LogInv := by
  obtain ⟨g1, g2, g3, g4, g5, g6⟩ := readyToAdmit_spec hr
  have hc := active_count (s := s) (t := s.admitHead i) i (fun k hk => by unfold State.active; rw [admitHead_site_ne _ hk])
  rw [admitHead_active s i g6, show s.active i = false by simp [State.active, g4]] at hc
  have ha := h.account
  simp only [Bool.toNat_true, Bool.toNat_false] at hc
  refine ⟨?_, ?_, fun k hk => ?_⟩
  · simp only [IssueLog.slotsInUse, admitHead_log_records, admitHead_reservations s i g6] at hroom ⊢
    omega
  · rw [admitHead_reservations s i g6]; omega
  · rw [admitHead_log_slotWaiters] at hk
    have hki : k ≠ i := by rintro rfl; rw [hw] at hk; cases hk
    rw [readyToAdmit_congr (s := s) (by simp) (admitHead_site_ne _ hki) (condOf_of_mon (by simp) _ _)]
    exact h.waiters k hk

theorem State.LogInv.setSlotWaiter {s : State} (h : s.LogInv) (i : SiteNo) (v : Bool)
    (hv : v = true → s.readyToAdmit i = true) : (s.setSlotWaiter i v).LogInv := by
  refine ⟨h.room, h.account, fun k hk => ?_⟩
  rw [readyToAdmit_congr (s := s) (t := s.setSlotWaiter i v) rfl rfl rfl]
  by_cases e : k = i
  · subst e
    exact hv (by simpa [State.setSlotWaiter] using hk)
  · have hne : i.val ≠ k.val := fun e' => e (Fin.ext e'.symm)
    exact h.waiters k (by simpa [State.setSlotWaiter, hne] using hk)

theorem State.LogInv.testAdmission {s : State} (h : s.LogInv) (i : SiteNo) : (s.testAdmission i).LogInv := by
  unfold State.testAdmission
  split
  · next hc =>
    rw [Bool.and_eq_true, Bool.not_eq_true'] at hc
    unfold State.askSlot
    split
    · next hroom => exact (h.admitHead hc.1 hc.2 hroom).evalLogHigh
    · exact h.setSlotWaiter i true (fun _ => hc.1)
  · exact h

theorem State.LogInv.handSlot {s : State} (h : s.LogInv) (i : SiteNo) : (s.handSlot i).LogInv := by
  unfold State.handSlot
  split
  · next hc =>
    have h1 : s.log.slotWaiters[i] = true := by revert hc; cases s.log.slotWaiters[i] <;> simp
    have h2 : s.log.slotsInUse < Config.logSlots := by revert hc; rw [h1]; simp
    exact (h.setSlotWaiter i false (by simp)).admitHead (h.waiters i h1) (by simp [State.setSlotWaiter]) h2
  · exact h

/-- What changes one site's controller or condition at a site that is not ready, or leaves it ready, keeps the account. -/
theorem State.LogInv.oneSite {s t : State} (h : s.LogInv) (i : SiteNo) (hs : ∀ k, k ≠ i → t.site k = s.site k)
    (htd : t.td.state = s.td.state) (hd : ∀ k, k ≠ i → t.condOf k .dieSupply = s.condOf k .dieSupply) (hl : t.log = s.log)
    (ha : t.active i = s.active i) (hi : s.log.slotWaiters[i] = true → t.readyToAdmit i = true) : t.LogInv := by
  refine ⟨by rw [hl]; exact h.room, ?_, fun k hk => ?_⟩
  · rw [hl, h.account]
    refine List.countP_congr fun k _ => ?_
    by_cases e : k = i
    · subst e; rw [ha]
    · unfold State.active; rw [hs k e]
  · rw [hl] at hk
    by_cases e : k = i
    · subst e; exact hi hk
    · rw [readyToAdmit_congr htd (hs k e) (hd k e)]; exact h.waiters k hk

/-- No site waits for a slot unless a touchdown is open. -/
theorem State.LogInv.noWaiter {s : State} (h : s.LogInv) (hc : s.td.state ≠ .opened) (i : SiteNo) :
    s.log.slotWaiters[i] = false := by
  cases hw : s.log.slotWaiters[i] with
  | false => rfl
  | true => exact absurd (readyToAdmit_spec (h.waiters i hw)).1 hc

theorem State.LogInv.ofNoWaiter {s t : State} (h : s.LogInv) (hc : s.td.state ≠ .opened) (ha : ∀ k, t.active k = s.active k)
    (hl : t.log = s.log) : t.LogInv := by
  refine ⟨by rw [hl]; exact h.room, ?_, fun k hk => ?_⟩
  · rw [hl, h.account]
    exact List.countP_congr fun k _ => by rw [ha]
  · rw [hl, h.noWaiter hc k] at hk; cases hk

theorem State.LogInv.finishLift {s : State} (h : s.LogInv) : s.finishLift.LogInv := by
  unfold State.finishLift
  split
  · next hc =>
    have hne : s.td.state ≠ .opened := by rintro e; rw [e] at hc; cases hc
    have hl : ∀ (u : State) (k i : SiteNo), (u.liftSite i).active k = u.active k := by
      intro u k i
      unfold State.active State.liftSite
      dsimp only
      rw [site_setCond, site_setCond]
      split
      · by_cases e : k = i
        · subst e; simp [SiteCtl.liftDone]
        · rw [site_setSite_ne _ _ e]
      · rfl
    refine h.ofNoWaiter hne (fun k => ?_) (by simp)
    have hf := foldl_keeps (fun u : State => u.active k) State.liftSite (fun u i => hl u k i) allSites
      (s.setTd { s.td with state := .clear, deferred := none, liftCount := 0 })
    have : s.completeLift.active k =
        (allSites.foldl State.liftSite (s.setTd { s.td with state := .clear, deferred := none, liftCount := 0 })).active k := by
      unfold State.completeLift
      dsimp only
      split <;> rfl
    rw [this, hf]
    rfl
  · exact h

end Sys2Proof.Machine
end

