-- ==== Sys2Proof/Laws/Moves.lean ====
section
/-!
SUPPORT. What a site's move comes to, in the words of the statements: one lemma per shared operation that says all it does.
-/
namespace Sys2Proof.Machine

/-! ### Small forms of the operations -/

theorem siteWith_site (s : State) (i : SiteNo) (j : Job) (x : Option Exchange) :
    (s.siteWith i j x).site i = { s.site i with job := some j, port := { (s.site i).port with exch := x } } := by
  simp [State.siteWith]

theorem siteWith_siteWith (s : State) (i : SiteNo) (j j' : Job) (x x' : Option Exchange) :
    (s.siteWith i j x).siteWith i j' x' = s.siteWith i j' x' := by
  simp [State.siteWith, State.setSite, State.site]

/-- A context and exchange that are as they stand change nothing. -/
theorem siteWith_self (s : State) (i : SiteNo) (j : Job) (x : Option Exchange) (hj : (s.site i).job = some j)
    (hx : (s.site i).port.exch = x) : s.siteWith i j x = s := by
  subst hx
  have : (s.site i) = { s.site i with job := some j } := by rw [← hj]
  simp only [State.siteWith]
  rw [← this]
  simp [State.setSite, State.site]

theorem setJob_siteWith (s : State) (i : SiteNo) (j : Job) :
    s.setJob i (some j) = s.siteWith i j (s.site i).port.exch := by
  simp [State.setJob, State.siteWith]

theorem setExch_siteWith (s : State) (i : SiteNo) (j : Job) (x : Option Exchange) (hj : (s.site i).job = some j) :
    s.setExch i x = s.siteWith i j x := by
  simp [State.setExch, State.setPort, State.siteWith, ← hj]

theorem newAttempt_fresh (cfg : Params) (c : DieCmd) (r : Bool) : newAttempt cfg c 1 r = Exchange.fresh cfg c r := rfl

theorem deselect_selectionOver (s : State) (i : SiteNo) : s.deselect i = s.selectionOver i := rfl

theorem doMove_send (s : State) (i : SiteNo) (j : Job) (c : DieCmd) (r : Bool) :
    s.doMove i (j, .send c r) = s.siteWith i j (some (Exchange.fresh s.cfg c r)) := by
  simp only [State.doMove, State.doAct, State.startExchange, newAttempt_fresh]
  rw [setExch_siteWith _ i j _ (by simp), setJob_siteWith, siteWith_siteWith]
  rfl

theorem perform_send (s : State) (i : SiteNo) (j : Job) (c : DieCmd) (r : Bool) :
    s.perform i (j, .send c r) = s.siteWith i j (some (Exchange.fresh s.cfg c r)) := doMove_send s i j c r

theorem perform_wait (s : State) (i : SiteNo) (j : Job) :
    s.perform i (j, .wait) = s.siteWith i j (s.site i).port.exch := setJob_siteWith s i j

/-- A lift does not complete while a job is active. -/
theorem finishLift_active (s : State) (i : SiteNo) (h : s.active i = true) : s.finishLift = s := by
  have : s.anyActive = true := List.any_eq_true.mpr ⟨i, mem_allSites i, h⟩
  simp [State.finishLift, this]

theorem siteWith_active (s : State) (i : SiteNo) (j : Job) (x : Option Exchange) : (s.siteWith i j x).active i = true := by
  simp [State.active, siteWith_site]

/-- One grant at a site leaves every active job active. -/
theorem State.Grants.active {s t : State} (h : s.Grants t) (k : SiteNo) : t.active k = s.active k := by
  refine h.keeps (fun t => t.active k = s.active k) ?_ rfl
  intro u i d hu _
  rw [granted_eq, ← hu]
  by_cases hk : k = i
  · subst hk
    cases hj : (u.site k).job with
    | none => simp [State.active, State.grantOne, State.sendPulse, hj]
    | some j => simp [State.active, grantOne_site u k d hj, hj]
  · simp [State.active, grantOne_site_ne u d hk]

/-! ### Withdrawals, releases and requests as grants -/

/-- A waiting request withdrawn (R115). -/
theorem withdraw_grants (s : State) (i : SiteNo) {d : Nat} (h : s.arb.waiting[i] = some d) :
    (s.unwait i).Grants (s.withdraw i) := by
  simp only [State.withdraw, h, Option.isSome_some, if_true]
  exact grantTest_grants _

theorem withdraw_none (s : State) (i : SiteNo) (h : s.arb.waiting[i] = none) : s.withdraw i = s := by
  simp [State.withdraw, h]

/-- A grant released (R114). -/
theorem release_grants (s : State) (i : SiteNo) {d : Nat} (h : s.arb.inFlight[i] = some d) :
    (s.ungrant i d).Grants (s.release i) := by
  have : s.setArb (s.arb.release i) = s.ungrant i d := by simp [State.setArb, Arbiter.release, State.ungrant, h]
  simp only [State.release, h, Option.isSome_some, if_true, this]
  exact grantTest_grants _

/-- A grant request outside timeout in force joins the waiting set, and the grant test runs (R111). -/
theorem request_grants (s : State) (i : SiteNo) (d : Nat) (h : s.arb.timeoutInForce = false) :
    ({ s with arb := { s.arb with waiting := s.arb.waiting.set i.val (some d) i.isLt } } : State).Grants (s.request i d) := by
  rw [State.request, if_neg (by simp [h])]
  exact grantTest_grants _

/-- A grant request under timeout in force (R119), from a site without an exchange whose row is open. -/
theorem request_timeout (s : State) (i : SiteNo) (d : Nat) (j : Job) (h : s.arb.timeoutInForce = true)
    (hj : (s.site i).job = some j) (hx : (s.site i).port.exch = none) (hw : s.arb.waiting[i] = none)
    (hp : j.phase ≠ .ending) (ho : j.engine.rowOpen = true) :
    s.request i d = s.siteWith i (j.aborting .pumpTimeout).lastClose
      (some (Exchange.fresh s.cfg (.closeRow j.engine.regionRow) false)) := by
  have h1 : s.setExch i (Option.map Exchange.noRetry none) = s := by
    rw [setExch_siteWith s i j _ hj]; exact siteWith_self s i j _ hj hx
  simp only [State.request, h, if_true, State.abort, hj, hp, if_false, hx, withdraw_none s i hw, h1]
  simp only [Job.onAbort, Option.isSome_none, Bool.false_eq_true, if_false, Job.endingNext, ho, if_true]
  rw [doMove_send]
  rfl

/-! ### The open-time guard -/

/-- The guard does what R93, R95, R96, R97, R111 and R119 say. -/
theorem guardChunk_turns (s : State) (i : SiteNo) (j : Job) (hp : j.phase ≠ .ending)
    (hx : (s.site i).port.exch = none) (hw : s.arb.waiting[i] = none) :
    s.TurnsToChunk i j (s.perform i (Job.guardChunk s.cfg j)) := by
  intro chunk tl hc
  refine ⟨fun n ho hn => ⟨fun he hle => ?_, fun hor => ?_⟩, fun ho hn he => ?_, fun ho => ?_⟩
  · have hm : Job.guardChunk s.cfg j =
        ({ j with engine := { j.engine with stage := .grantWait } }, .request (cellCount chunk)) := by
      simp [Job.guardChunk, ho, he, hn, hle, hc]
    have hs : (s.setJob i (some ({ j with engine := { j.engine with stage := .grantWait } } : Job))) =
        s.siteWith i { j with engine := { j.engine with stage := .grantWait } } none := by rw [setJob_siteWith, hx]
    rw [hm]
    refine ⟨fun ht => ?_, fun ht => ?_⟩
    · simp only [State.perform, hs]
      exact request_grants _ _ _ ht
    · simp only [State.perform, hs]
      refine (request_timeout (s.siteWith i { j with engine := { j.engine with stage := .grantWait } } none) i _
        { j with engine := { j.engine with stage := .grantWait } } ht (by rw [siteWith_site]) (by rw [siteWith_site])
        hw hp ho).trans ?_
      rw [siteWith_siteWith]
      rfl
  · have hm : Job.guardChunk s.cfg j = j.closeRow .chunk := by
      rcases hor with he | hlt
      · simp [Job.guardChunk, ho, he]
      · simp [Job.guardChunk, ho, hn, Nat.not_le.mpr hlt]
    rw [hm]
    exact perform_send s i _ _ _
  · have hm : Job.guardChunk s.cfg j = j.closeRow .chunk := by simp [Job.guardChunk, ho, he]
    rw [hm]
    exact perform_send s i _ _ _
  · have hm : Job.guardChunk s.cfg j = j.reopen := by simp [Job.guardChunk, ho]
    rw [hm]
    refine ⟨fun h4 => ?_, fun h4 => ⟨fun r hr => ?_, fun hr => ?_⟩⟩
    · have : j.reopen = (({ j with engine := { j.engine with chunks := [] } } : Job).verifying,
          .send (.sense j.engine.regionRow .normal) true) := by
        simp [Job.reopen, h4, Job.goVerify, Job.verifying, ← ho]
      rw [this]
      exact perform_send s i _ _ _
    · have : j.reopen = ({ j with engine := { j.engine with stage := .resting } }, .wait) := by
        simp [Job.reopen, Nat.not_le.mpr h4, hr]
      rw [this, perform_wait, hx]
    · have : j.reopen = j.openAgain := by simp [Job.reopen, Nat.not_le.mpr h4, hr]
      rw [this]
      have he : j.openAgain = ({ j with engine := { j.engine with
          stage := .opening, rowOpen := true, reopens := j.engine.reopens + 1 } },
          .send (.openRow j.engine.regionRow) true) := by
        simp [Job.openAgain, ← hr]
      rw [he]
      exact perform_send s i _ _ _

/-! ### The end of an attempt -/

/-- The bytes that complete a response are taken whole (R67). -/
theorem takeDdi_all (held bs : List Byte) (h : (held ++ bs).length ≤ 6) (h0 : (held ++ bs).head? ≠ some 0) :
    takeDdi held bs = held ++ bs := by
  induction bs generalizing held with
  | nil => simp [takeDdi]
  | cons b bs ih =>
    have hl : held.length < 6 := by simp at h; omega
    unfold takeDdi
    rw [if_neg (by omega), if_neg, ih (held ++ [b]) (by simpa using h) (by simpa using h0)]
    · simp
    · cases held with
      | nil => simpa using h0
      | cons a l => simp

/-- An event that ends an attempt (R66, R67) notes the time left on the open timer and ends it. -/
theorem exec_endsAttempt (s : State) (i : SiteNo) (x : Exchange) (m left : Nat) (c : Instr) (e : Ending)
    (hx : (s.site i).port.exch = some x) (hm : x.timer = some m) (h : endsAttempt c i left x.rx e) :
    exec c s = .next ((s.noteOpenLeft i left).attemptEnded i x e).finishLift := by
  rcases h with ⟨rfl, rfl⟩ | ⟨bs, rfl, hl, h0, rfl⟩
  · simp [exec, execDieResponseDeadlineExpiry, hx, hm]
  · have ht := takeDdi_all x.rx bs hl.le h0
    simp only [exec, execDieResponseComplete, hx, hm, arrives, ht, hl]
    simp

theorem noteOpenLeft_deselect (s : State) (i : SiteNo) (left : Nat) (j : Job) (hj : (s.site i).job = some j) :
    (s.noteOpenLeft i left).deselect i = (s.selectionOver i).siteWith i (j.noteOpenLeft left) (s.site i).port.exch := by
  simp only [State.noteOpenLeft, hj]
  rfl

/-- An attempt that is retried (R69). -/
theorem attemptEnded_retried (s : State) (i : SiteNo) (j : Job) (x : Exchange) (left : Nat) (e : Ending)
    (hj : (s.site i).job = some j) (hr : x.retries e = true) :
    (s.noteOpenLeft i left).attemptEnded i x e = (s.selectionOver i).siteWith i (j.noteOpenLeft left)
      (some (newAttempt s.cfg x.cmd 2 x.retry)) := by
  simp only [State.attemptEnded, hr, if_true, noteOpenLeft_deselect s i left j hj]
  rw [setExch_siteWith _ i (j.noteOpenLeft left) _ (by rw [siteWith_site]), siteWith_siteWith]
  rfl

/-- An exchange that ends (R66, R70): the port is free, a pulse's units are released, and the job goes on. -/
theorem attemptEnded_ended (s : State) (i : SiteNo) (j : Job) (x : Exchange) (left : Nat) (e : Ending)
    (hj : (s.site i).job = some j) (hr : x.retries e = false) (hw : s.arb.waiting[i] = none ∨ x.cmd.isPulse = false) :
    ∃ v : State, (s.noteOpenLeft i left).attemptEnded i x e =
        v.perform i ((j.noteOpenLeft left).onExchange s.cfg x.cmd e) ∧
      (x.cmd.isPulse = false → v = (s.selectionOver i).siteWith i (j.noteOpenLeft left) none) ∧
      (∀ d, x.cmd.isPulse = true → s.arb.inFlight[i] = some d →
        (((s.selectionOver i).siteWith i (j.noteOpenLeft left) none).ungrant i d).Grants v) ∧
      v.site i = { s.site i with job := some (j.noteOpenLeft left), port := { (s.site i).port with exch := none } } ∧
      v = { s.selectionOver i with arb := v.arb, sites := v.sites } ∧
      (s.arb.waiting[i] = none → v.arb.waiting[i] = none) := by
  have h1 : ((s.noteOpenLeft i left).deselect i).setExch i none =
      (s.selectionOver i).siteWith i (j.noteOpenLeft left) none := by
    rw [noteOpenLeft_deselect s i left j hj, setExch_siteWith _ i (j.noteOpenLeft left) _ (by rw [siteWith_site]),
      siteWith_siteWith]
  by_cases hp : x.cmd.isPulse = true
  · have hwn : s.arb.waiting[i] = none := hw.resolve_right (by simp [hp])
    generalize hu : (s.selectionOver i).siteWith i (j.noteOpenLeft left) none = u at h1 ⊢
    have huw : u.arb.waiting[i] = none := by rw [← hu]; exact hwn
    have huf : u.arb.inFlight[i] = s.arb.inFlight[i] := by rw [← hu]; rfl
    have huc : u.cfg = s.cfg := by rw [← hu]; rfl
    have hus : u.site i = { s.site i with
        job := some (j.noteOpenLeft left), port := { (s.site i).port with exch := none } } := by
      rw [← hu, siteWith_site]; rfl
    have hself := release_self u i huw
    have hframe : u.release i = { u with arb := (u.release i).arb, sites := (u.release i).sites } := by
      cases hf : u.arb.inFlight[i] with
      | none => rw [show u.release i = u from if_neg (by simp [hf])]
      | some d => exact (release_grants u i hf).frame
    refine ⟨u.release i, ?_, by simp [hp], ?_, hself.1.trans hus, ?_, fun _ => hself.2.1⟩
    · have hc : (u.release i).cfg = s.cfg := by rw [hframe]; exact huc
      simp only [State.attemptEnded, hr, Bool.false_eq_true, if_false, State.exchangeEnded, h1, hp, if_true, hself.1, hus,
        hc]
    · exact fun d _ hd => release_grants u i (huf.trans hd)
    · rw [hframe, ← hu]; rfl
  · have hp' : x.cmd.isPulse = false := by simpa using hp
    refine ⟨(s.selectionOver i).siteWith i (j.noteOpenLeft left) none, ?_, fun _ => rfl, by simp [hp'], ?_, rfl, id⟩
    · simp only [State.attemptEnded, hr, Bool.false_eq_true, if_false, State.exchangeEnded, h1, hp', siteWith_site]
      rfl
    · rw [siteWith_site]; rfl

/-! ### Job ends -/

/-- What liftoff completion leaves at a site, and of the monitor's flags. -/
theorem finishLift_keeps (s : State) (k : SiteNo) :
    (s.finishLift.site k).job = (s.site k).job ∧ (s.finishLift.site k).port = (s.site k).port ∧
      (s.finishLift.site k).queue = (s.site k).queue ∧ (s.finishLift.site k).used = (s.site k).used ∧
      (s.finishLift.smon k).flags = (s.smon k).flags ∧ (s.finishLift.smon k).cond.link = (s.smon k).cond.link ∧
      s.finishLift.mon.flags = s.mon.flags := by
  unfold State.finishLift
  split
  · let f := fun u : State => ((u.site k).job, (u.site k).port, (u.site k).queue, (u.site k).used, (u.smon k).flags,
      (u.smon k).cond.link, u.mon.flags)
    have h1 : ∀ (u : State) (i : SiteNo), f (u.liftSite i) = f u := by
      intro u i
      simp only [f, State.liftSite, site_setCond]
      by_cases e : i = k
      · subst e
        split <;> simp [State.setCond, State.setSmon, State.smon, SiteBits.put, SiteCtl.liftDone, State.setSite, State.site]
      · have e' : i.val ≠ k.val := fun h => e (Fin.ext h)
        split <;> simp [State.setCond, State.setSmon, State.smon, State.setSite, State.site, e']
    have h2 := foldl_keeps f State.liftSite h1 allSites (s.setTd { s.td with state := .clear, deferred := none, liftCount := 0 })
    have h3 : f s.completeLift =
        f (allSites.foldl State.liftSite (s.setTd { s.td with state := .clear, deferred := none, liftCount := 0 })) := by
      simp only [f, State.completeLift, forSites]
      split <;> rfl
    have h4 : f s.completeLift = f s := h3.trans h2
    simpa [f] using h4
  · simp

/-- The throttle test changes no flag and no condition state (R153). -/
theorem flags_throttle (s : State) (sc : Scope) : (s.throttle sc).mon.flags = s.mon.flags := by
  unfold State.throttle
  split
  · cases sc <;> rfl
  · rfl

theorem smon_throttle (s : State) (sc : Scope) (i : SiteNo) :
    ((s.throttle sc).smon i).flags = (s.smon i).flags ∧ ((s.throttle sc).smon i).cond = (s.smon i).cond := by
  unfold State.throttle
  split
  · cases sc with
    | global => exact ⟨rfl, rfl⟩
    | site k =>
      by_cases e : k.val = i.val
      · have : k = i := Fin.ext e
        subst this
        simp [State.setPending, State.setSmon, State.push, State.smon]
      · simp [State.setPending, State.setSmon, State.push, State.smon, e]
  · exact ⟨rfl, rfl⟩

/-- The flags after a report of a global flag and after a change of a site condition (R150, R151). -/
theorem flags_latchGlobal (s : State) (g : GlobalFlag) : (s.latchGlobal g).mon.flags = s.mon.flags.put g true :=
  flags_throttle _ _

theorem smon_latchGlobal (s : State) (g : GlobalFlag) (i : SiteNo) :
    ((s.latchGlobal g).smon i).flags = (s.smon i).flags ∧ ((s.latchGlobal g).smon i).cond = (s.smon i).cond :=
  smon_throttle _ _ _

theorem flags_changeCond (s : State) (i : SiteNo) (c : SiteCond) (v : Bool) :
    (s.changeCond i c v).mon.flags = s.mon.flags := flags_throttle _ _

theorem smon_changeCond (s : State) (i : SiteNo) (c : SiteCond) (v : Bool) :
    ((s.changeCond i c v).smon i).flags = (s.smon i).flags.put c true ∧
      ((s.changeCond i c v).smon i).cond = (s.smon i).cond.put c v := by
  unfold State.changeCond State.latchSite
  rw [(smon_throttle _ _ _).1, (smon_throttle _ _ _).2]
  simp [State.setCond, State.setSmon, State.smon]

/-- What a job end does to its site's context, the log, the Key Store and the flags (R55, R71). -/
theorem endJob_all (s : State) (i : SiteNo) (j : Job) (o : JobOutcome) (hj : (s.site i).job = some j) :
    (s.endJob i o).site i = { s.site i with job := none } ∧
      (s.endJob i o).log = s.log.append (s.lastRecord i j o) ∧
      (s.endJob i o).ks = { s.ks with
        bound := s.ks.bound.set i.val none i.isLt, waitList := s.ks.waitList.filter (fun k => decide (k ≠ i)) } ∧
      (s.endJob i o).mon.flags = { s.mon.flags with recordAdded := true } ∧
      ((s.endJob i o).smon i).flags =
        (if o = .linkLost then { (s.smon i).flags with link := true } else (s.smon i).flags) ∧
      ((s.endJob i o).smon i).cond.link = (if o = .linkLost then true else (s.smon i).cond.link) := by
  refine ⟨endJob_site s i o, ?_, endJob_ks s o (by simp [hj]), ?_⟩
  · have hr : s.recordOf i j o = s.lastRecord i j o := by
      simp only [State.recordOf, State.lastRecord, dispositionOf, JobOutcome.positive]
      congr 1
      · cases s.ks.bound[i] <;> simp
      · cases o <;> rfl
    rw [← hr]
    unfold State.endJob
    rw [hj]
    dsimp only
    rw [latchGlobal_log, setJob_log]
    split <;> simp [State.recordOf, State.accountEnd]
  · unfold State.endJob
    rw [hj]
    dsimp only
    split
    · have h := smon_changeCond s i .link true
      refine ⟨(flags_latchGlobal _ _).trans ?_, (smon_latchGlobal _ _ i).1.trans h.1, ?_⟩
      · show (s.changeCond i .link true).mon.flags.put .recordAdded true = _
        rw [flags_changeCond]; rfl
      · rw [(smon_latchGlobal _ _ i).2]
        exact congrArg SiteBits.link h.2
    · refine ⟨flags_latchGlobal _ _, (smon_latchGlobal _ _ i).1, ?_⟩
      rw [(smon_latchGlobal _ _ i).2]; rfl

/-- A job end that follows at its site's exchange or act (R55), with the liftoff completion that may follow, in the terms of the
state before the event: whatever the event did before to the arbiter, the sites and the dies. -/
theorem jobEnded_finish (s v : State) (i : SiteNo) (j j0 : Job) (o : JobOutcome)
    (hj : v.site i = { s.site i with job := some j0, port := { (s.site i).port with exch := none } })
    (hl : v.log = s.log) (hk : v.ks = s.ks) (hm : v.mon = s.mon) :
    s.JobEnded ((v.doMove i (j, .finish o)).finishLift) i j o ∧
      ((v.doMove i (j, .finish o)).finishLift.smon i).flags =
        (if o = .linkLost then { (s.smon i).flags with link := true } else (s.smon i).flags) ∧
      ((v.doMove i (j, .finish o)).finishLift.smon i).cond.link =
        (if o = .linkLost then true else (s.smon i).cond.link) := by
  obtain ⟨k1, k2, k3, k4, k5, k6, k7⟩ := finishLift_keeps ((v.setJob i (some j)).endJob i o) i
  obtain ⟨e1, e2, e3, e4, e5, e6⟩ := endJob_all (v.setJob i (some j)) i j o (by simp)
  have hs : (v.setJob i (some j)).site i = { s.site i with job := some j, port := { (s.site i).port with exch := none } } := by
    rw [site_setJob, hj]
  have hr : (v.setJob i (some j)).lastRecord i j o = s.lastRecord i j o := by simp [State.lastRecord, hl, hk]
  have hsm : (v.setJob i (some j)).smon i = s.smon i := by simp [State.smon, hm]
  show s.JobEnded (((v.setJob i (some j)).endJob i o).finishLift) i j o ∧ _
  refine ⟨⟨?_, ?_, ⟨?_, ?_⟩, ?_, ?_, ?_, ?_⟩, ?_, ?_⟩
  · rw [k1, e1]
  · rw [k2, e1, hs]
  · rw [k3, e1, hs]
  · rw [k4, e1, hs]
  · rw [finishLift_log, e2, hr]; simp [IssueLog.append, hl]
  · rw [finishLift_log, e2]; simp [IssueLog.append, hl]
  · rw [finishLift_ks, e3]; simp [hk]
  · rw [k7, e4]; simp [hm]
  · exact k5.trans (e5.trans (by rw [hsm]))
  · exact k6.trans (e6.trans (by rw [hsm]))

/-- What liftoff completion does to Touchdown Control (R131). -/
theorem completeLift_td (s : State) :
    s.completeLift.td = { s.td with state := .clear, deferred := none, liftCount := 0 } := by
  have h : ∀ (u : State) (i : SiteNo), (u.liftSite i).td = u.td := by
    intro u i; simp only [State.liftSite]; split <;> simp [State.setCond, State.setSmon]
  have := foldl_keeps (fun u : State => u.td) State.liftSite h allSites
    (s.setTd { s.td with state := .clear, deferred := none, liftCount := 0 })
  unfold State.completeLift forSites
  split <;> exact this

/-- Liftoff completion leaves every site as it is while the touchdown state does not change. -/
theorem finishLift_still (s : State) (h : s.finishLift.td.state = s.td.state) : s.finishLift = s := by
  unfold State.finishLift at h ⊢
  split
  · rename_i hc
    rw [if_pos hc, completeLift_td] at h
    rw [← h] at hc
    exact absurd hc (by simp [TdState.lifting])
  · rfl

/-- What a job end does to Touchdown Control before a completion (R130). -/
theorem endJob_td (s : State) (i : SiteNo) (j : Job) (o : JobOutcome) (hj : (s.site i).job = some j) :
    (s.endJob i o).td = s.td.countEnd := by
  unfold State.endJob
  rw [hj]
  dsimp only
  split <;> simp [State.accountEnd, State.setJob]

/-- A job end leaves alone what `OnlyEnds` says, the liftoff completion that may follow included (R55, R130, R131). -/
theorem onlyEnds_endJob (s v : State) (i : SiteNo) (j : Job) (o : JobOutcome) (hj : (v.site i).job = some j)
    (hs : ∀ k : SiteNo, k ≠ i → v.site k = s.site k) (hp : (v.site i).posture = (s.site i).posture)
    (ha : v.arb = s.arb) (hc : v.cfg = s.cfg) (hd : v.dies = s.dies) (ht : v.td = s.td) :
    s.OnlyEnds (v.endJob i o).finishLift i := by
  have h1 := (endJob_all v i j o hj).1
  have htd := endJob_td v i j o hj
  have h2 : ∀ k : SiteNo, k ≠ i → (v.endJob i o).site k = s.site k := fun k hk => by rw [endJob_site_ne _ _ hk, hs k hk]
  have hany : (v.endJob i o).anyActive = true ↔ ∃ k : SiteNo, k ≠ i ∧ s.active k = true := by
    simp only [State.anyActive, List.any_eq_true]
    constructor
    · rintro ⟨k, _, hk⟩
      by_cases e : k = i
      · subst e; simp [State.active, h1] at hk
      · exact ⟨k, e, by simpa [State.active, h2 k e] using hk⟩
    · rintro ⟨k, e, hk⟩
      exact ⟨k, mem_allSites k, by simpa [State.active, h2 k e] using hk⟩
  have htd' : (v.endJob i o).finishLift.td = s.tdAfterEnd i := by
    unfold State.finishLift State.tdAfterEnd
    rw [htd, ht]
    unfold Touchdown.countEnd
    cases hl : s.td.state.lifting with
    | false => simp [hl, htd, ht, Touchdown.countEnd]
    | true =>
      simp only [hl, if_true, Bool.true_and, ← hany]
      cases (v.endJob i o).anyActive <;> simp [completeLift_td, htd, ht, Touchdown.countEnd, hl]
  refine ⟨fun k hk => ?_, by simp [ha], by simp [hc], by simp [hd], htd', fun hst => ?_⟩
  · obtain ⟨a, b, _⟩ := finishLift_keeps (v.endJob i o) k
    rw [a, b, h2 k hk]; exact ⟨rfl, rfl⟩
  · rw [finishLift_still _ (hst.trans (by simp [ht]))]
    exact ⟨h2, by rw [h1]; exact hp⟩

/-- A job context that is as it stands changes nothing. -/
theorem setJob_self (s : State) (i : SiteNo) (j : Job) (hj : (s.site i).job = some j) : s.setJob i (some j) = s := by
  rw [setJob_siteWith]; exact siteWith_self s i j _ hj rfl

/-- A job end from a state whose site has no exchange left (R55), with the liftoff completion that may follow. -/
theorem jobEnded_endJob (v : State) (i : SiteNo) (j : Job) (o : JobOutcome) (hj : (v.site i).job = some j)
    (hx : (v.site i).port.exch = none) : v.JobEnded (v.endJob i o).finishLift i j o := by
  have hself : v.site i = { v.site i with job := some j, port := { (v.site i).port with exch := none } } := by rw [← hx, ← hj]
  have h := (jobEnded_finish v v i j j o hself rfl rfl rfl).1
  rwa [show v.doMove i (j, .finish o) = v.endJob i o from by
    show (v.setJob i (some j)).endJob i o = _; rw [setJob_self v i j hj]] at h

theorem undriven_site (r : State) (i : SiteNo) :
    (r.undriven i).site i = { r.site i with port := { driven := false, exch := none } } := by
  show (({ r with log := { r.log with slotWaiters := r.log.slotWaiters.set i.val false i.isLt } } : State).setSite i
    { r.site i with port := { driven := false, exch := none } }).site i = _
  simp

/-- A drive cut (R44, R56, R114, R115): from the site undriven, the withdrawal with its grants, the release with its grants, and
the job end. -/
theorem driveCut_grants (r : State) (i : SiteNo) (j : Job) (o : JobOutcome) (hj : (r.site i).job = some j) :
    ∃ v w : State,
      (r.setSlotWaiter i false).driveCut i o = w.endJob i (if j.phase = .ending then j.abortOutcome else o) ∧
      (r.arb.waiting[i] = none → v = r.undriven i) ∧
      (∀ d, r.arb.waiting[i] = some d → ((r.undriven i).unwait i).Grants v) ∧
      (r.arb.inFlight[i] = none → w = v) ∧ (∀ d, r.arb.inFlight[i] = some d → (v.ungrant i d).Grants w) ∧
      w.site i = (r.undriven i).site i ∧ w.arb.waiting[i] = none := by
  have hd : (r.setSlotWaiter i false).driveCut i o =
      (((r.undriven i).withdraw i).release i).endJob i (if j.phase = .ending then j.abortOutcome else o) := by
    have hu : ((r.setSlotWaiter i false).setPort i { driven := false, exch := none }).deselect i = r.undriven i := rfl
    unfold State.driveCut
    rw [show ((r.setSlotWaiter i false).site i).job = some j from hj, hu]
  have hA : ((r.undriven i).withdraw i).site i = (r.undriven i).site i ∧ ((r.undriven i).withdraw i).arb.waiting[i] = none ∧
      ((r.undriven i).withdraw i).arb.inFlight[i] = r.arb.inFlight[i] := by
    cases hw : r.arb.waiting[i] with
    | none => rw [withdraw_none (r.undriven i) i hw]; exact ⟨rfl, hw, rfl⟩
    | some d =>
      have h := (withdraw_grants (r.undriven i) i (d := d) hw).other i (by simp [State.unwait])
      exact ⟨h.1, h.2.1, h.2.2⟩
  obtain ⟨a1, a2, a3⟩ := hA
  refine ⟨_, _, hd, fun h => withdraw_none _ _ h, fun d h => withdraw_grants _ _ h, fun h => ?_, fun d h => ?_, ?_⟩
  · simp [State.release, a3, h]
  · exact release_grants _ _ (a3.trans h)
  · cases hf : r.arb.inFlight[i] with
    | none =>
      have : ((r.undriven i).withdraw i).release i = (r.undriven i).withdraw i := by simp [State.release, a3, hf]
      rw [this]; exact ⟨a1, a2⟩
    | some d =>
      have h := (release_grants ((r.undriven i).withdraw i) i (d := d) (a3.trans hf)).other i a2
      exact ⟨h.1.trans a1, h.2.1⟩

/-- POOL_LOW is evaluated (R33): nothing happens, or it changes and latches. -/
theorem evalPoolLow_eq (s : State) : s.evalPoolLow =
    (if poolLowAfter s.ks.poolLow s.cfg.poolLowThreshold s.ks.free.length = s.ks.poolLow then s
    else State.latchGlobal { s with ks := { s.ks with
      poolLow := poolLowAfter s.ks.poolLow s.cfg.poolLowThreshold s.ks.free.length } } .poolLow) := by
  unfold State.evalPoolLow poolLowAfter poolClearLevel State.reportPoolLow State.setKs
  have : Config.keySlots = 1024 := rfl
  rw [this]
  cases s.ks.poolLow with
  | true =>
    simp only [if_true]
    split
    · rw [if_neg (by simp; omega)]; congr 3; simp; omega
    · rw [if_pos (by simp; omega)]
  | false =>
    simp only [Bool.false_eq_true, if_false]
    by_cases h : s.ks.free.length < s.cfg.poolLowThreshold
    · have h0 : 0 < s.cfg.poolLowThreshold := by omega
      simp [h, h0]
    · simp [h]

end Sys2Proof.Machine
end

