-- ==== Sys2Proof/Laws/Latches.lean ====
section
/-!
SUPPORT. What the shared operations do to conditions, change flags and notices, said once: whatever they change they report,
but for the force-clears (R132, R151, R153).
-/
namespace Sys2Proof.Machine

/-- A scope whose latched flags, if any is enabled, have a notice pending. -/
def State.Tested (s : State) (sc : Scope) : Prop := s.enabledFlag sc = true → s.noticePending sc = true

/-- From one state to a later one, every change of a condition has been reported, but for force-clears of the conditions
named, and enables have stood. -/
structure State.Reports (forced : SiteCond → Prop) (s t : State) : Prop where
  /-- The enables stand. -/
  enables : (∀ i, (t.smon i).enable = (s.smon i).enable ∧ (t.smon i).source = (s.smon i).source) ∧
    t.mon.enables = s.mon.enables
  /-- No flag and no pending notice is lost. -/
  flags : ∀ i c, (s.smon i).flags.get c = true → (t.smon i).flags.get c = true
  globals : (s.mon.flags.pump = true → t.mon.flags.pump = true) ∧ (s.mon.flags.poolLow = true → t.mon.flags.poolLow = true) ∧
    (s.mon.flags.logHigh = true → t.mon.flags.logHigh = true) ∧
    (s.mon.flags.recordAdded = true → t.mon.flags.recordAdded = true)
  pending : ∀ sc, s.noticePending sc = true → t.noticePending sc = true
  /-- A scope with a new flag has been tested. -/
  tested : (∀ i, (t.smon i).flags = (s.smon i).flags ∨ t.Tested (.site i)) ∧
    (t.mon.flags = s.mon.flags ∨ t.Tested .global)
  /-- A site condition that differs is reported or force-cleared. -/
  conds : ∀ i c, t.condOf i c ≠ s.condOf i c →
    ((t.smon i).flags.get c = true ∧ t.Tested (.site i)) ∨ (forced c ∧ t.condOf i c = false)
  /-- A global condition that differs is reported. -/
  pump : t.arb.pump ≠ s.arb.pump → t.mon.flags.pump = true ∧ t.Tested .global
  poolLow : t.ks.poolLow ≠ s.ks.poolLow → t.mon.flags.poolLow = true ∧ t.Tested .global
  logHigh : t.log.logHigh ≠ s.log.logHigh → t.mon.flags.logHigh = true ∧ t.Tested .global
  recordAdded : s.log.records.length < t.log.records.length → t.mon.flags.recordAdded = true ∧ t.Tested .global

variable {x : SiteCond → Prop} {s t u : State}

/-- What leaves the monitor and the global conditions alone reports nothing, and need not. -/
theorem State.Reports.quiet (hm : t.mon = s.mon) (hp : t.arb.pump = s.arb.pump) (hk : t.ks.poolLow = s.ks.poolLow)
    (hl : t.log.logHigh = s.log.logHigh) (hr : t.log.records.length ≤ s.log.records.length) : s.Reports x t := by
  have hsm : ∀ i, t.smon i = s.smon i := fun i => by simp [State.smon, hm]
  refine ⟨⟨fun i => by simp [hsm], by rw [hm]⟩, fun i c h => by rw [hsm]; exact h, by simp [hm], fun sc => ?_,
    ⟨fun i => .inl (by rw [hsm]), .inl (by rw [hm])⟩, fun i c h => absurd (by simp [State.condOf, hsm]) h,
    fun h => absurd hp h, fun h => absurd hk h, fun h => absurd hl h, fun h => absurd hr (by omega)⟩
  cases sc <;> simp [State.noticePending, hsm, hm]

theorem State.Reports.refl (s : State) : s.Reports x s := .quiet rfl rfl rfl rfl le_rfl

/-- A tested scope stays tested. -/
theorem State.Reports.keepsTested (h : t.Reports x u) (sc : Scope) (ht : t.Tested sc) : u.Tested sc := by
  cases sc with
  | site i =>
    rcases h.tested.1 i with hf | hf
    · intro he
      refine h.pending _ (ht ?_)
      simpa [State.enabledFlag, hf, h.enables.1 i] using he
    · exact hf
  | global =>
    rcases h.tested.2 with hf | hf
    · intro he
      refine h.pending _ (ht ?_)
      simpa [State.enabledFlag, hf, h.enables.2] using he
    · exact hf

theorem State.Reports.trans (h : s.Reports x t) (g : t.Reports x u) : s.Reports x u where
  enables := ⟨fun i => ⟨(g.enables.1 i).1.trans (h.enables.1 i).1, (g.enables.1 i).2.trans (h.enables.1 i).2⟩,
    g.enables.2.trans h.enables.2⟩
  flags i c e := g.flags i c (h.flags i c e)
  globals := ⟨fun e => g.globals.1 (h.globals.1 e), fun e => g.globals.2.1 (h.globals.2.1 e),
    fun e => g.globals.2.2.1 (h.globals.2.2.1 e), fun e => g.globals.2.2.2 (h.globals.2.2.2 e)⟩
  pending sc e := g.pending sc (h.pending sc e)
  tested := by
    refine ⟨fun i => ?_, ?_⟩
    · rcases g.tested.1 i with e | e
      · rcases h.tested.1 i with e' | e'
        · exact .inl (e.trans e')
        · exact .inr (g.keepsTested _ e')
      · exact .inr e
    · rcases g.tested.2 with e | e
      · rcases h.tested.2 with e' | e'
        · exact .inl (e.trans e')
        · exact .inr (g.keepsTested _ e')
      · exact .inr e
  conds i c hne := by
    by_cases e : u.condOf i c = t.condOf i c
    · rw [e] at hne ⊢
      rcases h.conds i c hne with ⟨h1, h2⟩ | h1
      · exact .inl ⟨g.flags i c h1, g.keepsTested _ h2⟩
      · exact .inr h1
    · exact g.conds i c e
  pump hne := by
    by_cases e : u.arb.pump = t.arb.pump
    · rw [e] at hne; exact ⟨g.globals.1 (h.pump hne).1, g.keepsTested _ (h.pump hne).2⟩
    · exact g.pump e
  poolLow hne := by
    by_cases e : u.ks.poolLow = t.ks.poolLow
    · rw [e] at hne; exact ⟨g.globals.2.1 (h.poolLow hne).1, g.keepsTested _ (h.poolLow hne).2⟩
    · exact g.poolLow e
  logHigh hne := by
    by_cases e : u.log.logHigh = t.log.logHigh
    · rw [e] at hne; exact ⟨g.globals.2.2.1 (h.logHigh hne).1, g.keepsTested _ (h.logHigh hne).2⟩
    · exact g.logHigh e
  recordAdded hlt := by
    by_cases e : s.log.records.length < t.log.records.length
    · exact ⟨g.globals.2.2.2 (h.recordAdded e).1, g.keepsTested _ (h.recordAdded e).2⟩
    · exact g.recordAdded (by omega)

/-- What an operation reports, it reports also from a state that differs in what no report reads. -/
theorem State.Reports.after (h : t.Reports x u) (hm : t.mon = s.mon) (hp : t.arb.pump = s.arb.pump)
    (hk : t.ks.poolLow = s.ks.poolLow) (hl : t.log.logHigh = s.log.logHigh)
    (hr : t.log.records.length ≤ s.log.records.length) : s.Reports x u := (State.Reports.quiet hm hp hk hl hr).trans h

/-- What every step of a fold reports, the fold reports. -/
theorem State.Reports.foldl {α : Type} (f : State → α → State) (h : ∀ (s : State) (a : α), s.Reports x (f s a)) (l : List α) (s : State) :
    s.Reports x (l.foldl f s) :=
  foldl_inv (fun t => s.Reports x t) f (fun b a hb => hb.trans (h b a)) l s (.refl s)

/-! ### The reports themselves (R150, R151, R153) -/

/-- After its throttle test a scope is tested. -/
theorem tested_throttle (s : State) (sc : Scope) : (s.throttle sc).Tested sc := by
  intro he
  have heq : (s.throttle sc).enabledFlag sc = s.enabledFlag sc := by
    unfold State.throttle
    split
    · cases sc <;> simp [State.enabledFlag, State.setPending, State.push, State.smon, State.setSmon]
    · rfl
  rw [heq] at he
  unfold State.throttle
  cases hp : s.noticePending sc with
  | true => simpa using hp
  | false =>
    rw [if_pos (by simp [he])]
    cases sc <;> simp [State.noticePending, State.setPending]

/-- What a throttle test keeps of the monitor: all but that a notice may become pending. -/
theorem throttle_keeps (s : State) (sc : Scope) :
    (∀ i, ((s.throttle sc).smon i).enable = (s.smon i).enable ∧ ((s.throttle sc).smon i).source = (s.smon i).source) ∧
      (s.throttle sc).mon.enables = s.mon.enables ∧
      ∀ sc', s.noticePending sc' = true → (s.throttle sc).noticePending sc' = true := by
  unfold State.throttle
  split
  · cases sc with
    | global =>
      refine ⟨fun i => ⟨rfl, rfl⟩, rfl, fun sc' h => ?_⟩
      cases sc' with
      | global => rfl
      | site i => exact h
    | site k =>
      refine ⟨fun i => ?_, rfl, fun sc' h => ?_⟩
      · by_cases e : i = k
        · subst e; simp [State.setPending, State.push, State.smon, State.setSmon]
        · simp [State.setPending, smon_setSmon_ne _ _ e]
      · cases sc' with
        | global => exact h
        | site i =>
          by_cases e : i = k
          · subst e; simp [State.setPending, State.noticePending]
          · simpa [State.setPending, State.noticePending, smon_setSmon_ne _ _ e] using h
  · exact ⟨fun _ => ⟨rfl, rfl⟩, rfl, fun _ h => h⟩

/-- A change of a global condition's state, or an append, with the report that goes with it. -/
theorem reports_latch {w : State} (g : GlobalFlag) (hm : w.mon = s.mon) (hp : w.arb.pump ≠ s.arb.pump → g = .pump)
    (hk : w.ks.poolLow ≠ s.ks.poolLow → g = .poolLow) (hl : w.log.logHigh ≠ s.log.logHigh → g = .logHigh)
    (hr : s.log.records.length < w.log.records.length → g = .recordAdded) : s.Reports x (w.latchGlobal g) := by
  have hsm : ∀ i, w.smon i = s.smon i := fun i => by simp [State.smon, hm]
  have hfl : (w.latchGlobal g).mon.flags = s.mon.flags.put g true := (flags_latchGlobal w g).trans (by rw [hm])
  have hts : (w.latchGlobal g).Tested .global := tested_throttle _ _
  obtain ⟨k1, k2, k3⟩ := throttle_keeps { w with mon := { w.mon with flags := w.mon.flags.put g true } } .global
  have hfs : ∀ i, ((w.latchGlobal g).smon i).flags = (s.smon i).flags ∧
      ((w.latchGlobal g).smon i).cond = (s.smon i).cond := fun i => by
    rw [(smon_latchGlobal w g i).1, (smon_latchGlobal w g i).2, hsm]; exact ⟨rfl, rfl⟩
  refine ⟨⟨fun i => ?_, ?_⟩, fun i c h => by rw [(hfs i).1]; exact h, ?_, fun sc h => k3 sc ?_,
    ⟨fun i => .inl (hfs i).1, .inr hts⟩, fun i c h => absurd ?_ h, fun h => ⟨?_, hts⟩, fun h => ⟨?_, hts⟩,
    fun h => ⟨?_, hts⟩, fun h => ⟨?_, hts⟩⟩
  · rw [← hsm i]; exact k1 i
  · rw [← hm]; exact k2
  · rw [hfl]; cases g <;> simp [GlobalBits.put]
  · cases sc with
    | site i => simpa [State.noticePending, State.smon, hm] using h
    | global => simpa [State.noticePending, hm] using h
  · simp [State.condOf, (hfs i).2]
  · rw [hfl, hp (by simpa using h)]; rfl
  · rw [hfl, hk (by simpa using h)]; rfl
  · rw [hfl, hl (by simpa using h)]; rfl
  · rw [hfl, hr (by simpa using h)]; rfl

/-- A site condition declared or cleared. -/
theorem reports_changeCond (s : State) (i : SiteNo) (c : SiteCond) (v : Bool) : s.Reports x (s.changeCond i c v) := by
  have hts : (s.changeCond i c v).Tested (.site i) := tested_throttle _ _
  obtain ⟨k1, k2, k3⟩ := throttle_keeps
    ((s.setCond i c v).setSmon i { (s.setCond i c v).smon i with flags := ((s.setCond i c v).smon i).flags.put c true })
    (.site i)
  have hne : ∀ k, k ≠ i → ((s.changeCond i c v).smon k).flags = (s.smon k).flags := fun k hk => by
    refine (smon_throttle _ _ k).1.trans ?_
    rw [smon_setSmon_ne _ _ hk, smon_setCond_ne _ _ _ hk]
  have hcne : ∀ k d, (k ≠ i ∨ d ≠ c) → (s.changeCond i c v).condOf k d = s.condOf k d := fun k d h =>
    condOf_changeCond_ne s v h
  have hput : ∀ b : SiteBits, ∀ d, b.get d = true → (b.put c true).get d = true := by
    intro b d h; cases c <;> cases d <;> simp_all [SiteBits.put, SiteBits.get]
  refine ⟨⟨fun k => ?_, k2⟩, fun k d h => ?_, ?_, fun sc h => k3 sc ?_, ⟨fun k => ?_, .inl (flags_changeCond s i c v)⟩,
    fun k d h => .inl ?_, fun h => absurd ?_ h, fun h => absurd ?_ h, fun h => absurd ?_ h, fun h => absurd h ?_⟩
  · by_cases e : k = i
    · subst e
      exact ⟨(k1 k).1.trans (by simp), (k1 k).2.trans (by simp)⟩
    · exact ⟨(k1 k).1.trans (by rw [smon_setSmon_ne _ _ e, smon_setCond_ne _ _ _ e]),
        (k1 k).2.trans (by rw [smon_setSmon_ne _ _ e, smon_setCond_ne _ _ _ e])⟩
  · by_cases e : k = i
    · subst e; rw [(smon_changeCond s k c v).1]; exact hput _ _ h
    · rw [hne k e]; exact h
  · rw [flags_changeCond]; simp
  · cases sc with
    | global => exact h
    | site k =>
      by_cases e : k = i
      · subst e; simpa [State.noticePending] using h
      · simpa [State.noticePending, smon_setSmon_ne _ _ e, smon_setCond_ne _ _ _ e] using h
  · by_cases e : k = i
    · subst e; exact .inr hts
    · exact .inl (hne k e)
  · by_cases e : k = i ∧ d = c
    · obtain ⟨rfl, rfl⟩ := e
      refine ⟨?_, hts⟩
      rw [(smon_changeCond s k d v).1]
      cases d <;> rfl
    · exact absurd (hcne k d (by tauto)) h
  all_goals simp

/-- A force-clear (R132). -/
theorem reports_force (s : State) (i : SiteNo) (c : SiteCond) (hx : x c) : s.Reports x (s.setCond i c false) := by
  have hne : ∀ k, k ≠ i → (s.setCond i c false).smon k = s.smon k := fun k hk => smon_setCond_ne _ _ _ hk
  have hfl : ∀ k, ((s.setCond i c false).smon k).flags = (s.smon k).flags := fun k => by
    by_cases e : k = i
    · subst e; simp
    · rw [hne k e]
  refine ⟨⟨fun k => ?_, rfl⟩, fun k d h => by rw [hfl]; exact h, ⟨id, id, id, id⟩, fun sc h => ?_,
    ⟨fun k => .inl (hfl k), .inl rfl⟩, fun k d h => .inr ?_, fun h => absurd rfl h, fun h => absurd rfl h,
    fun h => absurd rfl h, fun h => absurd h (lt_irrefl _)⟩
  · by_cases e : k = i
    · subst e; simp
    · rw [hne k e]; exact ⟨rfl, rfl⟩
  · cases sc with
    | global => exact h
    | site k =>
      by_cases e : k = i
      · subst e; simpa [State.noticePending] using h
      · simpa [State.noticePending, hne k e] using h
  · by_cases e : k = i ∧ d = c
    · obtain ⟨rfl, rfl⟩ := e
      exact ⟨hx, by simp⟩
    · exact absurd (condOf_setCond_ne s false (by tauto)) h

/-! ### The shared operations -/

theorem reports_reportPoolLow (s : State) (v : Bool) : s.Reports x (s.reportPoolLow v) :=
  reports_latch .poolLow rfl (fun h => absurd rfl h) (fun _ => rfl) (fun h => absurd rfl h) (fun h => absurd h (lt_irrefl _))

theorem reports_evalPoolLow (s : State) : s.Reports x s.evalPoolLow := by
  unfold State.evalPoolLow
  dsimp only
  split <;> split <;> first | exact reports_reportPoolLow _ _ | exact .refl s

theorem reports_evalPoolLowNew (s : State) : s.Reports x s.evalPoolLowNew := by
  unfold State.evalPoolLowNew
  split
  · exact reports_reportPoolLow _ _
  · exact reports_evalPoolLow s

theorem reports_reportLogHigh (s : State) (v : Bool) : s.Reports x (s.reportLogHigh v) :=
  reports_latch .logHigh rfl (fun h => absurd rfl h) (fun h => absurd rfl h) (fun _ => rfl) (fun h => absurd h (lt_irrefl _))

theorem reports_evalLogHigh (s : State) : s.Reports x s.evalLogHigh := by
  unfold State.evalLogHigh
  split <;> split <;> first | exact reports_reportLogHigh _ _ | exact .refl s

theorem reports_grantTest (s : State) : s.Reports x s.grantTest := by
  have h := (grantTest_grants s)
  exact .quiet (by simp) h.supply.1 (by simp) (by simp) (by simp)

theorem reports_withdraw (s : State) (i : SiteNo) : s.Reports x (s.withdraw i) := by
  unfold State.withdraw
  split
  · exact State.Reports.after (reports_grantTest _) rfl rfl rfl rfl le_rfl
  · exact .refl s

theorem reports_release (s : State) (i : SiteNo) : s.Reports x (s.release i) := by
  unfold State.release
  split
  · exact State.Reports.after (reports_grantTest _) rfl rfl rfl rfl le_rfl
  · exact .refl s

theorem reports_endJob (s : State) (i : SiteNo) (o : JobOutcome) : s.Reports x (s.endJob i o) := by
  unfold State.endJob
  split
  · exact .refl s
  · next j _ =>
    dsimp only
    have h1 : s.Reports x (if o = .linkLost then s.changeCond i .link true else s) := by
      split
      · exact reports_changeCond _ _ _ _
      · exact .refl s
    refine h1.trans (reports_latch .recordAdded rfl (fun h => absurd rfl h) (fun h => absurd rfl h) (fun h => absurd rfl h)
      (fun _ => rfl))

theorem reports_setJob (s : State) (i : SiteNo) (j : Option Job) : s.Reports x (s.setJob i j) := .quiet rfl rfl rfl rfl le_rfl

theorem reports_doMove (s : State) (i : SiteNo) (m : Move) : s.Reports x (s.doMove i m) := by
  unfold State.doMove
  cases m.2 with
  | finish o => exact (reports_setJob s i _).trans (reports_endJob _ _ _)
  | wait | send | request | bind => exact .quiet rfl rfl rfl rfl le_rfl

theorem reports_abort (s : State) (i : SiteNo) (p : PendingEnd) : s.Reports x (s.abort i p) := by
  unfold State.abort
  split
  · exact .refl s
  · split
    · exact .refl s
    · exact (reports_withdraw s i).trans (State.Reports.after (reports_doMove _ _ _) rfl rfl rfl rfl le_rfl)

theorem reports_request (s : State) (i : SiteNo) (d : Nat) : s.Reports x (s.request i d) := by
  unfold State.request
  split
  · exact reports_abort s i _
  · exact State.Reports.after (reports_grantTest _) rfl rfl rfl rfl le_rfl

theorem reports_giveKey (s : State) (i : SiteNo) (k : Key) : s.Reports x (s.giveKey i k) := by
  unfold State.giveKey
  split
  · exact .refl s
  · exact reports_doMove _ _ _

theorem reports_joinWaitList (s : State) (i : SiteNo) : s.Reports x (s.joinWaitList i) := by
  unfold State.joinWaitList
  split
  · exact .refl s
  · exact .quiet rfl rfl rfl rfl le_rfl

theorem reports_bindRequest (s : State) (i : SiteNo) : s.Reports x (s.bindRequest i) := by
  unfold State.bindRequest
  split
  · exact State.Reports.after ((reports_giveKey _ _ _).trans (reports_evalPoolLow _)) rfl rfl rfl rfl le_rfl
  · exact reports_joinWaitList s i

/-- Whatever a job's move brings about is reported. -/
theorem reports_perform (s : State) (i : SiteNo) (m : Move) : s.Reports x (s.perform i m) := by
  unfold State.perform
  split
  · exact (reports_setJob s i _).trans (reports_request _ _ _)
  · exact (reports_setJob s i _).trans (reports_bindRequest _ _)
  · exact reports_doMove s i m

theorem reports_driveCut (s : State) (i : SiteNo) (o : JobOutcome) : s.Reports x (s.driveCut i o) := by
  unfold State.driveCut
  split
  · exact .refl s
  · exact State.Reports.after (((reports_withdraw _ _).trans (reports_release _ _)).trans (reports_endJob _ _ _)) rfl rfl rfl rfl le_rfl

theorem reports_exchangeEnded (s : State) (i : SiteNo) (c : DieCmd) (e : Ending) : s.Reports x (s.exchangeEnded i c e) := by
  have h2 : s.Reports x (if c.isPulse then (s.setExch i none).release i else s.setExch i none) := by
    split
    · exact State.Reports.after (reports_release _ _) rfl rfl rfl rfl le_rfl
    · exact .quiet rfl rfl rfl rfl le_rfl
  unfold State.exchangeEnded
  dsimp only
  split
  · exact h2.trans (reports_perform _ _ _)
  · exact h2

theorem reports_attemptEnded (s : State) (i : SiteNo) (y : Exchange) (e : Ending) : s.Reports x (s.attemptEnded i y e) := by
  unfold State.attemptEnded
  dsimp only
  split
  · exact .quiet rfl rfl rfl rfl le_rfl
  · exact State.Reports.after (reports_exchangeEnded _ _ _ _) rfl rfl rfl rfl le_rfl

theorem reports_admitHead (s : State) (i : SiteNo) : s.Reports x (s.admitHead i) := by
  unfold State.admitHead
  split
  · exact .refl s
  · exact .quiet rfl rfl rfl rfl le_rfl

theorem reports_testAdmission (s : State) (i : SiteNo) : s.Reports x (s.testAdmission i) := by
  unfold State.testAdmission State.askSlot
  split
  · split
    · exact (reports_admitHead s i).trans (reports_evalLogHigh _)
    · exact .quiet rfl rfl rfl rfl le_rfl
  · exact .refl s

theorem reports_handSlot (s : State) (i : SiteNo) : s.Reports x (s.handSlot i) := by
  unfold State.handSlot
  split
  · exact State.Reports.after (reports_admitHead _ _) rfl rfl rfl rfl le_rfl
  · exact .refl s

theorem reports_handOut (l : List SiteNo) (s : State) : s.Reports x (State.handOut l s) := by
  induction l generalizing s with
  | nil => exact .refl s
  | cons i l ih =>
    unfold State.handOut
    split
    · exact .refl s
    · exact State.Reports.after ((reports_giveKey _ _ _).trans (ih _)) rfl rfl rfl rfl le_rfl

theorem reports_seat (s : State) (i : SiteNo) : s.Reports x (s.seat i) := by
  unfold State.seat
  dsimp only
  refine State.Reports.trans ?_ (reports_testAdmission _ _)
  refine State.Reports.trans (t := s.setSite i { s.site i with posture := .seated, debounce := none, seatTimeout := none })
    (.quiet rfl rfl rfl rfl le_rfl) ?_
  split
  · exact reports_changeCond _ _ _ _
  · exact .refl _

/-- Liftoff completion force-clears CONTACT and DIE_SUPPLY (R131, R132) and reports nothing. -/
theorem reports_completeLift (s : State) (hc : x .contact) (hd : x .dieSupply) : s.Reports x s.completeLift := by
  have h1 : ∀ (u : State) (i : SiteNo), u.Reports x (u.liftSite i) := fun u i => by
    unfold State.liftSite
    dsimp only
    refine State.Reports.trans ?_ (reports_force _ i .dieSupply hd)
    refine State.Reports.trans ?_ (reports_force _ i .contact hc)
    split <;> exact .quiet rfl rfl rfl rfl le_rfl
  have h2 : s.Reports x (forSites State.liftSite (s.setTd { s.td with state := .clear, deferred := none, liftCount := 0 })) :=
    State.Reports.after (State.Reports.foldl State.liftSite h1 allSites _) rfl rfl rfl rfl le_rfl
  unfold State.completeLift
  dsimp only
  split
  · exact h2.trans (.quiet rfl rfl rfl rfl le_rfl)
  · exact h2

theorem completeLift_clear (s : State) : s.completeLift.td.state = .clear := by
  have h := foldl_keeps (fun u : State => u.td.state) State.liftSite (fun u i => by simp) allSites
    (s.setTd { s.td with state := .clear, deferred := none, liftCount := 0 })
  unfold State.completeLift forSites
  dsimp only
  split <;> exact h

/-- What follows a job end in a lift: either it completes, with the touchdown back in CLEAR, or nothing happens. -/
theorem reports_finishLift (s : State)
    (hc : s.td.state.lifting = true → s.finishLift.td.state = .clear → x .contact ∧ x .dieSupply) :
    s.Reports x s.finishLift := by
  unfold State.finishLift at hc ⊢
  split at hc
  · next h =>
    have := hc (by simp_all) (completeLift_clear s)
    rw [if_pos h]
    exact reports_completeLift s this.1 this.2
  · next h => rw [if_neg h]; exact .refl s

end Sys2Proof.Machine
end

