-- ==== Sys2Proof/WellFormed.lean ====
section
/-!
DEFINITION. When a command's operands are ones that can come about. `exec` gives a meaning to every term;
these checks say which terms stand for an event of the hardware.
-/
namespace Sys2Proof

/-- A cell is in one condition (R78): no cell is both fully and weakly blown. -/
def DieRow.wf (r : DieRow) : Bool := r.full &&& r.weak = 0

/-- Every row of a die's region is well formed. -/
def DieCells.wf (c : DieCells) : Bool := c.toList.all DieRow.wf

/-- COMMAND_FRAME_SENT delivers a whole frame of seven bytes (R65). DIE_POWER_ON brings cells that are each in
one condition. A pulse leaves no cell in two conditions. A byte with a framing error is still a byte. -/
def Instr.wf : Instr → Bool
  | .commandFrameSent _ (.bytes bs) => bs.length = 7
  | .diePowerOn _ (some c) => DieCells.wf c
  | .pulse _ toFull toWeak => toFull &&& toWeak = 0
  | _ => true

end Sys2Proof
end

