-- ==== Sys2Proof/Laws/PerInstr.lean ====
section
/-!
SUPPORT. The family WellFormedCases: which commands can be ill formed, one lemma for each constructor of Instr.
-/
namespace Sys2Proof.Laws

/-- A command is ill formed only as a COMMAND_FRAME_SENT that delivers other than seven bytes (R65), a DIE_POWER_ON whose cells
are in two conditions, or a PULSE that leaves a cell in two conditions (R78). -/
def WellFormedCases.Statement (i : Instr) : Prop :=
  i.wf = false →
    (∃ n bs, i = .commandFrameSent n (.bytes bs) ∧ bs.length ≠ 7) ∨
    (∃ n c, i = .diePowerOn n (some c) ∧ DieCells.wf c = false) ∨
    (∃ n a b, i = .pulse n a b ∧ a &&& b ≠ 0)

theorem WellFormedCases.controlLinkByteReceived (b : Byte) (stopHigh : Bool) :
    WellFormedCases.Statement (.controlLinkByteReceived b stopHigh) := by
  intro h
  cases h

theorem WellFormedCases.gapTimerExpiry :
    WellFormedCases.Statement (.gapTimerExpiry) := by
  intro h
  cases h

theorem WellFormedCases.frameLastByteSent :
    WellFormedCases.Statement (.frameLastByteSent) := by
  intro h
  cases h

theorem WellFormedCases.heldStatusReply :
    WellFormedCases.Statement (.heldStatusReply) := by
  intro h
  cases h

theorem WellFormedCases.badRequest :
    WellFormedCases.Statement (.badRequest) := by
  intro h
  cases h

theorem WellFormedCases.identify :
    WellFormedCases.Statement (.identify) := by
  intro h
  cases h

theorem WellFormedCases.status :
    WellFormedCases.Statement (.status) := by
  intro h
  cases h

theorem WellFormedCases.configure :
    WellFormedCases.Statement (.configure) := by
  intro h
  cases h

theorem WellFormedCases.setEnables :
    WellFormedCases.Statement (.setEnables) := by
  intro h
  cases h

theorem WellFormedCases.touchdown :
    WellFormedCases.Statement (.touchdown) := by
  intro h
  cases h

theorem WellFormedCases.liftoff :
    WellFormedCases.Statement (.liftoff) := by
  intro h
  cases h

theorem WellFormedCases.resetUnit :
    WellFormedCases.Statement (.resetUnit) := by
  intro h
  cases h

theorem WellFormedCases.loadKeys :
    WellFormedCases.Statement (.loadKeys) := by
  intro h
  cases h

theorem WellFormedCases.discardKeys :
    WellFormedCases.Statement (.discardKeys) := by
  intro h
  cases h

theorem WellFormedCases.provision :
    WellFormedCases.Statement (.provision) := by
  intro h
  cases h

theorem WellFormedCases.cancel :
    WellFormedCases.Statement (.cancel) := by
  intro h
  cases h

theorem WellFormedCases.readRecords :
    WellFormedCases.Statement (.readRecords) := by
  intro h
  cases h

theorem WellFormedCases.clearRecords :
    WellFormedCases.Statement (.clearRecords) := by
  intro h
  cases h

theorem WellFormedCases.readEvents :
    WellFormedCases.Statement (.readEvents) := by
  intro h
  cases h

theorem WellFormedCases.powerOn :
    WellFormedCases.Statement (.powerOn) := by
  intro h
  cases h

theorem WellFormedCases.resetLineAsserted :
    WellFormedCases.Statement (.resetLineAsserted) := by
  intro h
  cases h

theorem WellFormedCases.resetReleased :
    WellFormedCases.Statement (.resetReleased) := by
  intro h
  cases h

theorem WellFormedCases.contactSensed (i : SiteNo) :
    WellFormedCases.Statement (.contactSensed i) := by
  intro h
  cases h

theorem WellFormedCases.contactDropped (i : SiteNo) :
    WellFormedCases.Statement (.contactDropped i) := by
  intro h
  cases h

theorem WellFormedCases.debounceExpiry (i : SiteNo) :
    WellFormedCases.Statement (.debounceExpiry i) := by
  intro h
  cases h

theorem WellFormedCases.seatTimeoutExpiry (i : SiteNo) :
    WellFormedCases.Statement (.seatTimeoutExpiry i) := by
  intro h
  cases h

theorem WellFormedCases.dieSupplyAsserted (i : SiteNo) :
    WellFormedCases.Statement (.dieSupplyAsserted i) := by
  intro h
  cases h

theorem WellFormedCases.dieSupplyDeasserted (i : SiteNo) :
    WellFormedCases.Statement (.dieSupplyDeasserted i) := by
  intro h
  cases h

theorem WellFormedCases.pumpFaultAsserted :
    WellFormedCases.Statement (.pumpFaultAsserted) := by
  intro h
  cases h

theorem WellFormedCases.pumpFaultDeasserted :
    WellFormedCases.Statement (.pumpFaultDeasserted) := by
  intro h
  cases h

theorem WellFormedCases.pumpHoldExpiry :
    WellFormedCases.Statement (.pumpHoldExpiry) := by
  intro h
  cases h

theorem WellFormedCases.dieResponseComplete (i : SiteNo) (ddi : Wire) (openLeft : Nat) :
    WellFormedCases.Statement (.dieResponseComplete i ddi openLeft) := by
  intro h
  cases h

theorem WellFormedCases.dieResponseDeadlineExpiry (i : SiteNo) (openLeft : Nat) :
    WellFormedCases.Statement (.dieResponseDeadlineExpiry i openLeft) := by
  intro h
  cases h

theorem WellFormedCases.settleTimerExpiry (i : SiteNo) :
    WellFormedCases.Statement (.settleTimerExpiry i) := by
  intro h
  cases h

theorem WellFormedCases.openTimerExpiry (i : SiteNo) :
    WellFormedCases.Statement (.openTimerExpiry i) := by
  intro h
  cases h

theorem WellFormedCases.restTimerExpiry (i : SiteNo) :
    WellFormedCases.Statement (.restTimerExpiry i) := by
  intro h
  cases h

theorem WellFormedCases.diePowerOn (i : SiteNo) (cells : Option DieCells) :
    WellFormedCases.Statement (.diePowerOn i cells) := by
  intro h
  cases cells with
  | none => cases h
  | some c => exact .inr (.inl ⟨i, c, rfl, by simpa [Instr.wf] using h⟩)

theorem WellFormedCases.reset (i : SiteNo) :
    WellFormedCases.Statement (.reset i) := by
  intro h
  cases h

theorem WellFormedCases.closeAll (i : SiteNo) :
    WellFormedCases.Statement (.closeAll i) := by
  intro h
  cases h

theorem WellFormedCases.enterProvisioning (i : SiteNo) :
    WellFormedCases.Statement (.enterProvisioning i) := by
  intro h
  cases h

theorem WellFormedCases.sense (i : SiteNo) :
    WellFormedCases.Statement (.sense i) := by
  intro h
  cases h

theorem WellFormedCases.openRow (i : SiteNo) :
    WellFormedCases.Statement (.openRow i) := by
  intro h
  cases h

theorem WellFormedCases.pulse (i : SiteNo) (toFull toWeak : Row) :
    WellFormedCases.Statement (.pulse i toFull toWeak) := by
  intro h
  exact .inr (.inr ⟨i, toFull, toWeak, rfl, by simpa [Instr.wf] using h⟩)

theorem WellFormedCases.closeRow (i : SiteNo) :
    WellFormedCases.Statement (.closeRow i) := by
  intro h
  cases h

theorem WellFormedCases.reload (i : SiteNo) :
    WellFormedCases.Statement (.reload i) := by
  intro h
  cases h

theorem WellFormedCases.readShadow (i : SiteNo) :
    WellFormedCases.Statement (.readShadow i) := by
  intro h
  cases h

theorem WellFormedCases.commandFrameSent (i : SiteNo) (ddo : Wire) :
    WellFormedCases.Statement (.commandFrameSent i ddo) := by
  intro h
  cases ddo with
  | clean => cases h
  | bytes bs => exact .inl ⟨i, bs, rfl, by simpa [Instr.wf] using h⟩

end Sys2Proof.Laws
end

