-- ==== Sys2Proof/Laws/Posture.lean ====
section
/-!
SUPPORT. Which operations leave every site's posture as it was.
-/
namespace Sys2Proof.Machine

/-- One site's controller replaced by one of the same posture leaves every posture as it was. -/
theorem setSite_posture (s : State) (i : SiteNo) (c : SiteCtl) (h : c.posture = (s.site i).posture) (k : SiteNo) :
    ((s.setSite i c).site k).posture = (s.site k).posture := by
  by_cases e : k = i
  · subst e; simpa using h
  · rw [site_setSite_ne _ _ e]

@[simp] theorem setJob_posture (s : State) (i : SiteNo) (j : Option Job) (k : SiteNo) :
    ((s.setJob i j).site k).posture = (s.site k).posture := by
  apply setSite_posture; rfl
@[simp] theorem setPort_posture (s : State) (i : SiteNo) (p : Port) (k : SiteNo) :
    ((s.setPort i p).site k).posture = (s.site k).posture := by
  apply setSite_posture; rfl
@[simp] theorem setExch_posture (s : State) (i : SiteNo) (x : Option Exchange) (k : SiteNo) :
    ((s.setExch i x).site k).posture = (s.site k).posture := setPort_posture _ _ _ k
@[simp] theorem startExchange_posture (s : State) (i : SiteNo) (c : DieCmd) (r : Bool) (k : SiteNo) :
    ((s.startExchange i c r).site k).posture = (s.site k).posture := setExch_posture _ _ _ k

@[simp] theorem sendPulse_posture (s : State) (i k : SiteNo) :
    ((s.sendPulse i).site k).posture = (s.site k).posture := by unfold State.sendPulse; split <;> simp
@[simp] theorem grantTest_posture (s : State) (k : SiteNo) : (s.grantTest.site k).posture = (s.site k).posture := by
  simp only [State.grantTest]
  rw [foldl_keeps (fun s : State => (s.site k).posture) _ (fun _ _ => by simp)]
  rfl
@[simp] theorem withdraw_posture (s : State) (i k : SiteNo) : ((s.withdraw i).site k).posture = (s.site k).posture := by
  unfold State.withdraw; split <;> simp
@[simp] theorem release_posture (s : State) (i k : SiteNo) : ((s.release i).site k).posture = (s.site k).posture := by
  unfold State.release; split <;> simp
@[simp] theorem endJob_posture (s : State) (i : SiteNo) (o : JobOutcome) (k : SiteNo) :
    ((s.endJob i o).site k).posture = (s.site k).posture := by
  unfold State.endJob
  split
  · rfl
  · simp only [site_latchGlobal, setJob_posture, site_accountEnd]; split <;> simp
@[simp] theorem doMove_posture (s : State) (i : SiteNo) (m : Move) (k : SiteNo) :
    ((s.doMove i m).site k).posture = (s.site k).posture := by
  unfold State.doMove; cases m.2 <;> simp [State.doAct]
@[simp] theorem abort_posture (s : State) (i : SiteNo) (p : PendingEnd) (k : SiteNo) :
    ((s.abort i p).site k).posture = (s.site k).posture := by unfold State.abort; (repeat' split) <;> simp
@[simp] theorem request_posture (s : State) (i : SiteNo) (d : Nat) (k : SiteNo) :
    ((s.request i d).site k).posture = (s.site k).posture := by unfold State.request; split <;> simp
@[simp] theorem giveKey_posture (s : State) (i : SiteNo) (x : Key) (k : SiteNo) :
    ((s.giveKey i x).site k).posture = (s.site k).posture := by unfold State.giveKey; split <;> simp
@[simp] theorem bindRequest_posture (s : State) (i k : SiteNo) :
    ((s.bindRequest i).site k).posture = (s.site k).posture := by
  unfold State.bindRequest
  split
  · simp
  · unfold State.joinWaitList; split <;> simp
@[simp] theorem perform_posture (s : State) (i : SiteNo) (m : Move) (k : SiteNo) :
    ((s.perform i m).site k).posture = (s.site k).posture := by unfold State.perform; split <;> simp
@[simp] theorem driveCut_posture (s : State) (i : SiteNo) (o : JobOutcome) (k : SiteNo) :
    ((s.driveCut i o).site k).posture = (s.site k).posture := by unfold State.driveCut; split <;> simp
@[simp] theorem noteOpenLeft_posture (s : State) (i : SiteNo) (n : Nat) (k : SiteNo) :
    ((s.noteOpenLeft i n).site k).posture = (s.site k).posture := by unfold State.noteOpenLeft; split <;> simp
@[simp] theorem exchangeEnded_posture (s : State) (i : SiteNo) (c : DieCmd) (e : Ending) (k : SiteNo) :
    ((s.exchangeEnded i c e).site k).posture = (s.site k).posture := by
  simp only [State.exchangeEnded]; (repeat' split) <;> simp
@[simp] theorem attemptEnded_posture (s : State) (i : SiteNo) (x : Exchange) (e : Ending) (k : SiteNo) :
    ((s.attemptEnded i x e).site k).posture = (s.site k).posture := by
  simp only [State.attemptEnded]; split <;> simp
@[simp] theorem handOut_posture (l : List SiteNo) (s : State) (k : SiteNo) :
    ((State.handOut l s).site k).posture = (s.site k).posture := by
  induction l generalizing s with
  | nil => rfl
  | cons i l ih =>
    unfold State.handOut
    split
    · rfl
    · rw [ih]; simp
@[simp] theorem admitHead_posture (s : State) (i k : SiteNo) : ((s.admitHead i).site k).posture = (s.site k).posture := by
  unfold State.admitHead
  split
  · rfl
  · rw [startExchange_posture]
    apply setSite_posture; rfl
@[simp] theorem testAdmission_posture (s : State) (i k : SiteNo) :
    ((s.testAdmission i).site k).posture = (s.site k).posture := by
  unfold State.testAdmission State.askSlot; (repeat' split) <;> simp

end Sys2Proof.Machine
end

