-- ==== Sys2Proof/Tests/Slice0.lean ====
section
/-!
SUPPORT. Tests of the model and witnesses for the statements. Expected values are the specification's own worked examples
or are worked out by hand from its rules; each test names its source. A theorem named test_witness_<statement> shows concrete
states and operands that meet the hypotheses of that statement, clause by clause, at boundary values where there are any.
-/
namespace Sys2Proof.Tests
open Sys2Proof.Machine

/-! ### Small states -/

/-- A good request frame with tag 5. -/
def req (kind : Byte) (payload : List Byte) : InFrame := { kind := kind, tag := 5, held := none, payload := payload }

/-- A state with one request in front. -/
def withReq (s : State) (kind : Byte) (payload : List Byte) : State :=
  { s with link := { s.link with intake := [req kind payload] } }

def posting1 : Posting := { tag := 0x1234, lot := 0x0A0B0C, wafer := 7, x := 12, y := 30 }

/-- An exchange waiting for its response. -/
def awaiting (c : DieCmd) : Exchange :=
  { cmd := c, attempt := 1, retry := !c.isPulse, deadline := 100, timer := some 100, rx := [] }

/-- A seated site with an active job. -/
def busy (j : Job) (x : Option Exchange) : SiteCtl :=
  { SiteCtl.afterReset with posture := .seated, used := true, job := some j, port := { driven := true, exch := x } }

/-- The machine after TOUCHDOWN number 1. -/
def opened : State := { State.reset with td := { Touchdown.afterReset with state := .opened, number := 1 } }

/-- The opened machine with one active job, at site 3. -/
def oneJob (j : Job) (x : Option Exchange) : State :=
  { opened.setSite 3 (busy j x) with log := { IssueLog.afterReset with reservations := 1 } }

/-- A job in a phase. -/
def inPhase (p : Phase) : Job := { newJob posting1 1 with phase := p }

/-! ### A check for the site invariant -/

def jobCheck (s : State) (i : SiteNo) (j : Job) : Bool :=
  let x := (s.site i).port.exch
  decide (s.td.state ≠ .clear) && decide ((s.site i).posture = .seated) && (s.site i).port.driven && (s.site i).used
    && !s.condOf i .link && !s.condOf i .dieSupply
    && (x.isNone || !j.engine.stage.idleWait)
    && (j.engine.settleTimer.isNone || decide (j.engine.stage = .settling))
    && (match s.arb.waiting[i] with
        | none => true
        | some d => x.isNone && s.arb.inFlight[i].isNone && decide (j.engine.stage = .grantWait)
            && decide (d = cellCount (j.engine.chunks.headD 0)))
    && (match s.arb.inFlight[i], x with
        | none, none => true
        | none, some x => !x.cmd.isPulse
        | some _, none => false
        | some d, some x => match x.cmd with
          | .pulse m => decide (cellCount m = d)
          | _ => false)
    && (!j.phase.early || (decide (j.engine = RowEngine.idle) && s.ks.bound[i].isNone && s.arb.inFlight[i].isNone))
    && (decide (j.phase ≠ .keyWait) || (decide (i ∈ s.ks.waitList) && x.isNone))
    && (decide (i ∉ s.ks.waitList) || decide (j.phase = .keyWait))

theorem jobCheck_ok {s : State} {i : SiteNo} {j : Job} (h : jobCheck s i j = true) : s.JobOk i j := by
  simp only [jobCheck, Bool.and_eq_true, decide_eq_true_eq, Bool.not_eq_true', Bool.or_eq_true] at h
  obtain ⟨⟨⟨⟨⟨⟨⟨⟨⟨⟨⟨⟨h1, h2⟩, h3⟩, h4⟩, h5⟩, h6⟩, h7⟩, h8⟩, h9⟩, h10⟩, h11⟩, h12⟩, h13⟩ := h
  constructor
  · exact h1
  · exact h2
  · exact h3
  · exact h4
  · exact h5
  · exact h6
  · intro hx; rcases h7 with h7 | h7
    · cases e : (s.site i).port.exch <;> simp_all
    · exact h7
  · intro hx; rcases h8 with h8 | h8
    · cases e : j.engine.settleTimer <;> simp_all
    · exact h8
  · intro d hd
    rw [hd] at h9
    simpa [and_assoc] using h9
  · intro d hd
    rw [hd] at h10
    cases e : (s.site i).port.exch with
    | none => simp [e] at h10
    | some x =>
      rw [e] at h10
      cases ec : x.cmd <;> simp [ec] at h10
      exact ⟨x, _, rfl, ec, h10⟩
  · intro x hx hp
    rw [hx] at h10
    cases e : s.arb.inFlight[i] with
    | none => rw [e] at h10; simp [hp] at h10
    | some d => rfl
  · intro he
    rcases h11 with h11 | h11
    · rw [he] at h11; cases h11
    · simpa [and_assoc] using h11
  · intro he
    rcases h12 with h12 | h12
    · exact absurd he h12
    · simpa using h12
  · intro hm
    rcases h13 with h13 | h13
    · exact absurd hm h13
    · exact h13

def siteCheck (s : State) (i : SiteNo) : Bool :=
  (match (s.site i).job with
    | some j => jobCheck s i j
    | none => (s.site i).port.exch.isNone && s.arb.waiting[i].isNone && s.arb.inFlight[i].isNone && s.ks.bound[i].isNone
        && decide (i ∉ s.ks.waitList))
    && (decide ((s.site i).posture ≠ .seated) || !s.condOf i .contact)
    && (!s.condOf i .link || (s.site i).used || decide (s.td.state = .clear))

theorem siteCheck_ok {s : State} {i : SiteNo} (h : siteCheck s i = true) : s.SiteOk i := by
  simp only [siteCheck, Bool.and_eq_true, decide_eq_true_eq, Bool.not_eq_true', Bool.or_eq_true] at h
  obtain ⟨⟨h1, h2⟩, h3⟩ := h
  constructor
  · intro j hj; rw [hj] at h1; exact jobCheck_ok h1
  · intro hj; rw [hj] at h1
    simp only [Bool.and_eq_true, Option.isNone_iff_eq_none, decide_eq_true_eq] at h1
    obtain ⟨⟨⟨⟨a, b⟩, c⟩, d⟩, e⟩ := h1
    exact ⟨a, b, c, d, e⟩
  · intro hp; rcases h2 with h2 | h2
    · exact absurd hp h2
    · exact h2
  · intro hl; rcases h3 with (h3 | h3) | h3
    · rw [hl] at h3; cases h3
    · exact .inl h3
    · exact .inr h3

def siteInvCheck (s : State) : Bool :=
  allSites.all (siteCheck s) && decide (s.arb.inUse = s.arb.unitsInFlight) && decide (s.arb.inUse ≤ s.cfg.pumpCapacity)
    && decide s.ks.waitList.Nodup && (decide (s.ks.waitList = []) || decide (s.ks.free = []))

theorem siteInvCheck_ok {s : State} (h : siteInvCheck s = true) : s.SiteInv := by
  simp only [siteInvCheck, Bool.and_eq_true, decide_eq_true_eq, Bool.or_eq_true, List.all_eq_true] at h
  obtain ⟨⟨⟨⟨h1, h2⟩, h3⟩, h4⟩, h5⟩ := h
  constructor
  · intro i
    exact siteCheck_ok (h1 i (by revert i; decide))
  · exact h2
  · exact h3
  · exact h4
  · intro hw; rcases h5 with h5 | h5
    · exact absurd h5 hw
    · exact h5


/-! ### Running one command -/

/-- Whether a command answers a next state with a property. -/
def after (c : Instr) (s : State) (p : State → Bool) : Bool :=
  match exec c s with
  | .next t => p t
  | _ => false

theorem after_next {c : Instr} {s : State} {p : State → Bool} (h : after c s p = true) :
    ∃ t, exec c s = .next t ∧ p t = true := by
  unfold after at h
  split at h
  · exact ⟨_, by assumption, h⟩
  · cases h

theorem front_withReq (s : State) (k : Byte) (p : List Byte) (h : s.rst.heldInReset = false)
    (h' : s.rst.requestPending = false) : (withReq s k p).Front k (req k p) [] := ⟨h, h', rfl, rfl, rfl⟩

/-- The immediate reply to the request of withReq. -/
def rep (k : Byte) (st : Byte) (fields : List Byte) : OutFrame :=
  { source := .reply, kind := k + 0x80, tag := 5, payload := st :: fields }

/-- The word with exactly the cells of a list. -/
def cellsWord (l : List Nat) : Row := l.foldl (fun w i => w ||| (1#32 <<< i)) 0

/-! ### Well-formedness: ill-formed terms are refused -/

/-- R65: a command frame is seven bytes. -/
theorem test_wf_short_frame : (Instr.commandFrameSent 0 (.bytes [1, 2, 3, 4, 5, 6])).wf = false := by decide
theorem test_wf_whole_frame : (Instr.commandFrameSent 0 (.bytes [1, 2, 3, 4, 5, 6, 7])).wf = true := by decide
/-- R78: a cell is in one condition. -/
theorem test_wf_pulse_overlap : (Instr.pulse 0 3 2).wf = false := by decide
theorem test_wf_die_cells :
    (Instr.diePowerOn 0 (some (blankCells.set 7 { full := 1, weak := 1 }))).wf = false := by decide

/-! ### The table gives no word a command -/

theorem test_no_table_word : decodeTableWord 8 0x05 = none := by decide
theorem test_withFetchWord_unchanged : (State.reset.withFetchWord 8 0x05) = State.reset := by decide

/-! ### The row code: worked examples of 01_the_identity_image_and_row_code.md -/

/-- Case A. -/
theorem test_row_case_a : rowWord 0x00000B = cellsWord [0, 1, 3, 24, 31] := by decide
/-- Case C. -/
theorem test_row_case_c : rowWord 0x1E0C07 = cellsWord [0, 1, 2, 10, 11, 17, 18, 19, 20, 25, 28, 30, 31] := by decide
/-- Case B, rows 0, 10, 11 and 15. -/
theorem test_row_case_b : rowWord 0x020100 = cellsWord [8, 17, 25, 27, 28, 30, 31] ∧
    rowWord 0x051F1E = cellsWord [1, 2, 3, 4, 8, 9, 10, 11, 12, 16, 18, 26, 27, 30, 31] ∧
    rowWord 0x000001 = cellsWord [0, 24, 25, 30, 31] ∧
    rowWord 0x024D00 = cellsWord [8, 10, 11, 14, 17, 28, 31] := by decide
/-- The Case B image: rows 0, 10, 13 and 15 of the image built from its key, binding and unit number. -/
theorem test_image_case_b :
    let key : Key := { index := 0x105, bytes := (List.range 32).map (BitVec.ofNat 8) }
    let im := imageBytes key posting1 0x203
    im.length = 48 ∧ imageRow im 0 = 0x020100 ∧ imageRow im 10 = 0x051F1E ∧ imageRow im 13 = 0x1E0C07 ∧
      imageRow im 15 = 0x024D00 := by decide
/-- Lock words: no relocation, Case D, and a void spare. -/
theorem test_lock_words : lockWordOf #v[0, 0, 0] = cellsWord [0, 1, 6, 7, 23, 26, 27, 28, 31] ∧
    lockWordOf #v[14, 0, 0] = cellsWord [0, 1, 6, 7, 9, 10, 11, 23, 26, 27, 31] ∧
    lockWordOf #v[31, 5, 0] = cellsWord [0, 1, 6, 7, 8, 9, 10, 11, 12, 13, 15, 23, 24, 26, 28, 30, 31] := by decide
/-- Decoding lock-row reads: clean, cell 10 of Case D unblown, cell 27 unblown, cells 26 and 27 unblown, cell 2 blown too, cell 31
alone. -/
theorem test_decode_examples :
    decodeRow (cellsWord [0, 1, 6, 7, 23, 26, 27, 28, 31]) = .clean 0x8000C3 ∧
    decodeRow (cellsWord [0, 1, 6, 7, 9, 11, 23, 26, 27, 31]) = .corrected 0x800EC3 ∧
    decodeRow (cellsWord [0, 1, 6, 7, 23, 26, 28, 31]) = .corrected 0x8000C3 ∧
    decodeRow (cellsWord [0, 1, 6, 7, 23, 28, 31]) = .uncorrectable ∧
    decodeRow (cellsWord [0, 1, 2, 6, 7, 23, 26, 27, 28, 31]) = .corrected 0x8000C3 ∧
    lockRowValid (cellsWord [31]) = false ∧
    decodeRow (cellsWord [0, 1, 24, 31]) = .corrected 0x00000B := by decide

/-! ### Frames: worked examples of 04_die_provisioning_port.md and 10_control_link.md -/

theorem test_frame_open_row_13 : (DieCmd.openRow 13).frame = [0x11, 0x0D, 0, 0, 0, 0, 0x20] := by decide
theorem test_frame_pulse_case_c :
    (DieCmd.pulse (cellsWord [0, 1, 2, 10, 11, 17, 18, 19])).frame = [0x12, 0, 0x07, 0x0C, 0x0E, 0, 0x2B] := by decide
theorem test_response_case_a :
    responseBytes doneByte (cellsWord [0, 1, 24, 31]) = [0xD1, 0x03, 0, 0, 0x81, 0x6F] := by decide
/-- A damaged header followed by a good frame: unit 1, kind 0x05, tag 9. -/
theorem test_damaged_header :
    (match execAll (bytesArrive [0xA6, 0xA6, 0x05, 0x49, 0x00, 0x00, 0xB3])
        { State.reset with link := { State.reset.link with unitAddr := 1 } } with
      | .next t => decide (t.link.intake = [{ kind := 0x05, tag := 9, held := none, payload := [] }])
      | _ => false) = true := by decide

/-! ### Witnesses: resets and the control link -/

theorem length_bytes (n : Nat) (b : Byte) : (List.replicate n b).length = n := List.length_replicate

def heldState : State := { State.reset with rst := { heldInReset := true, cause := .line, requestPending := false } }

/-- A machine whose output queue holds one frame. -/
def sending (src : OutSource) : State :=
  State.reset.push { source := src, kind := 0x87, tag := 5, payload := [0] }

theorem test_witness_ReleaseSamplesStrapsAndPump :
    heldState.rst.heldInReset = true ∧ State.reset.rst.heldInReset = false := by decide

theorem test_witness_ResetUnitWaitsForItsReply :
    (withReq State.reset 0x07 []).Front 0x07 (req 0x07 []) [] ∧
    (∃ o rest, (sending .resetReply).link.outq = o :: rest ∧ o.source = .resetReply) :=
  ⟨front_withReq _ _ _ rfl rfl, _, _, rfl, rfl⟩

def inGap : State := State.reset.setRx (Receiver.inHeader [0x05])

/-- A receiver with four header bytes, whose check is 0xF9. -/
def inHeader4 : State := State.reset.setRx (Receiver.inHeader [0x05, 0x05, 0x00, 0xA6])

/-- Also a header of three bytes, a right and two wrong check bytes: one with no start byte among the five but the fourth, one
that is the start byte itself after a header without one. -/
theorem test_witness_ReceiverHandlesByteAndGap :
    inGap.link.rx.gap = some 1 ∧ State.reset.link.rx.gap = none ∧ State.reset.link.rx.mode = .hunt ∧
    heldState.rst.heldInReset = true ∧ inGap.rst.heldInReset = false ∧ inGap.link.rx.mode = .header ∧
    inGap.link.rx.header.length < 4 ∧ inHeader4.rst.heldInReset = false ∧ inHeader4.link.rx.mode = .header ∧
    inHeader4.link.rx.header = [0x05, 0x05, 0x00, 0xA6] ∧ (0x00 : Byte) ≠ 0xFF ^^^ 0x05 ^^^ 0x05 ^^^ 0x00 ^^^ 0xA6 ∧
    ([0x05, 0x05, 0x00, 0xA6, 0x00] : List Byte) = [0x05, 0x05, 0x00] ++ 0xA6 :: [0x00] ∧
    0xA6 ∉ ([0x05, 0x05, 0x00] : List Byte) ∧ (0xA6 : Byte) ≠ 0xFF ^^^ 0x05 ^^^ 0x05 ^^^ 0x00 ^^^ 0x01 ∧
    (0x00 : Byte) ≠ 0xFF ^^^ 0x05 ^^^ 0x05 ^^^ 0x00 ^^^ 0x01 ∧
    0xA6 ∉ ([0x05, 0x05, 0x00, 0x01, 0x00] : List Byte) := by decide

theorem test_witness_SentFrameLeavesTheOutputQueue :
    (∃ o rest, (sending .reply).link.outq = o :: rest ∧ o.source ≠ .resetReply) ∧ State.reset.link.outq = [] :=
  ⟨⟨_, _, rfl, by decide⟩, rfl⟩

/-- The highest request kind with the longest payload, and a kind with none. -/
theorem test_witness_WholeFrameReachesTheIntakeQueue :
    State.reset.rst.heldInReset = false ∧ State.reset.link.rx = Receiver.hunting ∧ (0x3F : Byte).toNat < 0x40 ∧
    (List.replicate 600 (0 : Byte)).length ≤ 600 ∧ State.reset.link.slotsHeld < 4 := by
  refine ⟨rfl, rfl, by decide, (length_bytes 600 0).le, by decide⟩

theorem test_witness_ForeignFrameLeavesNoTrace :
    State.reset.rst.heldInReset = false ∧ State.reset.link.rx = Receiver.hunting ∧
    ((3 : BitVec 2) ≠ State.reset.link.unitAddr) ∧ 0x40 ≤ (0x40 : Byte).toNat ∧
    (List.replicate 65535 (0 : Byte)).length < 65536 := by
  refine ⟨rfl, rfl, by decide, by decide, ?_⟩
  rw [length_bytes]
  omega

/-- One CRC byte received of a frame with payload 0x11. -/
def inCrc (b0 : Byte) (full : Bool) : State :=
  { State.reset with link := { State.reset.link with
      rx := { Receiver.hunting with mode := .crc, header := [0x05, 0x05, 0, 1, 0], payload := [0x11], crc := [b0]
                                    gap := some 1 }
      intake := if full then List.replicate 4 (req 0x01 []) else [] } }

def crcLow : Byte := (payloadCrc [0x11]).setWidth 8
def crcHigh : Byte := ((payloadCrc [0x11]) >>> 8).setWidth 8

/-- The last and a middle byte of a frame passed over, for this unit or another. -/
def skipping (left : Nat) (answer : Bool) : State :=
  State.reset.setRx (Receiver.skipping [0x05, 0x05, 0x02, 0x59, 0xA1] left answer)

/-- A right and a wrong CRC, with a free slot and with none; a header of length 0 and one of length 601; a frame passed over. -/
theorem test_witness_CompletedFrameTakesSlotOrOverruns :
    ((inCrc crcLow false).rst.heldInReset = false ∧ (inCrc crcLow false).link.rx.mode = .crc ∧
      crcHigh ++ crcLow = payloadCrc (inCrc crcLow false).link.rx.payload ∧
      crcHigh ++ ~~~crcLow ≠ payloadCrc (inCrc (~~~crcLow) true).link.rx.payload ∧
      (inCrc crcLow false).link.slotsHeld = 0 ∧ (inCrc crcLow true).link.slotsHeld = 4) ∧
    (256 * (0 : Byte).toNat + (0 : Byte).toNat = 0 ∧ 600 < 256 * (0x02 : Byte).toNat + (0x59 : Byte).toNat ∧
      ((0x05 : Byte) >>> 6).setWidth 2 = State.reset.link.unitAddr ∧ (0x3F : Byte).toNat < 0x40 ∧
      (State.reset.setRx (Receiver.inHeader [0x3F, 0x05, 0x02, 0x59])).link.rx.header = [0x3F, 0x05, 0x02, 0x59]) ∧
    ((skipping 2 true).link.rx.mode = .skip ∧ 1 < (skipping 2 true).link.rx.skipLeft ∧
      (skipping 1 true).link.rx.skipLeft = 1 ∧ (skipping 1 true).link.rx.skipAnswer = true ∧
      (skipping 1 false).link.rx.skipAnswer = false) := by decide

theorem test_witness_StepKeepsIntakeSlots :
    ∃ s t, s.link.slotsHeld = 4 ∧ s.LinkInv ∧ step s = .next t :=
  ⟨{ inCrc crcLow true with pending := [.identify] }, _, by decide, ⟨by decide, by decide⟩, rfl⟩

theorem test_witness_HeldAndUnknownFramesAnswered :
    (∃ (s : State) (f : InFrame), s.link.intake = [f] ∧ f.held = some .frameCheck ∧ s.rst.heldInReset = false ∧
      s.rst.requestPending = false) ∧
    (withReq State.reset 0x08 []).Front 0x08 (req 0x08 []) [] ∧ (withReq State.reset 0x3F []).Front 0x3F (req 0x3F []) [] :=
  ⟨⟨{ State.reset with link := { State.reset.link with intake := [{ req 0x05 [] with held := some .frameCheck }] } }, _,
    rfl, rfl, rfl, rfl⟩, front_withReq _ _ _ rfl rfl, front_withReq _ _ _ rfl rfl⟩

/-- One wrong length for each request, at the edge of the lengths allowed; the frame in front is withReq's. -/
theorem test_witness_WrongLengthRefused :
    (∀ k : Byte, ∀ n : Nat, (withReq State.reset k (List.replicate n 0)).Front k (req k (List.replicate n 0)) []) ∧
    (List.replicate 1 (0 : Byte)).length ≠ 0 ∧ ¬ ((List.replicate 55 (0 : Byte)).length ≤ 50) ∧
    (List.replicate 8 (0 : Byte)).length ≠ 9 ∧ (List.replicate 2 (0 : Byte)).length ≠ 1 ∧
    ¬ (∃ n : Nat, ((List.replicate 37 (0 : Byte)).head?.map BitVec.toNat) = some n ∧ 1 ≤ n) ∧
    (List.replicate 3 (0 : Byte)).length ≠ 2 ∧ (List.replicate 2 (0 : Byte)).length ≠ 3 := by
  refine ⟨fun k n => front_withReq _ _ _ rfl rfl, by decide, by decide, by decide, by decide, ?_, by decide, by decide⟩
  rintro ⟨n, h, h1⟩
  have : n = 0 := by simpa using h.symm
  omega

theorem test_witness_IdentifyAndStatusReport :
    (withReq State.reset 0x01 []).Front 0x01 (req 0x01 []) [] ∧ (withReq opened 0x02 []).Front 0x02 (req 0x02 []) [] :=
  ⟨front_withReq _ _ _ rfl rfl, front_withReq _ _ _ rfl rfl⟩

/-! ### Witnesses: configuration, enables and events -/

/-- All ten parameters, each out of its range where it can be, and every site taken out. -/
def tenEntries : List (ParamId × Nat) :=
  [(.pulseWidth, 4), (.maxRounds, 9), (.rowOpenLimit, 199), (.dieResponseTimeout, 1001), (.seatDebounce, 499),
   (.seatTimeout, 201), (.pumpHoldLimit, 0), (.pumpCapacity, 129), (.poolLowThreshold, 0), (.sitesEnabled, 0)]

def entryPayload (es : List (ParamId × Nat)) : List Byte := es.flatMap (fun e => e.1.byte :: bytesLE 4 e.2)

theorem test_witness_ConfigureAppliesEveryEntry :
    let s := withReq State.reset 0x03 (entryPayload tenEntries)
    s.Front 0x03 (req 0x03 (entryPayload tenEntries)) [] ∧ tenEntries ≠ [] ∧ (tenEntries.map Prod.fst).Nodup ∧
    (∀ e ∈ tenEntries, e.2 < 2 ^ 32) ∧ (∀ e ∈ tenEntries, e.1 = .sitesEnabled → e.2 < 65536) ∧ s.td.state = .clear ∧
    (∀ i : SiteNo, (s.site i).queue = []) :=
  ⟨front_withReq _ _ _ rfl rfl, by decide, by decide, by decide, by decide, by decide, by decide⟩

theorem test_witness_SetEnablesReplacesEnables :
    (withReq State.reset 0x04 (List.replicate 9 0xFF)).Front 0x04 (req 0x04 (List.replicate 9 0xFF)) [] ∧
    (List.replicate 9 (0xFF : Byte)).length = 9 := ⟨front_withReq _ _ _ rfl rfl, by decide⟩

/-- Scopes 15, 16 and 17. -/
theorem test_witness_ReadEventsReturnsAndClears :
    (∀ b : Byte, (withReq State.reset 0x16 [b]).Front 0x16 (req 0x16 [b]) []) ∧ (15 : Byte).toNat = (15 : SiteNo).val ∧
    16 < (17 : Byte).toNat := ⟨fun _ => front_withReq _ _ _ rfl rfl, by decide, by decide⟩

/-- A contact is lost at a seated site: CONTACT differs after the command. READ EVENTS of scopes 15 and 16. -/
theorem test_witness_LatchRunsThrottleTest :
    let s := opened.setSite 3 { SiteCtl.afterReset with posture := .seated }
    (∃ t, exec (.contactDropped 3) s = .next t ∧ s.resetsAt (.contactDropped 3) = false ∧
      t.condOf 3 .contact ≠ s.condOf 3 .contact) ∧
    (withReq State.reset 0x16 [15]).Front 0x16 (req 0x16 [15]) [] ∧ (15 : Byte).toNat = (15 : SiteNo).val ∧
    (withReq State.reset 0x16 [16]).Front 0x16 (req 0x16 [16]) [] := by
  have h : after (.contactDropped 3) (opened.setSite 3 { SiteCtl.afterReset with posture := .seated })
    (fun t => t.condOf 3 .contact) = true := by decide
  obtain ⟨t, h1, h2⟩ := after_next h
  exact ⟨⟨t, h1, by decide, by rw [h2]; decide⟩, front_withReq _ _ _ rfl rfl, by decide, front_withReq _ _ _ rfl rfl⟩

/-- Refusals: id 0, id 0x0B, an id twice, a SITES_ENABLED value of 65536. -/
theorem test_witness_RefusedRequestsChangeNothing :
    (∃ e ∈ ([(0x0B, 1)] : List (Byte × BitVec 32)), e.1 = 0 ∨ 0x0A < e.1) ∧
    ¬ (([(0x02, 1), (0x02, 2)] : List (Byte × BitVec 32)).map Prod.fst).Nodup ∧
    (∃ e ∈ ([(0x0A, 65536)] : List (Byte × BitVec 32)), e.1 = 0x0A ∧ 65535 < e.2.toNat) ∧
    (withReq opened 0x03 (entryPayload tenEntries)).td.state ≠ .clear ∧
    (let s := withReq (State.reset.setSite 3 { SiteCtl.afterReset with queue := [posting1] }) 0x03 (entryPayload tenEntries)
     s.td.state = .clear ∧ (ParamId.sitesEnabled, 0) ∈ tenEntries ∧ s.enabled 3 = true ∧ (s.site 3).queue ≠ [] ∧
     (0 : Nat).testBit 3 = false) ∧
    (withReq opened 0x05 []).Front 0x05 (req 0x05 []) [] ∧ (withReq opened 0x06 [2]).Front 0x06 (req 0x06 [2]) [] ∧
    (withReq State.reset 0x06 [1]).td.state = .clear ∧ 1 < (2 : Byte).toNat := by
  refine ⟨by decide, by decide, by decide, by decide, by decide, front_withReq _ _ _ rfl rfl, front_withReq _ _ _ rfl rfl,
    by decide, by decide⟩

/-! ### Witnesses: the touchdown cycle -/

theorem test_witness_TouchdownOpensACycle :
    (withReq State.reset 0x05 []).Front 0x05 (req 0x05 []) [] ∧ (withReq State.reset 0x05 []).td.state = .clear ∧
    (withReq State.reset 0x05 []).PostureInv := by
  refine ⟨front_withReq _ _ _ rfl rfl, rfl, ?_⟩
  unfold State.PostureInv
  decide

/-- A job that waits for a response, and one that waits for its key. -/
def exchanging : State := oneJob (inPhase .bringup) (some (awaiting .reset))
def waitingKey : State :=
  { oneJob (inPhase .keyWait) none with ks := { KeyStore.afterReset with waitList := [3] } }
def lifting : State := { exchanging with td := { exchanging.td with state := .liftingDrain, deferred := some 9 } }

theorem test_witness_LiftoffDrainWaitsOrCompletes :
    (withReq exchanging 0x06 [0]).Front 0x06 (req 0x06 [0]) [] ∧ (withReq exchanging 0x06 [0]).td.state = .opened ∧
    (withReq exchanging 0x06 [0]).anyActive = true ∧
    (withReq opened 0x06 [1]).Front 0x06 (req 0x06 [1]) [] ∧ (withReq opened 0x06 [1]).td.state = .opened ∧
    (withReq opened 0x06 [1]).anyActive = false :=
  ⟨front_withReq _ _ _ rfl rfl, by decide, by decide, front_withReq _ _ _ rfl rfl, by decide, by decide⟩

/-- Two requests wait while PUMP is declared: site 3 for 8 units, and site 5 for 1. -/
def chunk8 : Row := 0xFF
def waitJob : Job :=
  { inPhase .program with engine := { RowEngine.idle with
      stage := .grantWait, regionRow := 13, purpose := .own 13, chunks := [chunk8, 0xF00], rowOpen := true
      openTimer := some 1000, round := 1 } }
def pumpDown : State :=
  { oneJob waitJob none with arb := { Arbiter.afterReset with
      pump := true, holdTimer := some 50, waiting := (Vector.replicate 16 none).set 3 (some 8) } }

/-- Settling on the first opening, waiting for a grant, pulsing, and resting. -/
def settleJob (left : Nat) : Job :=
  { inPhase .program with engine := { RowEngine.idle with
      stage := .settling, settleTimer := some 10, openTimer := some left, rowOpen := true, regionRow := 13
      purpose := .own 13, word := rowWord 0x1E0C07, target := rowWord 0x1E0C07 } }

/-- A job that settles with its row open, and one that rests with its row closed. -/
def settling : State := oneJob (settleJob 30) none
def restJob (stage : Stage) (reopens : Nat) : Job :=
  { waitJob with engine := { waitJob.engine with
      stage := stage, rowOpen := false, openTimer := none, restTimer := some 50, reopens := reopens } }

/-- A job with an exchange, one settling, one waiting for its key, and one in GRANT_WAIT. -/
theorem test_witness_LiftoffAbortEndsEveryJob :
    ((withReq exchanging 0x06 [1]).Front 0x06 (req 0x06 [1]) [] ∧ (withReq exchanging 0x06 [1]).SiteInv ∧
      (withReq exchanging 0x06 [1]).td.state = .opened) ∧
    ((withReq settling 0x06 [1]).SiteInv ∧ (settling.site 3).job = some (settleJob 30) ∧
      (settling.site 3).port.exch = none ∧ settling.arb.waiting[(3 : SiteNo)] = none ∧
      (settleJob 30).engine.rowOpen = true ∧ (settleJob 30).phase ≠ .ending) ∧
    ((withReq waitingKey 0x06 [1]).SiteInv ∧ (waitingKey.site 3).job = some (inPhase .keyWait) ∧
      (inPhase .keyWait).engine.rowOpen = false) ∧
    ((withReq pumpDown 0x06 [1]).SiteInv ∧ pumpDown.td.state = .opened ∧ (pumpDown.site 3).job = some waitJob ∧
      pumpDown.arb.waiting[(3 : SiteNo)] = some 8 ∧ waitJob.engine.rowOpen = true) ∧
    (∃ t, exec .liftoff (withReq exchanging 0x06 [1]) = .next t ∧ t.anyActive = true) ∧
    (∃ t, exec .liftoff (withReq waitingKey 0x06 [1]) = .next t ∧ (!t.anyActive) = true) :=
  ⟨⟨front_withReq _ _ _ rfl rfl, siteInvCheck_ok (by decide), by decide⟩,
    ⟨siteInvCheck_ok (by decide), by decide, by decide, by decide, by decide, by decide⟩,
    ⟨siteInvCheck_ok (by decide), by decide, by decide⟩,
    ⟨siteInvCheck_ok (by decide), by decide, by decide, by decide, by decide⟩,
    after_next (p := State.anyActive) (by decide +kernel), after_next (p := fun t => !t.anyActive) (by decide +kernel)⟩

/-- R126, R131: the abort of the only job, in KEY_WAIT, completes the lift: the tag of the request, number 1, count 1. -/
theorem test_liftoff_abort_completes :
    after .liftoff (withReq waitingKey 0x06 [1]) (fun t => decide (t.td.state = .clear ∧ t.link.outq =
      [{ source := .deferred, kind := 0x86, tag := 5, payload := [0, 0, 1, 0, 0, 0, 1] }])) = true := by decide +kernel

/-- A drain whose last active job waits for its key. -/
def drainingKeyWait : State :=
  { waitingKey with td := { waitingKey.td with state := .liftingDrain, deferred := some 9, liftCount := 4 } }

/-- A merge that changes nothing, in both states, and an upgrade: with a job that goes on in ENDING, and with one that ends. -/
theorem test_witness_LiftoffWhileLiftingMerges :
    (withReq lifting 0x06 [0]).Front 0x06 (req 0x06 [0]) [] ∧ (withReq lifting 0x06 [0]).td.state = .liftingDrain ∧
    (withReq lifting 0x06 [0]).anyActive = true ∧
    (∃ s : State, (withReq s 0x06 [1]).td.state = .liftingAbort ∧ (withReq s 0x06 [1]).anyActive = true) ∧
    (∃ t, exec .liftoff (withReq lifting 0x06 [1]) = .next t ∧ t.anyActive = true) ∧
    (∃ t, exec .liftoff (withReq drainingKeyWait 0x06 [1]) = .next t ∧ t.anyActive = false ∧
      drainingKeyWait.td.deferred = some 9) := by
  refine ⟨front_withReq _ _ _ rfl rfl, by decide, by decide,
    ⟨{ lifting with td := { lifting.td with state := .liftingAbort } }, by decide, by decide⟩, ?_, ?_⟩
  · exact after_next (p := State.anyActive) (by decide +kernel)
  · have h : after .liftoff (withReq drainingKeyWait 0x06 [1]) (fun t => !t.anyActive) = true := by decide +kernel
    obtain ⟨t, h1, h2⟩ := after_next h
    exact ⟨t, h1, by simpa using h2, rfl⟩

/-- R129, R165: the upgrade ends the fifth job of the lift; the MERGED reply in LIFTING(abort) stands ahead of the deferred one. -/
theorem test_liftoff_upgrade_completes :
    after .liftoff (withReq drainingKeyWait 0x06 [1]) (fun t => decide (t.td.state = .clear ∧ t.link.outq =
      [rep 0x06 0x02 [3, 1, 0, 0, 0, 5],
       { source := .deferred, kind := 0x86, tag := 9, payload := [0, 0, 1, 0, 0, 0, 5] }])) = true := by decide +kernel

theorem test_witness_StepKeepsLiftOpenOnlyWithJobs :
    ∃ s t, s.td.state = .liftingDrain ∧ s.LiftInv ∧ step s = .next t :=
  ⟨{ lifting with pending := [.gapTimerExpiry], link := inGap.link }, _, rfl, ⟨by decide, by decide⟩, rfl⟩

/-- The last active job of a lift ends by a lost contact: the deferred reply goes out. -/
theorem test_witness_LiftCompletionSendsDeferredReply :
    ∃ t, exec (.contactDropped 3) lifting = .next t ∧ lifting.resetsAt (.contactDropped 3) = false ∧
      lifting.td.state.lifting = true ∧ lifting.td.deferred = some 9 ∧ t.td.state = .clear := by
  have h : after (.contactDropped 3) lifting (fun t => decide (t.td.state = .clear)) = true := by decide +kernel
  obtain ⟨t, h1, h2⟩ := after_next h
  exact ⟨t, h1, by decide, by decide, by decide, by simpa using h2⟩

theorem test_witness_OwnersOfSlowState :
    ∃ t, exec (.contactDropped 3) lifting = .next t ∧ lifting.resetsAt (.contactDropped 3) = false := by
  have h : after (.contactDropped 3) lifting (fun _ => true) = true := by decide
  obtain ⟨t, h1, _⟩ := after_next h
  exact ⟨t, h1, by decide⟩

/-! ### Witnesses: keys, jobs and records -/

def key7 : Key := { index := 7, bytes := List.replicate 32 0 }
def key9 : Key := { index := 9, bytes := List.replicate 32 1 }
def keyPayload (keys : List Key) : List Byte :=
  BitVec.ofNat 8 keys.length :: keys.flatMap (fun k => bytesLE 4 k.index.toNat ++ k.bytes)

theorem test_witness_LoadKeysAppendsToTheFreeQueue :
    let s := withReq State.reset 0x10 (keyPayload [key7, key9])
    s.Front 0x10 (req 0x10 (keyPayload [key7, key9])) [] ∧ s.LiftInv ∧ (∀ k ∈ [key7, key9], k.bytes.length = 32) ∧
    [key7, key9].getLast? = some key9 ∧ [key7, key9].Pairwise (fun a b => a.index < b.index) ∧
    (∀ k ∈ [key7, key9], s.ks.highWater < k.index) ∧ s.ks.free.length + s.ks.boundCount + 2 ≤ 1024 ∧ s.ks.waitList = [] :=
  ⟨front_withReq _ _ _ rfl rfl, ⟨by decide, by decide⟩, by decide, rfl, by decide, by decide, by decide, rfl⟩

/-- The first waiter's own region row 0 is blank, so it has no conflict cell. -/
theorem test_witness_LoadKeysServesWaitingSites :
    let s := withReq waitingKey 0x10 (keyPayload [key7])
    s.Front 0x10 (req 0x10 (keyPayload [key7])) [] ∧ s.SiteInv ∧ (∀ k ∈ [key7], k.bytes.length = 32) ∧
    (∀ k ∈ [key7], s.ks.highWater < k.index) ∧ s.ks.free.length + s.ks.boundCount + 1 ≤ 1024 ∧
    s.ks.waitList[0]? = some 3 ∧ (s.site 3).job = some (inPhase .keyWait) ∧
    ∀ word : Row, cellCount ((inPhase .keyWait).snapshot.getD 0 0 &&& ~~~word) ≤ 1 := by
  refine ⟨front_withReq _ _ _ rfl rfl, siteInvCheck_ok (by decide), by decide, by decide, by decide, by decide, by decide, ?_⟩
  intro word
  have : (inPhase .keyWait).snapshot.getD 0 0 = 0 := rfl
  rw [this]
  simp [cellCount, onesBelow]

theorem test_witness_DiscardKeysEmptiesTheFreeQueue :
    (withReq State.reset 0x11 []).Front 0x11 (req 0x11 []) [] := front_withReq _ _ _ rfl rfl

def provPayload (b : Byte) : List Byte :=
  b :: bytesLE 2 posting1.tag.toNat ++ bytesLE 3 posting1.lot.toNat ++ [posting1.wafer, posting1.x, posting1.y]

/-- Site byte 16; a disabled site; two queued jobs; one queued job. -/
theorem test_witness_ProvisionRefusalsAndSecondJob :
    (withReq State.reset 0x12 (provPayload 16)).Front 0x12 (req 0x12 (provPayload 16)) [] ∧ 15 < (16 : Byte).toNat ∧
    ({ State.reset with cfg := { Params.default with sitesEnabled := 0 } } : State).enabled 15 = false ∧
    (opened.setSite 3 { SiteCtl.afterReset with queue := [posting1, posting1] }).enabled 3 = true ∧
    ((opened.setSite 3 { SiteCtl.afterReset with queue := [posting1, posting1] }).site 3).queue.length = 2 ∧
    ((opened.setSite 3 { SiteCtl.afterReset with queue := [posting1] }).site 3).queue = [posting1] :=
  ⟨front_withReq _ _ _ rfl rfl, by decide, by decide, by decide, by decide, by decide⟩

/-- A seated site that may start its head job. -/
def seated (q : List Posting) : State := opened.setSite 3 { SiteCtl.afterReset with posture := .seated, queue := q }

/-- A record, and a log full of it. -/
def record1 : Record :=
  { seq := 1, posting := posting1, site := 2, touchdown := 1, outcome := .aborted, disposition := .none, keyIndex := none
    relocated := 0, corrected := 0, pulses := 0, failingRow := none }
def fullLog (s : State) (n : Nat) : State := { s with log := { s.log with records := List.replicate n record1, nextSeq := 2 } }

theorem fullLog_length (s : State) (n : Nat) : (fullLog s n).log.records.length = n := List.length_replicate

theorem fullLog_slots (s : State) (n : Nat) (k : Byte) (p : List Byte) :
    (withReq (fullLog s n) k p).log.slotsInUse = n + s.log.reservations := by
  show (fullLog s n).log.records.length + _ = _
  rw [fullLog_length]
  rfl

theorem test_mayAdmit_seated (q : List Posting) : (seated q).MayAdmit 3 := ⟨rfl, rfl, rfl, rfl, rfl⟩

/-- Not OPEN; log full at 256; log with 255 slots in use. -/
theorem test_witness_ProvisionAdmitsQueuesOrWaits :
    (withReq (seated []) 0x12 (provPayload 3)).Front 0x12 (req 0x12 (provPayload 3)) [] ∧
    provPayload 3 = BitVec.ofNat 8 (3 : SiteNo).val :: bytesLE 2 posting1.tag.toNat ++ bytesLE 3 posting1.lot.toNat
      ++ [posting1.wafer, posting1.x, posting1.y] ∧
    (seated []).enabled 3 = true ∧ ((seated []).site 3).queue = [] ∧ (seated []).log.slotWaiters[(3 : SiteNo)] = false ∧
    (seated []).MayAdmit 3 ∧ ¬ State.reset.MayAdmit 3 ∧
    256 ≤ (fullLog (seated []) 256).log.records.length + (fullLog (seated []) 256).log.reservations ∧
    (fullLog (seated []) 255).log.records.length + (fullLog (seated []) 255).log.reservations < 256 := by
  refine ⟨front_withReq _ _ _ rfl rfl, by decide, by decide, rfl, by decide, test_mayAdmit_seated [], ?_, ?_, ?_⟩
  · intro h; exact absurd h.opened (by decide)
  · rw [fullLog_length]
    omega
  · rw [fullLog_length]
    decide

/-- Site byte 16, scope 3, no job, a job in ENDING, a job with an exchange, jobs without one: settling, in GRANT_WAIT, resting. -/
theorem test_witness_CancelQueuedAndActive :
    ((∀ (s : State) (p : List Byte), s.rst = State.reset.rst → (withReq s 0x13 p).Front 0x13 (req 0x13 p) []) ∧
      15 < (16 : Byte).toNat ∧ 2 < (3 : Byte).toNat ∧ opened.LiftInv ∧ exchanging.LiftInv ∧ (opened.site 3).job = none ∧
      ((oneJob (inPhase .ending) none).site 3).job = some (inPhase .ending) ∧
      (exchanging.site 3).job = some (inPhase .bringup) ∧ (exchanging.site 3).port.exch = some (awaiting .reset) ∧
      exchanging.arb.waiting[(3 : SiteNo)] = none) ∧
    ((settling.site 3).job = some (settleJob 30) ∧ (settling.site 3).port.exch = none ∧
      (settleJob 30).engine.rowOpen = true ∧ settling.arb.waiting[(3 : SiteNo)] = none) ∧
    ((pumpDown.site 3).job = some waitJob ∧ (pumpDown.site 3).port.exch = none ∧ waitJob.engine.rowOpen = true ∧
      pumpDown.arb.waiting[(3 : SiteNo)] = some 8) ∧
    (((oneJob (restJob .resting 0) none).site 3).job = some (restJob .resting 0) ∧
      (restJob .resting 0).engine.rowOpen = false ∧ (restJob .resting 0).phase ≠ .ending) ∧
    (∀ s : State, s.CancelsFirst 3 1 [] s ∧ s.CancelsFirst 3 2 (s.site 3).queue (s.unqueued 3)) := by
  refine ⟨⟨fun s p h => front_withReq _ _ _ (by rw [h]; rfl) (by rw [h]; rfl), by decide, by decide,
    ⟨by decide, by decide⟩, ⟨by decide, by decide⟩, by decide, by decide, by decide, by decide, by decide⟩, by decide,
    by decide, by decide, fun s => ⟨.inl ⟨rfl, rfl, rfl⟩, .inr ⟨rfl, rfl, rfl⟩⟩⟩

theorem test_witness_CancelAllEndsAWaitingJob :
    (withReq waitingKey 0x13 [3, 2]).Front 0x13 (req 0x13 [3, 2]) [] ∧ (withReq waitingKey 0x13 [3, 2]).SiteInv ∧
    ((withReq waitingKey 0x13 [3, 2]).site 3).job = some (inPhase .keyWait) ∧
    (withReq waitingKey 0x13 [3, 2]).td.state = .opened :=
  ⟨front_withReq _ _ _ rfl rfl, siteInvCheck_ok (by decide), by decide, by decide⟩

theorem test_witness_EveryEndedJobLeavesOneRecord :
    ∃ t, exec (.contactDropped 3) exchanging = .next t ∧ exchanging.resetsAt (.contactDropped 3) = false ∧
      exchanging.active 3 = true ∧ t.active 3 = false := by
  have h : after (.contactDropped 3) exchanging (fun t => !t.active 3) = true := by decide
  obtain ⟨t, h1, h2⟩ := after_next h
  exact ⟨t, h1, by decide, by decide, by simpa using h2⟩

theorem test_witness_ReadRecordsReturnsOldestFirst :
    (withReq (fullLog opened 3) 0x14 [0, 0xFF, 0xFF]).Front 0x14 (req 0x14 [0, 0xFF, 0xFF]) [] ∧
    [(0 : Byte), 0xFF, 0xFF] = 0 :: bytesLE 2 (0xFFFF : BitVec 16).toNat :=
  ⟨front_withReq _ _ _ rfl rfl, by decide⟩

/-- A log of 256 slots, one site waiting, two records cleared. -/
theorem test_witness_ClearRecordsHandsSlotsInSiteOrder :
    let s := withReq (fullLog ((seated [posting1]).setSlotWaiter 3 true) 256) 0x15 [2, 0]
    s.Front 0x15 (req 0x15 [2, 0]) [] ∧ [(2 : Byte), 0] = bytesLE 2 (2 : BitVec 16).toNat ∧ s.LogInv ∧
    s.log.slotWaiters[(3 : SiteNo)] = true := by
  refine ⟨front_withReq _ _ _ rfl rfl, by decide, ⟨?_, by decide, by decide⟩, by decide⟩
  rw [fullLog_slots]
  decide

/-- The wrap: the record of number 4 294 967 295 is followed by 1. -/
theorem test_witness_StepKeepsSequenceNumbers :
    ∃ s t : State, s.log.records ≠ [] ∧ s.SeqInv ∧ step s = .next t := by
  refine ⟨{ State.reset with
    log := { IssueLog.afterReset with records := [{ record1 with seq := 0xFFFFFFFF }, record1], nextSeq := 2 } }, _,
    by decide, ⟨by decide, by decide, ?_, ?_⟩, rfl⟩
  · exact ⟨by decide, trivial⟩
  · intro r h
    have : r = record1 := by simpa using h.symm
    subst this
    decide

theorem test_witness_StepKeepsLogAccount :
    ∃ s t : State, s.active 3 = true ∧ s.LogInv ∧ step s = .next t :=
  ⟨exchanging, _, by decide, ⟨by decide, by decide, by decide⟩, rfl⟩

/-! ### Witnesses: site inputs and the programming supply -/

/-- A site with a posture and its timers running. -/
def posed (p : Posture) : State :=
  opened.setSite 3 { SiteCtl.afterReset with posture := p, debounce := some 2000, seatTimeout := some 20 }

theorem test_witness_SiteInputsFollowed :
    ((posed .unseated).site 3).posture = .unseated ∧ ((posed .unseated).site 3).seatTimeout = some 20 ∧
    ((posed .seating).site 3).posture ≠ .seated ∧ ((posed .seated).site 3).posture = .seated ∧
    ((posed .seated).site 3).job = none ∧ (posed .seated).LiftInv ∧ ((posed .clear).site 3).debounce = some 2000 ∧
    ((posed .clear).site 3).posture ≠ .seating ∧ State.reset.td.state = .clear ∧ opened.enabled 3 = true ∧
    opened.td.state ≠ .clear ∧ opened.condOf 3 .dieSupply = false := by
  refine ⟨by decide, by decide, by decide, by decide, by decide, ⟨by decide, by decide⟩, by decide, by decide, by decide,
    by decide, by decide, by decide⟩

/-- A seating site and an over-limit site, each with a queued job. -/
def seatingSite : State :=
  opened.setSite 3 { SiteCtl.afterReset with
    posture := .seating, debounce := some 2000, seatTimeout := some 20, queue := [posting1] }
def overLimit : State := (seated [posting1]).setCond 3 .dieSupply true

theorem test_witness_AdmissionTestedAtSeatingAndSupply :
    (seatingSite.site 3).debounce = some 2000 ∧ (seatingSite.site 3).posture = .seating ∧
    seatingSite.condOf 3 .contact = false ∧
    (seatingSite.setSite 3 { seatingSite.site 3 with posture := .seated, debounce := none, seatTimeout := none }).MayAdmit 3 ∧
    (seatingSite.site 3).queue = [posting1] ∧ seatingSite.log.slotWaiters[(3 : SiteNo)] = false ∧
    overLimit.enabled 3 = true ∧ overLimit.td.state ≠ .clear ∧ overLimit.condOf 3 .dieSupply = true ∧
    ((overLimit.setOverLimitPin 3 false).changeCond 3 .dieSupply false).MayAdmit 3 := by
  refine ⟨by decide, by decide, by decide, ⟨by decide, by decide, by decide, by decide, by decide⟩, by decide, by decide,
    by decide, by decide, by decide, ⟨by decide, by decide, by decide, by decide, by decide⟩⟩

theorem test_witness_PumpFollowsItsInput :
    heldState.rst.heldInReset = true ∧ pumpDown.rst.heldInReset = false ∧ pumpDown.arb.waiting[(3 : SiteNo)] = some 8 ∧
    (∀ k : SiteNo, (k - pumpDown.arb.pointer).val < ((3 : SiteNo) - pumpDown.arb.pointer).val →
      pumpDown.arb.waiting[k] = none) ∧
    pumpDown.arb.inUse + 8 ≤ pumpDown.cfg.pumpCapacity ∧ (pumpDown.site 3).job = some waitJob := by decide

theorem test_witness_PumpHoldExpiryAbortsWaiters :
    pumpDown.arb.holdTimer = some 50 ∧ pumpDown.SiteInv ∧ pumpDown.arb.waiting[(3 : SiteNo)] = some 8 ∧
    waitJob.phase ≠ .ending ∧ waitJob.engine.rowOpen = true :=
  ⟨rfl, siteInvCheck_ok (by decide), by decide, by decide, by decide⟩

theorem test_witness_StepKeepsSiteInvariant :
    ∃ s t : State, s.arb.waiting[(3 : SiteNo)] = some 8 ∧ s.LogInv ∧ s.SiteInv ∧ step s = .next t :=
  ⟨pumpDown, _, by decide, ⟨by decide, by decide, by decide⟩, siteInvCheck_ok (by decide), rfl⟩

/-- A command frame being clocked out. -/
def sendingFrame (c : DieCmd) : State := oneJob (inPhase .bringup) (some { awaiting c with timer := none })

/-- The same, to a die that still carries out an earlier RESET, whose selection has ended. -/
def earlierFrame : State :=
  (sendingFrame .reset).setDie 3 { Die.powerOn blankCells with
    held := [{ frame := { code := 0x01, row := 0, arg := 0 }, live := false }] }

theorem test_witness_StepKeepsRangesPosturesKeysAndFrames :
    (∃ s t : State, s.RangeInv ∧ s.PostureInv ∧ s.KeyInv ∧ s.ks.free ≠ [] ∧ step s = .next t) ∧
    (∃ s t : State, s.DieInv ∧ (s.die 3).held ≠ [] ∧ step s = .next t) := by
  refine ⟨⟨{ State.reset with ks := { KeyStore.afterReset with free := [key7, key9], highWater := 9 } }, _,
    ⟨by decide, by decide, by decide, by decide, by decide, by decide, by decide, by decide, by decide⟩, ?_,
    ⟨by decide, by decide, by decide⟩, by decide, rfl⟩,
    { earlierFrame with pending := [.reset 3] }, _, ?_, by decide, rfl⟩
  · unfold State.PostureInv
    decide
  · unfold State.DieInv HeldFrame.Known
    decide

/-! ### Witnesses: die ports, job phases and the Row Engine -/

theorem test_witness_CommandFrameReachesTheDie :
    ((sendingFrame .reset).site 3).port.exch = some { awaiting .reset with timer := none } ∧
    (earlierFrame.site 3).port.exch = some { awaiting .reset with timer := none } ∧
    ((sendingFrame .reset).die 3).held = [] ∧ (earlierFrame.die 3).held ≠ [] ∧
    (∀ h ∈ (earlierFrame.die 3).held.head?, h.frame.code = 0x01) ∧ readDieFrame [1, 0, 0, 0, 0, 0, 0] = none ∧
    readDieFrame [0x7F, 0, 0, 0, 0, 0, 0x43] = some { code := 0x7F, row := 0, arg := 0 } := by decide

theorem test_witness_DiePortFramesRoundTrip :
    (DieCmd.readShadow 11).frame[6]? ≠ some 0 ∧ (responseBytes 0xD1 0)[5]? ≠ some 0 := by decide

theorem test_witness_ResponseBytesAreGathered :
    (responseBytes 0xD1 0).length = 6 ∧ (responseBytes 0xD1 0).head? ≠ some 0 ∧
    (exchanging.site 3).port.exch = some (awaiting .reset) ∧ (awaiting .reset).timer = some 100 ∧
    (awaiting .reset).rx = [] ∧ ((responseBytes 0xD1 0).take 5).length < 6 ∧ (opened.site 3).port.exch = none := by decide

/-- A job in ENDING whose exchange has lost its retry, with its row open or closed. -/
def endingJob (rowOpen : Bool) : Job :=
  { waitJob with
    phase := .ending, pendingEnd := some .pumpTimeout
    engine := { waitJob.engine with stage := .pulsing, rowOpen := rowOpen, openTimer := none } }

def endingPulse : State :=
  { oneJob (endingJob true) (some (awaiting (.pulse chunk8))) with arb := { Arbiter.afterReset with
      inUse := 8, inFlight := (Vector.replicate 16 none).set 3 (some 8) } }

/-- A job with a waiting request, one with a grant in flight, and one with neither; a lost contact and an over-limit input. -/
theorem test_witness_DriveCutEndsTheJob :
    (exchanging.site 3).job = some (inPhase .bringup) ∧ (exchanging.site 3).posture = .seated ∧ exchanging.enabled 3 = true ∧
    exchanging.td.state ≠ .clear ∧ exchanging.arb.waiting[(3 : SiteNo)] = none ∧ exchanging.arb.inFlight[(3 : SiteNo)] = none ∧
    (pumpDown.site 3).job = some waitJob ∧ (pumpDown.site 3).posture = .seated ∧ pumpDown.arb.waiting[(3 : SiteNo)] = some 8 ∧
    (endingPulse.site 3).job = some (endingJob true) ∧ (endingPulse.site 3).posture = .seated ∧
    endingPulse.arb.inFlight[(3 : SiteNo)] = some 8 := by decide

/-- R114: the cut gives the eight units of site 3 back, and site 5, whose request for eight did not fit, is granted. -/
theorem test_drive_cut_grants :
    after (.contactDropped 3)
      { endingPulse.setSite 5 (busy waitJob none) with
        cfg := { Params.default with pumpCapacity := 15 }
        arb := { endingPulse.arb with waiting := (Vector.replicate 16 none).set 5 (some 8) } }
      (fun t => decide (t.arb.inUse = 8 ∧ t.arb.inFlight[(5 : SiteNo)] = some 8 ∧
        (t.site 5).port.exch.map Exchange.cmd = some (.pulse chunk8))) = true := by decide +kernel

/-- A first attempt that may be sent again, and a second one, of one job, in OPEN and in a lift; the deadline, REFUSED and a check
error; a job in ENDING with a PULSE under a grant. -/
theorem test_witness_FailedAttemptRetriesOnceThenEndsTheJob :
    ((exchanging.site 3).job = some (inPhase .bringup) ∧ (exchanging.site 3).port.exch = some (awaiting .reset) ∧
      (awaiting .reset).timer = some 100 ∧ (awaiting .reset).attempt = 1 ∧ (awaiting .reset).retry = true ∧
      (awaiting .reset).cmd.isPulse = false ∧ ({ awaiting .reset with attempt := 2 }).attempt ≠ 1 ∧
      exchanging.td.state = .opened ∧ (lifting.site 3).job = some (inPhase .bringup) ∧
      lifting.td.state.lifting = true ∧ ¬ ∃ k : SiteNo, k ≠ 3 ∧ lifting.active k = true) ∧
    endsAttempt (.dieResponseDeadlineExpiry 3 0) 3 0 (awaiting .reset).rx .lost ∧
    endsAttempt (.dieResponseComplete 3 (.bytes (responseBytes 0xE2 0)) 0) 3 0 (awaiting .reset).rx .refused ∧
    endsAttempt (.dieResponseComplete 3 (.bytes [0, 0]) 0) 3 0 [0xD1, 0, 0, 0] .lost ∧
    ((endingPulse.site 3).job = some (endingJob true) ∧ (endingPulse.site 3).port.exch = some (awaiting (.pulse chunk8)) ∧
      (awaiting (.pulse chunk8)).retry = false ∧ endingPulse.arb.waiting[(3 : SiteNo)] = none ∧
      endingPulse.arb.inFlight[(3 : SiteNo)] = some 8) ∧
    (endingJob false).phase = .ending ∧ (endingJob false).engine.rowOpen = false := by
  refine ⟨by decide, .inl ⟨rfl, rfl⟩, .inr ⟨_, rfl, by decide, by decide, by decide⟩,
    .inr ⟨_, rfl, by decide, by decide, by decide⟩, by decide, by decide, by decide⟩

/-- A PULSE of eight cells in flight, with a chunk left and with none, in the three states of the programming supply. -/
def pulseJob (chunks : List Row) (expired : Bool) : Job :=
  { waitJob with engine := { waitJob.engine with stage := .pulsing, chunks := chunks, expired := expired } }
def pulsingAt (pump timeout : Bool) (j : Job) : State :=
  { oneJob j (some (awaiting (.pulse chunk8))) with arb := { Arbiter.afterReset with
      pump := pump, timeoutInForce := timeout, inUse := 8, inFlight := (Vector.replicate 16 none).set 3 (some 8) } }
def pulsing (chunks : List Row) (expired : Bool) : State := pulsingAt true false (pulseJob chunks expired)

theorem test_witness_PulseEndReleasesItsUnits :
    (∀ (pump timeout : Bool) (chunks : List Row) (expired : Bool),
      ((pulsingAt pump timeout (pulseJob chunks expired)).site 3).job = some (pulseJob chunks expired) ∧
      ((pulsingAt pump timeout (pulseJob chunks expired)).site 3).port.exch = some (awaiting (.pulse chunk8)) ∧
      (pulsingAt pump timeout (pulseJob chunks expired)).arb.inFlight[(3 : SiteNo)] = some 8 ∧
      (pulsingAt pump timeout (pulseJob chunks expired)).arb.waiting[(3 : SiteNo)] = none) ∧
    (awaiting (.pulse chunk8)).timer = some 100 ∧
    (awaiting (.pulse chunk8)).retry = false ∧ (pulseJob [] true).engine.expired = true ∧
    (pulseJob [] true).engine.rowOpen = true ∧ (pulseJob [0xF00] false).phase = .program ∧
    (pulseJob [0xF00] false).engine.stage = .pulsing ∧ (pulseJob [0xF00] false).engine.rowOpen = true ∧
    (pulseJob [0xF00] false).engine.openTimer = some 1000 ∧ Params.default.pulseWidth ≤ min 20 1000 ∧
    min 19 1000 < Params.default.pulseWidth ∧ (restJob .pulsing 4).engine.rowOpen = false ∧
    (restJob .pulsing 4).engine.chunks ≠ [] ∧ 4 ≤ (restJob .pulsing 4).engine.reopens ∧
    endsAttempt (.dieResponseDeadlineExpiry 3 20) 3 20 [] .lost ∧
    endsAttempt (.dieResponseComplete 3 (.bytes (responseBytes 0xD1 0)) 20) 3 20 [] (.done 0) ∧
    endsAttempt (.dieResponseComplete 3 (.bytes (responseBytes 0xE2 0)) 20) 3 20 [] .refused := by
  refine ⟨fun pump timeout chunks expired => ⟨rfl, rfl, rfl, rfl⟩, by decide, by decide, by decide, by decide, by decide,
    by decide, by decide, by decide, by decide, by decide, by decide, by decide, by decide, .inl ⟨rfl, rfl⟩,
    .inr ⟨_, rfl, by decide, by decide, by decide⟩, .inr ⟨_, rfl, by decide, by decide, by decide⟩⟩

/-- R59, R114: a PULSE answered REFUSED ends the job DIE_REFUSED and gives its eight units back. -/
theorem test_pulse_refused :
    after (.dieResponseComplete 3 (.bytes (responseBytes 0xE2 0)) 20) (pulsing [] false)
      (fun t => decide (t.log.records.map Record.outcome = [.dieRefused] ∧ t.arb.inUse = 0 ∧
        t.condOf 3 .link = false)) = true := by decide +kernel

/-- BRINGUP at its first and last exchange, BLANK_CHECK at rows 0, 18 and 19. -/
theorem test_witness_BringupAndBlankCheckSequence :
    (exchanging.site 3).job = some (inPhase .bringup) ∧ (exchanging.site 3).port.exch = some (awaiting .reset) ∧
    (awaiting .reset).timer = some 100 ∧ (awaiting .reset).rx = [] ∧ (inPhase .bringup).engine.openTimer = none ∧
    (inPhase .bringup).step < 4 ∧ ({ inPhase .bringup with step := 4 }).step = 4 ∧
    ({ inPhase .blankCheck with step := 18 }).step + 1 < 20 := by decide

def image0 : Image := { bytes := List.replicate 48 0, words := [] }

/-- BLANK_CHECK before its last row with every row blank so far, and one key free. -/
def beforeBind : State :=
  { oneJob { inPhase .blankCheck with step := 19, snapshot := List.replicate 19 0 } (some (awaiting (.sense 19 .normal))) with
    ks := { KeyStore.afterReset with free := [key7], highWater := 7, poolLow := false } }

/-- R26, R33, R51, R85: the bind takes the last key, POOL_LOW is declared, and image row 0 opens its row. -/
theorem test_bind_starts_row_0 :
    after (.dieResponseComplete 3 (.bytes (responseBytes 0xD1 0)) 0) beforeBind (fun t => decide (t.ks.poolLow = true ∧
      (t.site 3).job.map (fun j => (j.phase, j.engine.stage)) = some (.program, .opening) ∧
      (t.site 3).port.exch.map Exchange.cmd = some (.openRow 0))) = true := by decide +kernel

/-- R127, R130, R131: in a drain the last job ends REGION_NOT_BLANK, which completes the lift. -/
theorem test_region_not_blank_in_lift :
    after (.dieResponseComplete 3 (.bytes (responseBytes 0xD1 1)) 0)
      { beforeBind with td := { beforeBind.td with state := .liftingDrain, deferred := some 9 } }
      (fun t => decide (t.td.state = .clear ∧ t.log.records.map Record.outcome = [.regionNotBlank] ∧
        t.link.outq.map OutFrame.payload = [[0, 0, 1, 0, 0, 0, 1]])) = true := by decide +kernel

theorem test_witness_BlankAndShadowChecksDecide :
    (beforeBind.ks.free = [key7] ∧
      ∀ word : Row, cellCount ((List.replicate 19 (0 : Row) ++ [0]).getD 0 0 &&& ~~~word) ≤ 1) ∧
    ({ inPhase .blankCheck with step := 19 }).phase = .blankCheck ∧ lockRowValid (lockWordOf #v[0, 0, 0]) = true ∧
    lockRowValid 1 = false ∧ (inPhase .shadowCheck).step = 0 ∧ (65536 : BitVec 32).toNat / 65536 % 256 = 1 ∧
    ({ inPhase .shadowCheck with step := 12, image := some image0 }).image = some image0 ∧
    wordBytes 0 = (List.range 4).map (fun k => byteAt image0.bytes (44 + k)) ∧
    wordBytes 1 ≠ (List.range 4).map (fun k => byteAt image0.bytes (44 + k)) ∧
    (awaiting (.readShadow 11)).cmd.isPulse = false := by
  refine ⟨⟨rfl, fun word => ?_⟩, by decide⟩
  have : (List.replicate 19 (0 : Row) ++ [0]).getD 0 0 = 0 := rfl
  rw [this]
  simp [cellCount, onesBelow]

/-- A job with the exchange of a stage of its row attempt in progress. -/
def attemptJob (p : Phase) (stage : Stage) (purpose : Purpose) (rowOpen : Bool) (round : Nat) : Job :=
  { inPhase p with
    image := some { bytes := List.replicate 48 0, words := List.replicate 16 (rowWord 0) }
    engine := { RowEngine.idle with
      stage := stage, purpose := purpose, rowOpen := rowOpen, round := round, word := rowWord 0x1E0C07
      target := rowWord 0x1E0C07 } }

theorem test_witness_RowAttemptRules :
    (1 ≤ 8 ∧ (rowWord 0x1E0C07).getLsbD 31 = true ∧ (∀ e : Fin 3, (#v[1, 31, 2] : RelocMap)[e] ≠ 0) ∧
      (inPhase .program).map[(0 : Fin 3)] = 0 ∧ (inPhase .program).conflictsAt (spareRow 0) (rowWord 0) ≤ 1 ∧
      2 ≤ ({ inPhase .program with snapshot := List.replicate 20 0xFF }).conflictsAt (spareRow 0) (rowWord 0)) ∧
    (∀ (p : Phase) (stage : Stage) (purpose : Purpose) (rowOpen : Bool) (round : Nat),
      let s := oneJob (attemptJob p stage purpose rowOpen round) (some (awaiting (.sense 0 .normal)))
      (s.site 3).job = some (attemptJob p stage purpose rowOpen round) ∧
      (s.site 3).port.exch = some (awaiting (.sense 0 .normal)) ∧ s.arb.waiting[(3 : SiteNo)] = none) ∧
    ((awaiting (.sense 0 .normal)).timer = some 100 ∧ (awaiting (.sense 0 .normal)).cmd.isPulse = false) ∧
    (∀ data : BitVec 32, (responseBytes 0xD1 data).length = 6) ∧
    endsAttempt (.dieResponseComplete 3 (.bytes (responseBytes 0xD1 (rowWord 0x1E0C07))) 7) 3 7 []
      (.done (rowWord 0x1E0C07)) ∧
    ((rowWord 0x1E0C07) &&& ~~~(rowWord 0x1E0C07) = 0 ∧ (rowWord 0x1E0C07) &&& ~~~(0 : Row) ≠ 0 ∧
      Params.default.maxRounds ≤ 3 ∧ 2 < Params.default.maxRounds) ∧
    judgeRow (rowWord 0x1E0C07) (rowWord 0x1E0C07) = .good ∧ judgeRow (rowWord 0x1E0C07) 0 = .failed := by
  refine ⟨by decide, fun p stage purpose rowOpen round => ⟨rfl, rfl, rfl⟩, by decide, fun data => rfl,
    .inr ⟨_, rfl, by decide, by decide, by decide⟩, by decide, by decide, by decide⟩

/-- With PUMP clear, declared, and under timeout in force. -/
theorem test_witness_RowEngineTimersAct :
    ((oneJob (settleJob 30) none).site 3).job = some (settleJob 30) ∧ (settleJob 30).engine.settleTimer = some 10 ∧
    (settleJob 30).engine.stage = .settling ∧ (settleJob 30).phase ≠ .ending ∧
    ((oneJob (settleJob 30) none).site 3).port.exch = none ∧ (oneJob (settleJob 30) none).arb.waiting[(3 : SiteNo)] = none ∧
    (oneJob (settleJob 30) none).arb.pump = false ∧ (settleJob 30).engine.round = 0 ∧
    Params.default.pulseWidth ≤ 30 - 10 ∧ 29 - 10 < Params.default.pulseWidth ∧
    splitChunks (min Params.default.pumpCapacity 32) (settleJob 30).engine.target = [rowWord 0x1E0C07] ∧
    pumpDown.arb.pump = true ∧ waitJob.engine.openTimer = some 1000 ∧ waitJob.engine.stage = .grantWait ∧
    (pumpDown.site 3).job = some waitJob ∧ pumpDown.arb.waiting[(3 : SiteNo)] = some 8 ∧
    (pulsing [] false).arb.waiting[(3 : SiteNo)] = none ∧ (pulseJob [] false).engine.openTimer = some 1000 ∧
    (restJob .resting 0).engine.restTimer = some 50 ∧ (restJob .resting 0).engine.stage = .resting := by decide

/-! ### Witnesses: the die -/

/-- A die in PROVISIONING mode that holds one frame, with a row open or none. -/
def dieHolding (f : DieFrame) (openRow : Option RegionRow) : State :=
  State.reset.setDie 3 { Die.powerOn blankCells with
    mode := .provisioning, openRow := openRow, held := [{ frame := f, live := true }] }

/-- A die that carries out an earlier RESET, with two unknown frames behind it, the selection of the last still on. -/
def unknownBehind : State :=
  State.reset.setDie 3 { Die.powerOn blankCells with
    held := [{ frame := { code := 0x01, row := 0, arg := 0 }, live := false },
             { frame := { code := 0x7F, row := 0, arg := 0 }, live := false },
             { frame := { code := 0x7E, row := 0, arg := 0 }, live := true }] }

/-- R75: the earlier RESET and the first unknown frame are done with no answer, and the last frame is then answered REFUSED. -/
theorem test_die_unknown_behind :
    after (.reset 3) unknownBehind (fun t => decide ((t.die 3).held = [] ∧
      (t.die 3).response = some [0xE2, 0, 0, 0, 0, 0xDE])) = true := by decide

/-- One frame; an earlier frame whose selection has ended, with unknown frames behind it; a RELOAD over a
blank region, whose lock row is not valid, and over one whose lock row names row 4 at spare 1. -/
theorem test_witness_DieCarriesOutItsCommands :
    (((dieHolding { code := 0x10, row := 19, arg := 1 } (some 19)).die 3).held =
        [{ frame := { code := 0x10, row := 19, arg := 1 }, live := true }] ∧
      (19 : Byte) = BitVec.ofNat 8 (19 : RegionRow).val ∧ 19 < (20 : Byte).toNat) ∧
    (∃ f more, (unknownBehind.die 3).held = f :: { frame := { code := 0x7F, row := 0, arg := 0 }, live := false } :: more) ∧
    ¬ HeldFrame.Known { frame := { code := 0x7F, row := 0, arg := 0 }, live := false } ∧
    (∃ t, exec (.reset 3) (unknownBehind.setDie 3 { unknownBehind.die 3 with
      held := [{ frame := { code := 0x01, row := 0, arg := 0 }, live := false },
        { frame := { code := 0x7E, row := 0, arg := 0 }, live := true }] }) = .next t) ∧
    HeldFrame.Known { frame := { code := 0x01, row := 0, arg := 0 }, live := true } ∧
    (lockReadData 0 = none ∧ ∀ k, ReadAt (lockReadData 0) k (ownRow k)) ∧
    (lockReadData (lockWordOf #v[31, 5, 0]) = some (lockData #v[31, 5, 0]) ∧ entryAt (lockData #v[31, 5, 0]) 1 = 5 ∧
      ReadAt (lockReadData (lockWordOf #v[31, 5, 0])) 4 17) := by
  have h0 : lockReadData 0 = none := by decide
  have h1 : lockReadData (lockWordOf #v[31, 5, 0]) = some (lockData #v[31, 5, 0]) := by decide
  refine ⟨by decide, ⟨_, _, rfl⟩, by unfold HeldFrame.Known; decide, ⟨_, rfl⟩, by unfold HeldFrame.Known; decide,
    ⟨h0, fun k => .inr ⟨fun _ h => (by rw [h0] at h; cases h), rfl⟩⟩, h1, by decide,
    .inl ⟨_, 1, h1, by decide, by decide, by decide⟩⟩

/-- R81: over a blank region, whose lock row is not valid, every row decodes clean to zeros: D1 00 00 00 00 and the check 0xED. -/
theorem test_die_reload_blank :
    after (.reload 3) (dieHolding { code := 0x20, row := 0, arg := 0 } none) (fun t => decide ((t.die 3).loaded = true ∧
      (t.die 3).response = some [0xD1, 0, 0, 0, 0, 0xED])) = true := by decide +kernel

theorem test_witness_BlownCellsOnlyGrow :
    ∃ t, exec (.pulse 3 1 2) (dieHolding { code := 0x12, row := 0, arg := 3 } (some 13)) = .next t ∧
      (t.die 3).cells[(13 : RegionRow)] = { full := 1, weak := 2 } ∧
      (∀ cells, Instr.pulse 3 1 2 ≠ .diePowerOn 3 (some cells)) := by
  have h : after (.pulse 3 1 2) (dieHolding { code := 0x12, row := 0, arg := 3 } (some 13))
      (fun t => decide ((t.die 3).cells[(13 : RegionRow)] = { full := 1, weak := 2 })) = true := by decide
  obtain ⟨t, h1, h2⟩ := after_next h
  refine ⟨t, h1, by simpa using h2, fun _ h => by cases h⟩

/-- The cells of a region that carries one image row word everywhere, row 4 at spare 1 beside a void spare 0, and row 2 with one
cell more blown. -/
def writtenCells : DieCells :=
  (((Vector.replicate 20 { full := rowWord 0, weak := 0 }).set 19 { full := lockWordOf #v[31, 5, 0], weak := 0 }).set 4
    { full := 0xFF, weak := 0 }).set 2 { full := rowWord 0 ^^^ 1, weak := 0 }
def written : State :=
  State.reset.setDie 3 { Die.powerOn writtenCells with
    mode := .provisioning, held := [{ frame := { code := 0x20, row := 0, arg := 0 }, live := true }] }
def placeOf (k : Fin 16) : RegionRow := if k = 4 then 17 else ownRow k

theorem test_witness_ReloadReadsBackTheImage :
    (written.die 3).mode = .provisioning ∧ (written.die 3).openRow = none ∧
    (written.die 3).held = [{ frame := { code := 0x20, row := 0, arg := 0 }, live := true }] ∧
    readCells (written.die 3).cells[(19 : RegionRow)] .normal = lockWordOf #v[31, 5, 0] ∧
    (∀ k : Fin 16, (∃ e : Fin 3, (#v[31, 5, 0] : RelocMap)[e].toNat = k.val + 1 ∧
        (∀ e' : Fin 3, e' < e → (#v[31, 5, 0] : RelocMap)[e'].toNat ≠ k.val + 1) ∧ placeOf k = spareRow e) ∨
      ((∀ e : Fin 3, (#v[31, 5, 0] : RelocMap)[e].toNat ≠ k.val + 1) ∧ placeOf k = ownRow k)) ∧
    (∀ k : Fin 16, readCells (written.die 3).cells[placeOf k] .normal = rowWord 0 ∨
      readCells (written.die 3).cells[placeOf k] .normal = rowWord 0 ^^^ (1#32 <<< 0)) ∧
    (∀ k : Fin 16, rowWord (imageRow (List.replicate 48 0) k.val) = rowWord 0) := by
  refine ⟨by decide, by decide, by decide, by decide, by decide, by decide, by decide⟩

theorem test_witness_EventsOutOfPlaceFault :
    heldState.rst.heldInReset = true ∧ State.reset.link.intake = [] ∧ (State.reset.site 3).debounce = none ∧
    State.reset.arb.holdTimer = none ∧ (State.reset.site 3).job = none ∧ (settleJob 30).engine.openTimer = some 30 ∧
    (settleJob 30).engine.stage ∉ [Stage.grantWait, .pulsing, .sensing] ∧
    (awaiting .reset).timer ≠ none ∧ (State.reset.die 3).held = [] := by decide

/-- The remaining statements have no hypotheses but ranges: a column code, a check bit, two cells. -/
theorem test_witness_RowCode : 23 < 24 ∧ 5 < 6 ∧ 30 < 31 ∧ (0 : Nat) ≠ 30 := by decide

/-! ### One step of each command; expected values worked out by hand from the rule named -/

/-- R26, R154: a bind that takes the last key and ends the job at once latches RECORD_ADDED before it evaluates POOL_LOW, so the
notice shows RECORD_ADDED alone. -/
theorem test_bind_order :
    after (.dieResponseComplete 3 (.bytes (responseBytes 0xD1 0)) 0)
      { oneJob { inPhase .blankCheck with step := 19, snapshot := List.replicate 19 0x7FFFFFFF }
          (some (awaiting (.sense 19 .normal))) with
        ks := { KeyStore.afterReset with free := [key7], highWater := 7, poolLow := false }
        mon := { Monitor.afterReset with enables := { pump := true, poolLow := true, logHigh := true, recordAdded := true } } }
      (fun t => decide (t.link.outq.map OutFrame.payload = [[16, 8, 0]] ∧ t.ks.poolLow = true ∧
        t.mon.flags.poolLow = true ∧ t.log.records.map Record.outcome = [.rowUnrepairable])) = true := by decide +kernel

/-- R161: 0xA6 in HUNT starts a header. -/
theorem test_byte_starts_header :
    after (.controlLinkByteReceived 0xA6 true) State.reset (fun t => decide (t.link.rx.mode = .header)) = true := by decide
/-- R158: a low stop bit drops the frame under assembly. -/
theorem test_byte_framing_error :
    after (.controlLinkByteReceived 0x05 false) inGap (fun t => decide (t.link.rx = Receiver.hunting)) = true := by decide
theorem test_gap_expiry : after .gapTimerExpiry inGap (fun t => decide (t.link.rx = Receiver.hunting)) = true := by decide
/-- R159, R160: kind 0x87, unit 0, tag 5, length 1: header check 0xFF xor 0x87 xor 0x05 xor 0x01 = 0x7C. -/
theorem test_frame_sent_bytes :
    after .frameLastByteSent (sending .reply)
      (fun t => decide (t.link.outq = [] ∧ t.link.lastSent.take 7 = [0xA6, 0x87, 0x05, 0x00, 0x01, 0x7C, 0x00])) = true := by
  decide
theorem test_held_status :
    after .heldStatusReply { State.reset with link := { State.reset.link with
        intake := [{ req 0x05 [] with held := some .badLength }] } }
      (fun t => decide (t.link.outq = [rep 0x05 0x11 []])) = true := by decide
theorem test_bad_request :
    after .badRequest (withReq State.reset 0x08 []) (fun t => decide (t.link.outq = [rep 0x08 0x10 []])) = true := by decide
/-- R168: key slots 1024, log slots 256, queue depth 2, largest payloads 600 and 2048. -/
theorem test_identify :
    after .identify (withReq State.reset 0x01 []) (fun t => decide (t.link.outq = [rep 0x01 0x00
      [0x3E, 0x0A, 0x16, 0x0B, 1, 0, 0, 0, 0, 0, 16, 0x00, 0x04, 0x00, 0x01, 2, 0x58, 0x02, 0x00, 0x08]])) = true := by decide
/-- R177: the STATUS payload is 107 bytes with 5 for each site. -/
theorem test_status :
    after .status (withReq opened 0x02 []) (fun t => t.link.outq.all (fun o => decide (o.payload.take 7 = [0, 0, 1, 1, 0, 0, 0]))) =
      true := by decide
/-- 11_requests_replies_and_layouts.md, a CONFIGURE with a clamp. -/
theorem test_configure_clamp :
    after .configure (withReq { State.reset with ks := { KeyStore.afterReset with
          poolLow := false, free := List.replicate 45 key7 } } 0x03
        [0x08, 4, 0, 0, 0, 0x09, 50, 0, 0, 0, 0x02, 5, 0, 0, 0])
      (fun t => decide (t.cfg.pumpCapacity = 8 ∧ t.ks.poolLow = true ∧ t.mon.flags.poolLow = true ∧
        t.link.outq = [rep 0x03 0x01 [0x08, 8, 0, 0, 0, 0x09, 50, 0, 0, 0, 0x02, 5, 0, 0, 0]])) = true := by decide
/-- R152, R153: enabling a latched flag brings its notice before the reply. -/
theorem test_set_enables_notice :
    after .setEnables (withReq { State.reset with mon := { State.reset.mon with
          flags := { GlobalBits.none with logHigh := true } } } 0x04 [0, 0, 0, 0, 0, 0, 0, 0, 4])
      (fun t => decide (t.link.outq = [{ source := .notice, kind := 0xC0, tag := 0, payload := [16, 4, 2] },
        rep 0x04 0x00 []])) = true := by decide +kernel
/-- R124, R41: the touchdown number is 1, sites go to UNSEATED. -/
theorem test_touchdown :
    after .touchdown (withReq State.reset 0x05 []) (fun t => decide ((t.site 15).posture = .unseated ∧
      t.link.outq = [rep 0x05 0x00 [1, 1, 0, 0, 0, 0]])) = true := by decide +kernel
theorem test_liftoff_completes :
    after .liftoff (withReq opened 0x06 [0]) (fun t => decide (t.td.state = .clear ∧ t.link.outq =
      [{ source := .deferred, kind := 0x86, tag := 5, payload := [0, 0, 1, 0, 0, 0, 0] }])) = true := by decide +kernel
theorem test_liftoff_merged :
    after .liftoff (withReq lifting 0x06 [0]) (fun t => decide (t.link.outq = [rep 0x06 0x02 [2, 1, 0, 0, 0, 0]])) = true := by
  decide
theorem test_reset_unit :
    after .resetUnit (withReq opened 0x07 []) (fun t => decide (t.rst.requestPending = true ∧ t.td.state = .opened)) = true := by
  decide
theorem test_reset_unit_reply_sent :
    after .frameLastByteSent { sending .resetReply with td := opened.td }
      (fun t => decide (t.td.state = .clear ∧ t.rst.cause = .request)) = true := by decide
/-- R24: free count 2, bound count 0, high-water index 9. -/
theorem test_load_keys :
    after .loadKeys (withReq State.reset 0x10 (keyPayload [key7, key9]))
      (fun t => decide (t.link.outq = [rep 0x10 0x00 [2, 0, 0, 9, 0, 0, 0]])) = true := by decide
/-- R22: an index equal to the one before it. -/
theorem test_load_keys_order :
    after .loadKeys (withReq State.reset 0x10 (keyPayload [key7, key7]))
      (fun t => decide (t.ks.free = [] ∧ t.link.outq = [rep 0x10 0x26 [0, 0, 0, 0, 0, 0, 0]])) = true := by decide
theorem test_discard_keys :
    after .discardKeys (withReq { State.reset with ks := { KeyStore.afterReset with free := [key7, key9], highWater := 9 } } 0x11 [])
      (fun t => decide (t.ks.highWater = 9 ∧ t.link.outq = [rep 0x11 0x00 [2, 0, 7, 0, 0, 0, 9, 0, 0, 0]])) = true := by decide
theorem test_provision_admits :
    after .provision (withReq (seated []) 0x12 (provPayload 3))
      (fun t => decide ((t.site 3).used = true ∧ t.log.reservations = 1 ∧
        (t.site 3).port.exch.map Exchange.cmd = some .reset)) = true := by decide
/-- R60: one tag 0x1234 removed, low byte first. -/
theorem test_cancel_queued :
    after .cancel (withReq (seated [posting1]) 0x13 [3, 0])
      (fun t => decide (t.link.outq = [rep 0x13 0x00 [1, 0x34, 0x12, 0, 0, 0]])) = true := by decide
theorem test_cancel_key_wait :
    after .cancel (withReq waitingKey 0x13 [3, 1]) (fun t => decide (t.ks.waitList = [] ∧
      t.log.records.map Record.outcome = [.aborted] ∧ t.link.outq = [rep 0x13 0x00 [0, 0, 0, 0, 0, 1]])) = true := by decide
/-- R141: a limit of 31 has room for no record, 32 for one. -/
theorem test_read_records :
    after .readRecords (withReq (fullLog opened 3) 0x14 [64, 31, 0])
      (fun t => decide (t.link.outq = [rep 0x14 0x00 [0, 3, 0]])) = true := by decide
theorem test_clear_records :
    after .clearRecords (withReq (fullLog opened 3) 0x15 [2, 0])
      (fun t => decide (t.log.records.length = 1 ∧ t.link.outq = [rep 0x15 0x00 [2, 0, 1, 0, 1, 0, 0, 0]])) = true := by decide
theorem test_read_events :
    after .readEvents (withReq overLimit 0x16 [3]) (fun t => decide (t.link.outq = [rep 0x16 0x00 [3, 0, 4]])) = true := by decide
theorem test_power_on : after .powerOn exchanging (fun t => decide (t.rst.heldInReset = true ∧ (t.site 3).job = none)) = true := by
  decide
theorem test_reset_line : after .resetLineAsserted exchanging (fun t => decide (t.rst.cause = .line)) = true := by decide
theorem test_reset_released :
    after .resetReleased { heldState with pins := { heldState.pins with pumpFault := true, straps := 2 } }
      (fun t => decide (t.link.unitAddr = 2 ∧ t.arb.pump = true ∧ t.arb.holdTimer = some 50 ∧ t.mon.flags.pump = false)) =
      true := by decide
theorem test_contact_sensed :
    after (.contactSensed 3) (posed .unseated) (fun t => decide ((t.site 3).posture = .seating)) = true := by decide
theorem test_contact_dropped :
    after (.contactDropped 3) exchanging (fun t => decide (t.log.records.map Record.outcome = [.contactLost] ∧
      (t.site 3).posture = .unseated ∧ t.condOf 3 .contact = true)) = true := by decide
theorem test_debounce_admits :
    after (.debounceExpiry 3) seatingSite (fun t => decide ((t.site 3).posture = .seated ∧ (t.site 3).seatTimeout = none ∧
      (t.site 3).used = true)) = true := by decide
theorem test_seat_timeout :
    after (.seatTimeoutExpiry 3) (posed .seating) (fun t => decide (t.condOf 3 .contact = true ∧
      (t.site 3).posture = .seating)) = true := by decide
theorem test_die_supply_asserted :
    after (.dieSupplyAsserted 3) exchanging (fun t => decide (t.log.records.map Record.outcome = [.dieSupplyFault])) = true := by
  decide
theorem test_die_supply_deasserted :
    after (.dieSupplyDeasserted 3) overLimit (fun t => decide (t.condOf 3 .dieSupply = false ∧ (t.site 3).used = true)) = true := by
  decide
theorem test_pump_asserted :
    after .pumpFaultAsserted State.reset (fun t => decide (t.arb.pump = true ∧ t.arb.holdTimer = some 50)) = true := by decide
/-- R112, R113, R92: eight units granted to site 3, the pointer at 4, one pulse counted. -/
theorem test_pump_deasserted_grants :
    after .pumpFaultDeasserted pumpDown (fun t => decide (t.arb.inUse = 8 ∧ t.arb.pointer = 4 ∧
      (t.site 3).port.exch.map Exchange.cmd = some (.pulse chunk8) ∧ (t.site 3).job.map Job.pulses = some 1)) = true := by decide
theorem test_pump_hold_expiry :
    after .pumpHoldExpiry pumpDown (fun t => decide ((t.site 3).job.map Job.pendingEnd = some (some .pumpTimeout) ∧
      (t.site 3).port.exch.map Exchange.cmd = some (.closeRow 13))) = true := by decide
theorem test_command_frame_sent :
    after (.commandFrameSent 3 .clean) (sendingFrame .reset) (fun t => decide (((t.site 3).port.exch.map Exchange.timer) =
      some (some 100) ∧ (t.die 3).held.map (fun h => h.frame.code) = [1])) = true := by decide
/-- A job in BRINGUP goes on with CLOSE ALL. -/
theorem test_response_complete :
    after (.dieResponseComplete 3 (.bytes [0, 0xD1, 0, 0, 0, 0, 0xED]) 0) exchanging
      (fun t => decide ((t.site 3).port.exch.map Exchange.cmd = some .closeAll)) = true := by decide
/-- R69: the first deadline expiry sends the command again. -/
theorem test_deadline_retry :
    after (.dieResponseDeadlineExpiry 3 0) exchanging
      (fun t => decide ((t.site 3).port.exch.map Exchange.attempt = some 2)) = true := by decide
/-- R88, with PUMP clear: 13 units granted at once and the whole word pulsed. -/
theorem test_settle_grants :
    after (.settleTimerExpiry 3) (oneJob (settleJob 30) none) (fun t => decide (t.arb.inUse = 13 ∧
      (t.site 3).port.exch.map Exchange.cmd = some (.pulse (rowWord 0x1E0C07)))) = true := by decide
theorem test_open_timer :
    after (.openTimerExpiry 3) pumpDown (fun t => decide (t.arb.waiting[(3 : SiteNo)] = none ∧
      (t.site 3).port.exch.map Exchange.cmd = some (.closeRow 13))) = true := by decide
theorem test_rest_timer :
    after (.restTimerExpiry 3) (oneJob { waitJob with engine := { waitJob.engine with
        stage := .resting, rowOpen := false, openTimer := none, restTimer := some 50 } } none)
      (fun t => decide ((t.site 3).port.exch.map Exchange.cmd = some (.openRow 13) ∧
        (t.site 3).job.map (fun j => j.engine.reopens) = some 1)) = true := by decide
theorem test_die_power_on :
    after (.diePowerOn 3 none) (dieHolding { code := 0x10, row := 0, arg := 0 } (some 7))
      (fun t => decide ((t.die 3).mode = .normal ∧ (t.die 3).held = [])) = true := by decide
theorem test_die_reset :
    after (.reset 3) (dieHolding { code := 0x01, row := 0, arg := 0 } (some 7)) (fun t => decide ((t.die 3).openRow = none ∧
      (t.die 3).mode = .normal ∧ (t.die 3).response = some [0xD1, 0, 0, 0, 0, 0xED])) = true := by decide
theorem test_die_close_all :
    after (.closeAll 3) (dieHolding { code := 0x02, row := 0, arg := 0 } (some 7)) (fun t => decide ((t.die 3).openRow = none ∧
      (t.die 3).mode = .provisioning)) = true := by decide
/-- R77: a width of 4 is below the range. -/
theorem test_die_enter_refused :
    after (.enterProvisioning 3) (dieHolding { code := 0x03, row := 0, arg := 4 } none)
      (fun t => decide ((t.die 3).response = some [0xE2, 0, 0, 0, 0, 0xDE] ∧ (t.die 3).width = none)) = true := by decide
/-- R78: SENSE with another row open is refused. -/
theorem test_die_sense_refused :
    after (.sense 3) (dieHolding { code := 0x10, row := 1, arg := 0 } (some 7))
      (fun t => decide ((t.die 3).response = some [0xE2, 0, 0, 0, 0, 0xDE])) = true := by decide
/-- R79: OPEN ROW of the open row is refused too. -/
theorem test_die_open_row_refused :
    after (.openRow 3) (dieHolding { code := 0x11, row := 7, arg := 0 } (some 7))
      (fun t => decide ((t.die 3).response = some [0xE2, 0, 0, 0, 0, 0xDE] ∧ (t.die 3).openRow = some 7)) = true := by decide
/-- R78, R80: of cells 0 to 3 driven, cell 0 is fully blown and cell 1 weakly. -/
theorem test_die_pulse :
    after (.pulse 3 0x11 0x22) (dieHolding { code := 0x12, row := 0, arg := 0xF } (some 7))
      (fun t => decide ((t.die 3).cells[(7 : RegionRow)] = { full := 1, weak := 2 })) = true := by decide
theorem test_die_close_row_none_open :
    after (.closeRow 3) (dieHolding { code := 0x13, row := 7, arg := 0 } none)
      (fun t => decide ((t.die 3).response = some [0xD1, 0, 0, 0, 0, 0xED])) = true := by decide
/-- R81: one corrected row, one relocated row, lock row valid: D1 01 01 01 00 and the check 0xEC. -/
theorem test_die_reload :
    after (.reload 3) written (fun t => decide ((t.die 3).loaded = true ∧
      (t.die 3).response = some [0xD1, 1, 1, 1, 0, 0xEC])) = true := by decide
/-- R82: the shadow is not loaded. -/
theorem test_die_read_shadow_refused :
    after (.readShadow 3) (dieHolding { code := 0x21, row := 0, arg := 0 } none)
      (fun t => decide ((t.die 3).response = some [0xE2, 0, 0, 0, 0, 0xDE])) = true := by decide

end Sys2Proof.Tests
end

section
/-!
SUPPORT. The fuse cells of the sixteen dies (R78): which operations leave them as they were, what a PULSE makes of the open row
(R80), and that no other command changes a cell.
-/
namespace Sys2Proof.Machine

/-! ### The cells of all dies -/

/-- The fuse cells of the die at each site. -/
def fusesOf (dies : Vector Die 16) (i : SiteNo) : DieCells := dies[i].cells

/-- A die's cells are read from the dies alone. -/
theorem cells_eq_of_fusesOf {s t : State} (h : fusesOf t.dies = fusesOf s.dies) (i : SiteNo) :
    (t.die i).cells = (s.die i).cells := congrFun h i

/-- A die replaced by one with the same cells leaves all cells as they were. -/
theorem fusesOf_setDie (s : State) (i : SiteNo) (d : Die) (h : d.cells = (s.die i).cells) :
    fusesOf (s.setDie i d).dies = fusesOf s.dies := by
  funext k
  change ((s.setDie i d).die k).cells = (s.die k).cells
  by_cases e : k = i
  · subst e; rw [die_setDie, h]
  · rw [die_setDie_ne _ _ e]

@[simp] theorem fusesOf_deselect (s : State) (i : SiteNo) : fusesOf (s.deselect i).dies = fusesOf s.dies :=
  fusesOf_setDie s i _ rfl

/-! ### Operations that leave the dies alone -/

@[simp] theorem handOut_dies (l : List SiteNo) (s : State) : (State.handOut l s).dies = s.dies := by
  induction l generalizing s with
  | nil => rfl
  | cons i l ih =>
    unfold State.handOut
    split
    · rfl
    · rw [ih]; simp

@[simp] theorem acceptKeys_dies (s : State) (keys : List Key) : (s.acceptKeys keys).dies = s.dies := by
  simp [State.acceptKeys]

@[simp] theorem enableSite_dies (before : SiteSet) (s : State) (i : SiteNo) :
    (State.enableSite before s i).dies = s.dies := by
  unfold State.enableSite; (repeat' split) <;> rfl

/-- An operation that leaves the dies alone at each site leaves them alone when it is done at every site. -/
@[simp] theorem forSites_dies (f : State → SiteNo → State) (h : ∀ s i, (f s i).dies = s.dies) (s : State) :
    (forSites f s).dies = s.dies := foldl_keeps (fun s : State => s.dies) f h allSites s

@[simp] theorem applyEntry_dies (s : State) (e : ParamId × Nat) : (s.applyEntry e).dies = s.dies := by
  obtain ⟨p, v⟩ := e
  cases p
  case sitesEnabled => exact forSites_dies _ (enableSite_dies _) _
  case poolLowThreshold => simp only [State.applyEntry]; split <;> simp
  all_goals rfl

@[simp] theorem loadEnables_dies (p : List Byte) (s : State) (i : SiteNo) : (State.loadEnables p s i).dies = s.dies := rfl

@[simp] theorem clearScope_dies (s : State) (sc : Scope) : (s.clearScope sc).dies = s.dies := by cases sc <;> rfl

@[simp] theorem startSeating_dies (s : State) (i : SiteNo) : (s.startSeating i).dies = s.dies := by
  simp only [State.startSeating]; (repeat' split) <;> rfl

@[simp] theorem sampleDieSupply_dies (s : State) (i : SiteNo) : (s.sampleDieSupply i).dies = s.dies := by
  unfold State.sampleDieSupply; split <;> simp

@[simp] theorem abortAll_dies (s : State) : s.abortAll.dies = s.dies :=
  forSites_dies _ (fun s i => abort_dies s i _) s

@[simp] theorem abortWaiter_dies (a : Arbiter) (s : State) (i : SiteNo) : (State.abortWaiter a s i).dies = s.dies := by
  unfold State.abortWaiter; split <;> simp

@[simp] theorem handSlot_dies (s : State) (i : SiteNo) : (s.handSlot i).dies = s.dies := by
  unfold State.handSlot; split <;> simp

@[simp] theorem openTouchdown_dies (s : State) : s.openTouchdown.dies = s.dies := by
  simp [State.openTouchdown, forSites_dies (fun s i => s.setCond i .link false) (fun s i => setCond_dies s i _ _)]

/-! ### Requests -/

/-- A step's answer in which no cell of any die has changed. -/
def KeepsCells (s : State) (r : StepResult) : Prop := ∀ t, r = .next t → fusesOf t.dies = fusesOf s.dies

theorem keepsCells_next {s t : State} (h : fusesOf t.dies = fusesOf s.dies) : KeepsCells s (.next t) := by
  rintro _ ⟨⟩; exact h

theorem keepsCells_of_dies {s t : State} (h : t.dies = s.dies) : KeepsCells s (.next t) :=
  keepsCells_next (congrArg fusesOf h)

theorem keepsCells_fault (s : State) (f : Fault) : KeepsCells s (.fault f) := by rintro _ ⟨⟩

/-- A frame taken changes no cell when what is done with it leaves the dies alone. -/
theorem takeFrame_keepsCells (s : State) (is : InFrame → Bool) (act : State → InFrame → State)
    (h : ∀ s f, (act s f).dies = s.dies) : KeepsCells s (s.takeFrame is act) := by
  unfold State.takeFrame
  split
  · exact keepsCells_fault s _
  · split
    · exact keepsCells_fault s _
    · split
      · exact keepsCells_of_dies (h _ _)
      · exact keepsCells_fault s _

theorem takeRequest_keepsCells (s : State) (kind : Byte) (ok : List Byte → Bool) (act : State → InFrame → State)
    (h : ∀ s f, (act s f).dies = s.dies) : KeepsCells s (s.takeRequest kind ok act) := by
  apply takeFrame_keepsCells
  intro s f
  split
  · exact h s f
  · rfl

@[simp] theorem doHeldStatus_dies (s : State) (f : InFrame) : (s.doHeldStatus f).dies = s.dies := by
  unfold State.doHeldStatus; split <;> rfl

@[simp] theorem doConfigure_dies (s : State) (f : InFrame) : (s.doConfigure f).dies = s.dies := by
  unfold State.doConfigure
  split
  · rfl
  · split
    · rfl
    · split
      · rfl
      · simp [foldl_keeps (fun s : State => s.dies) State.applyEntry applyEntry_dies]

@[simp] theorem doSetEnables_dies (s : State) (f : InFrame) : (s.doSetEnables f).dies = s.dies := by
  simp [State.doSetEnables, forSites_dies _ (loadEnables_dies _),
    foldl_keeps (fun s : State => s.dies) State.throttle throttle_dies]

@[simp] theorem doReadEvents_dies (s : State) (f : InFrame) : (s.doReadEvents f).dies = s.dies := by
  unfold State.doReadEvents; split <;> simp

@[simp] theorem doTouchdown_dies (s : State) (f : InFrame) : (s.doTouchdown f).dies = s.dies := by
  unfold State.doTouchdown; split <;> simp

@[simp] theorem beginLift_dies (s : State) (tag : BitVec 6) (toAbort : Bool) : (s.beginLift tag toAbort).dies = s.dies := by
  unfold State.beginLift; split <;> simp

@[simp] theorem mergeLift_dies (s : State) (toAbort : Bool) : (s.mergeLift toAbort).dies = s.dies := by
  unfold State.mergeLift; split <;> simp

@[simp] theorem doLiftoff_dies (s : State) (f : InFrame) : (s.doLiftoff f).dies = s.dies := by
  unfold State.doLiftoff; (repeat' split) <;> simp

@[simp] theorem doLoadKeys_dies (s : State) (f : InFrame) : (s.doLoadKeys f).dies = s.dies := by
  simp only [State.doLoadKeys]; (repeat' split) <;> simp

@[simp] theorem doDiscardKeys_dies (s : State) (f : InFrame) : (s.doDiscardKeys f).dies = s.dies := by
  simp [State.doDiscardKeys]

@[simp] theorem postJob_dies (s : State) (i : SiteNo) (p : Posting) : (s.postJob i p).dies = s.dies := by
  simp only [State.postJob]; split <;> simp

@[simp] theorem doProvision_dies (s : State) (f : InFrame) : (s.doProvision f).dies = s.dies := by
  simp only [State.doProvision]; (repeat' split) <;> simp

@[simp] theorem cancelSite_dies (s : State) (f : InFrame) (i : SiteNo) (queued takeActive : Bool) :
    (s.cancelSite f i queued takeActive).dies = s.dies := by
  cases queued <;> cases takeActive <;> simp [State.cancelSite, State.dropQueue]

@[simp] theorem doCancel_dies (s : State) (f : InFrame) : (s.doCancel f).dies = s.dies := by
  unfold State.doCancel; split <;> simp

@[simp] theorem doClearRecords_dies (s : State) (f : InFrame) : (s.doClearRecords f).dies = s.dies := by
  simp only [State.doClearRecords]; split <;> simp

/-! ### Events that end a die's selection (R64) -/

@[simp] theorem fusesOf_blocksReset (s : State) (c : ResetCause) (held : Bool) :
    fusesOf (s.blocksReset c held).dies = fusesOf s.dies := by
  funext i; simp [fusesOf, State.blocksReset, Die.deselect]

@[simp] theorem leaveReset_dies (s : State) : s.leaveReset.dies = s.dies := rfl

@[simp] theorem fusesOf_driveCut (s : State) (i : SiteNo) (o : JobOutcome) :
    fusesOf (s.driveCut i o).dies = fusesOf s.dies := by
  unfold State.driveCut; split <;> simp

@[simp] theorem fusesOf_attemptEnded (s : State) (i : SiteNo) (x : Exchange) (e : Ending) :
    fusesOf (s.attemptEnded i x e).dies = fusesOf s.dies := by
  simp only [State.attemptEnded]; split <;> simp

/-! ### One lemma for each event that branches -/

theorem execControlLinkByteReceived_keepsCells (b : Byte) (stopHigh : Bool) (s : State) :
    KeepsCells s (execControlLinkByteReceived b stopHigh s) := by
  unfold execControlLinkByteReceived
  (repeat' split) <;> exact keepsCells_of_dies (by simp)

theorem execGapTimerExpiry_keepsCells (s : State) : KeepsCells s (execGapTimerExpiry s) := by
  unfold execGapTimerExpiry
  split
  · exact keepsCells_of_dies rfl
  · exact keepsCells_fault s _

theorem execFrameLastByteSent_keepsCells (s : State) : KeepsCells s (execFrameLastByteSent s) := by
  unfold execFrameLastByteSent
  split
  · exact keepsCells_fault s _
  · split
    · exact keepsCells_next (fusesOf_blocksReset _ .request false)
    · exact keepsCells_of_dies rfl

theorem execResetReleased_keepsCells (s : State) : KeepsCells s (execResetReleased s) := by
  unfold execResetReleased
  split
  · exact keepsCells_of_dies rfl
  · exact keepsCells_fault s _

theorem execContactSensed_keepsCells (i : SiteNo) (s : State) : KeepsCells s (execContactSensed i s) := by
  simp only [execContactSensed]
  split <;> exact keepsCells_of_dies rfl

theorem execContactDropped_keepsCells (i : SiteNo) (s : State) : KeepsCells s (execContactDropped i s) := by
  simp only [execContactDropped]
  split <;> exact keepsCells_next (by simp)

theorem execDebounceExpiry_keepsCells (i : SiteNo) (s : State) : KeepsCells s (execDebounceExpiry i s) := by
  unfold execDebounceExpiry
  split
  · exact keepsCells_fault s _
  · split <;> exact keepsCells_of_dies (by simp)

theorem execSeatTimeoutExpiry_keepsCells (i : SiteNo) (s : State) : KeepsCells s (execSeatTimeoutExpiry i s) := by
  simp only [execSeatTimeoutExpiry]
  split
  · exact keepsCells_fault s _
  · split <;> exact keepsCells_of_dies (by simp)

theorem execDieSupplyAsserted_keepsCells (i : SiteNo) (s : State) : KeepsCells s (execDieSupplyAsserted i s) := by
  simp only [execDieSupplyAsserted]
  split <;> exact keepsCells_next (by simp)

theorem execDieSupplyDeasserted_keepsCells (i : SiteNo) (s : State) : KeepsCells s (execDieSupplyDeasserted i s) := by
  simp only [execDieSupplyDeasserted]
  split <;> exact keepsCells_of_dies (by simp)

theorem execPumpFaultAsserted_keepsCells (s : State) : KeepsCells s (execPumpFaultAsserted s) := by
  simp only [execPumpFaultAsserted]
  split <;> exact keepsCells_of_dies (by simp)

theorem execPumpFaultDeasserted_keepsCells (s : State) : KeepsCells s (execPumpFaultDeasserted s) := by
  simp only [execPumpFaultDeasserted]
  split <;> exact keepsCells_of_dies (by simp)

theorem execPumpHoldExpiry_keepsCells (s : State) : KeepsCells s (execPumpHoldExpiry s) := by
  unfold execPumpHoldExpiry
  split
  · exact keepsCells_fault s _
  · exact keepsCells_of_dies (by simp)

theorem execDieResponseComplete_keepsCells (i : SiteNo) (ddi : Wire) (openLeft : Nat) (s : State) :
    KeepsCells s (execDieResponseComplete i ddi openLeft s) := by
  simp only [execDieResponseComplete]
  (repeat' split) <;> exact keepsCells_next (by simp)

theorem execDieResponseDeadlineExpiry_keepsCells (i : SiteNo) (openLeft : Nat) (s : State) :
    KeepsCells s (execDieResponseDeadlineExpiry i openLeft s) := by
  unfold execDieResponseDeadlineExpiry
  split
  · exact keepsCells_fault s _
  · split
    · exact keepsCells_fault s _
    · exact keepsCells_next (by simp)

theorem execSettleTimerExpiry_keepsCells (i : SiteNo) (s : State) : KeepsCells s (execSettleTimerExpiry i s) := by
  unfold execSettleTimerExpiry
  split
  · exact keepsCells_fault s _
  · split
    · exact keepsCells_fault s _
    · exact keepsCells_of_dies (by simp)

theorem execOpenTimerExpiry_keepsCells (i : SiteNo) (s : State) : KeepsCells s (execOpenTimerExpiry i s) := by
  unfold execOpenTimerExpiry
  split
  · exact keepsCells_fault s _
  · split
    · exact keepsCells_fault s _
    · split
      · exact keepsCells_of_dies (by simp)
      · exact keepsCells_fault s _

theorem execRestTimerExpiry_keepsCells (i : SiteNo) (s : State) : KeepsCells s (execRestTimerExpiry i s) := by
  unfold execRestTimerExpiry
  split
  · exact keepsCells_fault s _
  · split
    · exact keepsCells_fault s _
    · exact keepsCells_of_dies (by simp)

/-! ### The die's commands -/

@[simp] theorem answer_cells (d : Die) (live : Bool) (a : DieAnswer) : (d.answer live a).cells = d.cells := by
  unfold Die.answer; split <;> rfl

@[simp] theorem answerUnknown_cells (l : List HeldFrame) (d : Die) : (Die.answerUnknown l d).cells = d.cells := by
  induction l generalizing d with
  | nil => rfl
  | cons h l ih =>
    unfold Die.answerUnknown
    split
    · rfl
    · rw [ih, answer_cells]

@[simp] theorem receive_cells (d : Die) (bs : List Byte) : (d.receive bs).cells = d.cells := by
  unfold Die.receive; split <;> simp

theorem execCommandFrameSent_keepsCells (i : SiteNo) (ddo : Wire) (s : State) :
    KeepsCells s (execCommandFrameSent i ddo s) := by
  simp only [execCommandFrameSent]
  split
  · exact keepsCells_fault s _
  · split
    · exact keepsCells_fault s _
    · exact keepsCells_next (fusesOf_setDie _ _ _ (receive_cells _ _))

/-- A die command that is carried out: the oldest frame is of its code, the die's cells are those its meaning leaves, and no other
die changes. -/
theorem dieCommand_next {s t : State} {i : SiteNo} {code : Byte} {act : Die → DieFrame → Die × DieAnswer}
    (h : s.dieCommand i code act = .next t) :
    ∃ x ∈ (s.die i).held.head?, x.frame.code = code ∧ (t.die i).cells = (act (s.die i) x.frame).1.cells ∧
      ∀ k ≠ i, t.die k = s.die k := by
  unfold State.dieCommand at h
  split at h
  · next d hd =>
    obtain rfl := Host.Outcome.next.inj h
    unfold Die.carryOut at hd
    split at hd
    · cases hd
    · next x rest hx =>
      split at hd
      · next hc =>
        obtain rfl := Option.some.inj hd
        refine ⟨x, by rw [hx]; rfl, hc, ?_, fun k hk => die_setDie_ne _ _ hk⟩
        rw [die_setDie, answerUnknown_cells, answer_cells]
      · cases hd
  · cases h

/-- A die command whose meaning leaves the die's cells as they were changes no cell. -/
theorem dieCommand_keepsCells (s : State) (i : SiteNo) (code : Byte) (act : Die → DieFrame → Die × DieAnswer)
    (hact : ∀ d f, (act d f).1.cells = d.cells) : KeepsCells s (s.dieCommand i code act) := by
  intro t h
  obtain ⟨x, -, -, hi, hk⟩ := dieCommand_next h
  funext k
  change (t.die k).cells = (s.die k).cells
  by_cases e : k = i
  · subst e; rw [hi, hact]
  · rw [hk k e]

theorem doEnter_cells (d : Die) (f : DieFrame) : (d.doEnter f).1.cells = d.cells := by
  simp only [Die.doEnter]; split <;> rfl
theorem doSense_cells (d : Die) (f : DieFrame) : (d.doSense f).1.cells = d.cells := by
  unfold Die.doSense; (repeat' split) <;> rfl
theorem doOpenRow_cells (d : Die) (f : DieFrame) : (d.doOpenRow f).1.cells = d.cells := by
  unfold Die.doOpenRow; split <;> rfl
theorem doCloseRow_cells (d : Die) (f : DieFrame) : (d.doCloseRow f).1.cells = d.cells := by
  unfold Die.doCloseRow; (repeat' split) <;> rfl
theorem doReload_cells (d : Die) (f : DieFrame) : (d.doReload f).1.cells = d.cells := by
  unfold Die.doReload; split <;> rfl
theorem doReadShadow_cells (d : Die) (f : DieFrame) : (d.doReadShadow f).1.cells = d.cells := by
  simp only [Die.doReadShadow]; split <;> rfl

/-! ### Every command but PULSE -/

/-- The commands that may change a cell: a PULSE (R80), and a DIE_POWER_ON that brings another die (log entry 6). -/
def touchesCells : Instr → Bool
  | .pulse .. => true
  | .diePowerOn _ cells => cells.isSome
  | _ => false

/-- R78: no other command changes a cell of any die. -/
theorem exec_keepsCells (c : Instr) (s : State) (hc : touchesCells c = false) : KeepsCells s (exec c s) := by
  cases c with
  | controlLinkByteReceived b stopHigh => exact execControlLinkByteReceived_keepsCells b stopHigh s
  | gapTimerExpiry => exact execGapTimerExpiry_keepsCells s
  | frameLastByteSent => exact execFrameLastByteSent_keepsCells s
  | heldStatusReply => exact takeFrame_keepsCells s _ _ doHeldStatus_dies
  | badRequest => exact takeFrame_keepsCells s _ (fun s f => s.reply f .badRequest []) fun _ _ => rfl
  | identify => exact takeRequest_keepsCells s _ _ (fun s f => s.reply f .ok s.identifyFields) fun _ _ => rfl
  | status => exact takeRequest_keepsCells s _ _ (fun s f => s.reply f .ok s.statusFields) fun _ _ => rfl
  | configure => exact takeRequest_keepsCells s _ _ _ doConfigure_dies
  | setEnables => exact takeRequest_keepsCells s _ _ _ doSetEnables_dies
  | touchdown => exact takeRequest_keepsCells s _ _ _ doTouchdown_dies
  | liftoff => exact takeRequest_keepsCells s _ _ _ doLiftoff_dies
  | resetUnit => exact takeRequest_keepsCells s _ _ State.doResetUnit fun _ _ => rfl
  | loadKeys => exact takeRequest_keepsCells s _ _ _ doLoadKeys_dies
  | discardKeys => exact takeRequest_keepsCells s _ _ _ doDiscardKeys_dies
  | provision => exact takeRequest_keepsCells s _ _ _ doProvision_dies
  | cancel => exact takeRequest_keepsCells s _ _ _ doCancel_dies
  | readRecords => exact takeRequest_keepsCells s _ _ State.doReadRecords fun _ _ => rfl
  | clearRecords => exact takeRequest_keepsCells s _ _ _ doClearRecords_dies
  | readEvents => exact takeRequest_keepsCells s _ _ _ doReadEvents_dies
  | powerOn => exact keepsCells_next (fusesOf_blocksReset s _ _)
  | resetLineAsserted => exact keepsCells_next (fusesOf_blocksReset s _ _)
  | resetReleased => exact execResetReleased_keepsCells s
  | contactSensed i => exact execContactSensed_keepsCells i s
  | contactDropped i => exact execContactDropped_keepsCells i s
  | debounceExpiry i => exact execDebounceExpiry_keepsCells i s
  | seatTimeoutExpiry i => exact execSeatTimeoutExpiry_keepsCells i s
  | dieSupplyAsserted i => exact execDieSupplyAsserted_keepsCells i s
  | dieSupplyDeasserted i => exact execDieSupplyDeasserted_keepsCells i s
  | pumpFaultAsserted => exact execPumpFaultAsserted_keepsCells s
  | pumpFaultDeasserted => exact execPumpFaultDeasserted_keepsCells s
  | pumpHoldExpiry => exact execPumpHoldExpiry_keepsCells s
  | dieResponseComplete i ddi openLeft => exact execDieResponseComplete_keepsCells i ddi openLeft s
  | dieResponseDeadlineExpiry i openLeft => exact execDieResponseDeadlineExpiry_keepsCells i openLeft s
  | settleTimerExpiry i => exact execSettleTimerExpiry_keepsCells i s
  | openTimerExpiry i => exact execOpenTimerExpiry_keepsCells i s
  | restTimerExpiry i => exact execRestTimerExpiry_keepsCells i s
  | diePowerOn i cells =>
    cases cells with
    | none => exact keepsCells_next (fusesOf_setDie s i _ rfl)
    | some _ => cases hc
  | reset i => exact dieCommand_keepsCells s i _ _ fun _ _ => rfl
  | closeAll i => exact dieCommand_keepsCells s i _ _ fun _ _ => rfl
  | enterProvisioning i => exact dieCommand_keepsCells s i _ _ doEnter_cells
  | sense i => exact dieCommand_keepsCells s i _ _ doSense_cells
  | openRow i => exact dieCommand_keepsCells s i _ _ doOpenRow_cells
  | pulse i a b => cases hc
  | closeRow i => exact dieCommand_keepsCells s i _ _ doCloseRow_cells
  | reload i => exact dieCommand_keepsCells s i _ _ doReload_cells
  | readShadow i => exact dieCommand_keepsCells s i _ _ doReadShadow_cells
  | commandFrameSent i ddo => exact execCommandFrameSent_keepsCells i ddo s

/-- The die at a site keeps its cells at every command but a PULSE and the coming of another die at that site. -/
theorem exec_cells {c : Instr} {s t : State} {i : SiteNo} (h : exec c s = .next t) (hp : ∀ k a b, c ≠ .pulse k a b)
    (hd : ∀ cells, c ≠ .diePowerOn i (some cells)) : (t.die i).cells = (s.die i).cells := by
  cases hc : touchesCells c with
  | false => exact cells_eq_of_fusesOf (exec_keepsCells c s hc t h) i
  | true =>
    unfold touchesCells at hc
    split at hc
    · next k a b => exact absurd rfl (hp k a b)
    · next k cells =>
      obtain ⟨cells, rfl⟩ := Option.isSome_iff_exists.mp hc
      have hne : i ≠ k := by rintro rfl; exact hd cells rfl
      obtain rfl := Host.Outcome.next.inj h
      rw [die_setDie_ne _ _ hne]
    · cases hc

/-! ### PULSE (R78, R80) -/

/-- What becomes of a die row under pulses and of a row left alone: no cell returns to a lower condition, and each stays in one
condition. -/
structure RowGrows (old new : DieRow) : Prop where
  full : old.full &&& ~~~new.full = 0
  blown : (old.full ||| old.weak) &&& ~~~(new.full ||| new.weak) = 0
  oneCondition : new.full &&& new.weak = 0

/-- Two rows differ in cells of a mask only. -/
structure DiffersWithin (mask : Row) (old new : DieRow) : Prop where
  full : (new.full ^^^ old.full) &&& ~~~mask = 0
  weak : (new.weak ^^^ old.weak) &&& ~~~mask = 0

theorem rowGrows_refl {r : DieRow} (h : r.full &&& r.weak = 0) : RowGrows r r :=
  ⟨by simp, by rw [BitVec.and_not_self], h⟩

theorem pulseCells_grows (r : DieRow) (mask a b : Row) : RowGrows r (pulseCells r mask a b) := by
  constructor
  case full => ext k hk; simp [pulseCells]; grind
  case blown => ext k hk; simp [pulseCells]; grind
  case oneCondition => ext k hk; simp [pulseCells]; grind

/-- A cell outside the mask that is weakly blown is not fully blown, so that a pulse leaves it weakly blown. -/
theorem pulseCells_within (r : DieRow) (mask a b : Row) (h : r.full &&& r.weak = 0) :
    DiffersWithin mask r (pulseCells r mask a b) := by
  have hb : ∀ k, (r.full.getLsbD k && r.weak.getLsbD k) = false := fun k => by
    rw [← BitVec.getLsbD_and, h]; exact BitVec.getLsbD_zero
  constructor
  case full => ext k hk; simp [pulseCells]; grind
  case weak => ext k hk; have := hb k; simp [pulseCells]; grind

/-- A PULSE carried out at a die (R80): without an open row in PROVISIONING it changes no cell, and otherwise it pulses the open
row and leaves the other rows. -/
theorem doPulse_cells (a b : Row) (d : Die) (f : DieFrame) :
    (Die.doPulse a b d f).1.cells = d.cells ∨
      ∃ r, d.mode = .provisioning ∧ d.openRow = some r ∧
        (Die.doPulse a b d f).1.cells = d.cells.set r.val (pulseCells d.cells[r] f.arg a b) r.isLt := by
  unfold Die.doPulse
  split
  · next r hm ho => exact .inr ⟨r, hm, ho, rfl⟩
  · exact .inl rfl

/-- R80: what a PULSE at site i makes of a region row of any die. -/
theorem exec_pulse_row {s t : State} {i : SiteNo} {a b : Row} (h : exec (.pulse i a b) s = .next t) (k : SiteNo)
    (r : RegionRow) :
    (t.die k).cells[r] = (s.die k).cells[r] ∨
      k = i ∧ (s.die k).openRow = some r ∧ (s.die k).mode = .provisioning ∧
        ∃ x ∈ (s.die k).held.head?, x.frame.code = 0x12 ∧
          (t.die k).cells[r] = pulseCells (s.die k).cells[r] x.frame.arg a b := by
  obtain ⟨x, hx, hc, hi, hk⟩ := dieCommand_next (show s.dieCommand i 0x12 (Die.doPulse a b) = .next t from h)
  by_cases e : k = i
  · subst e
    rcases doPulse_cells a b (s.die k) x.frame with hp | ⟨q, hm, ho, hp⟩
    · exact .inl (by rw [hi, hp])
    · by_cases eq : q = r
      · subst eq
        exact .inr ⟨rfl, ho, hm, x, hx, hc, by rw [hi, hp]; simp⟩
      · have : q.val ≠ r.val := fun e => eq (Fin.ext e)
        exact .inl (by rw [hi, hp]; simp [this])
  · exact .inl (by rw [hk k e])

/-! ### The statement -/

/-- Settles O56: a command other than PULSE leaves every cell, and a PULSE leaves every row but the open one, in which it changes
cells of its mask. -/
theorem blownCellsOnlyGrow : Obligations.BlownCellsOnlyGrow := by
  unfold Obligations.BlownCellsOnlyGrow
  rintro c s t i r old new h hc rfl rfl hone
  have row : (t.die i).cells[r] = (s.die i).cells[r] ∨ ∃ a b, c = .pulse i a b ∧ (s.die i).openRow = some r ∧
      (s.die i).mode = .provisioning ∧ ∃ x ∈ (s.die i).held.head?, x.frame.code = 0x12 ∧
        (t.die i).cells[r] = pulseCells (s.die i).cells[r] x.frame.arg a b := by
    by_cases hp : ∃ k a b, c = .pulse k a b
    · obtain ⟨k, a, b, rfl⟩ := hp
      exact (exec_pulse_row h i r).imp_right fun ⟨e, rest⟩ => ⟨a, b, by rw [e], rest⟩
    · push Not at hp
      exact .inl (by rw [exec_cells h hp hc])
  rcases row with e | ⟨a, b, rfl, ho, hm, x, hx, hcode, e⟩
  · rw [e]
    obtain ⟨hfull, hblown, hone'⟩ := rowGrows_refl hone
    exact ⟨hfull, hblown, hone', fun hne => absurd rfl hne⟩
  · rw [e]
    obtain ⟨hfull, hblown, hone'⟩ := pulseCells_grows (s.die i).cells[r] x.frame.arg a b
    obtain ⟨hinFull, hinWeak⟩ := pulseCells_within (s.die i).cells[r] x.frame.arg a b hone
    exact ⟨hfull, hblown, hone', fun _ => ⟨⟨a, b, rfl⟩, ho, hm, x, hx, hcode, hinFull, hinWeak⟩⟩

end Sys2Proof.Machine
end

section
/-!
SUPPORT. The row code (R6 to R16): the cells of a row word, the check vector, syndrome and parity as linear functions, and the
decode of a row word with cells changed.
-/
namespace Sys2Proof.Machine

/-! ### Odd counts -/

/-- Whether an odd number of a list's entries meets a test: the exclusive-or of the tests. -/
def oddCount (p : Nat → Bool) (l : List Nat) : Bool := decide (l.countP p % 2 = 1)

@[simp] theorem oddCount_nil (p : Nat → Bool) : oddCount p [] = false := rfl

theorem oddCount_cons (p : Nat → Bool) (i : Nat) (l : List Nat) : oddCount p (i :: l) = (p i ^^ oddCount p l) := by
  unfold oddCount
  rw [List.countP_cons]
  cases p i
  · simp
  · simp; grind

theorem oddCount_append (p : Nat → Bool) (l l' : List Nat) : oddCount p (l ++ l') = (oddCount p l ^^ oddCount p l') := by
  induction l with
  | nil => simp
  | cons i l ih => simp [oddCount_cons, ih]

theorem oddCount_xor (p q : Nat → Bool) (l : List Nat) :
    oddCount (fun i => p i ^^ q i) l = (oddCount p l ^^ oddCount q l) := by
  induction l with
  | nil => rfl
  | cons i l ih => rw [oddCount_cons, oddCount_cons, oddCount_cons, ih, Bool.xor_assoc, Bool.xor_assoc, Bool.xor_left_comm (q i)]

theorem oddCount_congr {p q : Nat → Bool} {l : List Nat} (h : ∀ i ∈ l, p i = q i) : oddCount p l = oddCount q l := by
  unfold oddCount
  rw [List.countP_congr fun i hi => by rw [h i hi]]

/-! ### Column codes and check bits (R7, R8) -/

/-- R7: the column codes are the first 24 of the 6-bit values with at least two one-bits, ascending. -/
theorem columnCodes_toNat : columnCodes.map BitVec.toNat =
    ((List.range 64).filter (fun v => 2 ≤ (List.range 6).countP (fun b => v.testBit b))).take 24 := by decide

theorem columnCode_toNat {i : Nat} (hi : i < 24) : (columnCode i).toNat =
    ((List.range 64).filter (fun v => 2 ≤ (List.range 6).countP (fun b => v.testBit b))).getD i 0 := by
  calc (columnCode i).toNat = (columnCodes.map BitVec.toNat).getD i 0 := (List.getD_map columnCodes 0 BitVec.toNat).symm
    _ = _ := by rw [columnCodes_toNat, List.getD_eq_getElem?_getD, List.getElem?_take_of_lt hi,
      List.getD_eq_getElem?_getD]

theorem getLsbD_foldl_columnCode (d : BitVec 24) (j : Nat) (l : List Nat) (a : BitVec 6) :
    (l.foldl (fun acc i => if d.getLsbD i then acc ^^^ columnCode i else acc) a).getLsbD j =
      (a.getLsbD j ^^ oddCount (fun i => d.getLsbD i && (columnCode i).getLsbD j) l) := by
  induction l generalizing a with
  | nil => simp
  | cons i l ih =>
    rw [List.foldl_cons, ih, oddCount_cons]
    cases d.getLsbD i <;> simp

/-- R8: bit j of the check vector is the exclusive-or of the data bits whose column code has bit j. -/
theorem getLsbD_checkVector (d : BitVec 24) (j : Nat) : (checkVector d).getLsbD j =
    oddCount (fun i => d.getLsbD i && (columnCode i).getLsbD j) (List.range 24) := by
  refine (getLsbD_foldl_columnCode d j _ 0).trans ?_
  simp

theorem checkVector_xor (d e : BitVec 24) : checkVector (d ^^^ e) = checkVector d ^^^ checkVector e := by
  ext j hj
  simp only [← BitVec.getLsbD_eq_getElem, BitVec.getLsbD_xor, getLsbD_checkVector, ← oddCount_xor, Bool.and_xor_distrib_right]

/-! ### What a read gives the decode (R13) -/

theorem parityOdd_eq (w : Row) : parityOdd w = oddCount w.getLsbD (List.range 31) := rfl

theorem parityOdd_xor (v w : Row) : parityOdd (v ^^^ w) = (parityOdd v ^^ parityOdd w) := by
  simp only [parityOdd_eq, ← oddCount_xor]
  exact oddCount_congr fun i _ => BitVec.getLsbD_xor

theorem dataCells_xor (v w : Row) : dataCells (v ^^^ w) = dataCells v ^^^ dataCells w := BitVec.setWidth_xor

theorem checkCells_xor (v w : Row) : checkCells (v ^^^ w) = checkCells v ^^^ checkCells w := by
  unfold checkCells
  rw [BitVec.ushiftRight_xor_distrib, BitVec.setWidth_xor]

theorem syndrome_xor (v w : Row) : syndrome (v ^^^ w) = syndrome v ^^^ syndrome w := by
  unfold syndrome
  rw [dataCells_xor, checkVector_xor, checkCells_xor]
  ac_rfl

/-! ### The cells of a row word (R6, R8, R9) -/

/-- Cells 0 to 29 of a row word: the data and the check bits. -/
def rowBody (d : BitVec 24) : Row := d.setWidth 32 ||| ((checkVector d).setWidth 32 <<< 24)

theorem rowWord_eq (d : BitVec 24) : rowWord d =
    rowBody d ||| (if oddCount (rowBody d).getLsbD (List.range 30) then BitVec.twoPow 32 30 else 0)
      ||| BitVec.twoPow 32 31 := by
  simp only [oddCount, decide_eq_true_eq, BitVec.twoPow_eq]
  rfl

theorem getLsbD_rowBody (d : BitVec 24) {e : Nat} (h : e < 32) :
    (rowBody d).getLsbD e = if e < 24 then d.getLsbD e else (checkVector d).getLsbD (e - 24) := by
  rw [rowBody, BitVec.getLsbD_or, BitVec.getLsbD_setWidth, BitVec.getLsbD_shiftLeft, BitVec.getLsbD_setWidth]
  split
  · next hd => simp [h, hd]
  · next hd =>
    have hc : e - 24 < 32 := by omega
    rw [BitVec.getLsbD_of_ge d e (by omega), decide_eq_true h, decide_eq_true hc, decide_eq_false hd]
    simp

theorem getLsbD_rowWord (d : BitVec 24) (e : Nat) : (rowWord d).getLsbD e =
    ((rowBody d).getLsbD e || (oddCount (rowBody d).getLsbD (List.range 30) && decide (e = 30)) || decide (e = 31)) := by
  rw [rowWord_eq, BitVec.getLsbD_or, BitVec.getLsbD_or, BitVec.getLsbD_twoPow]
  split <;> simp [*, BitVec.getLsbD_twoPow, eq_comm]

theorem getLsbD_rowWord_body (d : BitVec 24) {e : Nat} (h : e < 30) : (rowWord d).getLsbD e = (rowBody d).getLsbD e := by
  have h30 : e ≠ 30 := by omega
  have h31 : e ≠ 31 := by omega
  simp [getLsbD_rowWord, h30, h31]

theorem getLsbD_rowWord_parity (d : BitVec 24) : (rowWord d).getLsbD 30 = oddCount (rowBody d).getLsbD (List.range 30) := by
  rw [getLsbD_rowWord, getLsbD_rowBody d (by decide), if_neg (by decide), BitVec.getLsbD_of_ge _ _ (by decide)]
  simp

@[simp] theorem getLsbD_rowWord_mark (d : BitVec 24) : (rowWord d).getLsbD 31 = true := by
  simp [getLsbD_rowWord]

theorem getLsbD_rowWord_data (d : BitVec 24) {e : Nat} (h : e < 24) : (rowWord d).getLsbD e = d.getLsbD e := by
  rw [getLsbD_rowWord_body d (by omega), getLsbD_rowBody d (by omega), if_pos h]

theorem getLsbD_rowWord_check (d : BitVec 24) {j : Nat} (h : j < 6) :
    (rowWord d).getLsbD (24 + j) = (checkVector d).getLsbD j := by
  rw [getLsbD_rowWord_body d (by omega), getLsbD_rowBody d (by omega), if_neg (by omega), Nat.add_sub_cancel_left]

@[simp] theorem dataCells_rowWord (d : BitVec 24) : dataCells (rowWord d) = d := by
  ext e he
  rw [← BitVec.getLsbD_eq_getElem, dataCells, BitVec.getLsbD_setWidth, decide_eq_true he, Bool.true_and,
    getLsbD_rowWord_data d he, BitVec.getLsbD_eq_getElem]

@[simp] theorem checkCells_rowWord (d : BitVec 24) : checkCells (rowWord d) = checkVector d := by
  ext j hj
  rw [← BitVec.getLsbD_eq_getElem, checkCells, BitVec.getLsbD_setWidth, decide_eq_true hj, Bool.true_and,
    BitVec.getLsbD_ushiftRight, getLsbD_rowWord_check d hj, BitVec.getLsbD_eq_getElem]

@[simp] theorem syndrome_rowWord (d : BitVec 24) : syndrome (rowWord d) = 0 := by simp [syndrome]

@[simp] theorem parityOdd_rowWord (d : BitVec 24) : parityOdd (rowWord d) = false := by
  rw [parityOdd_eq, List.range_succ, oddCount_append, oddCount_cons, getLsbD_rowWord_parity,
    oddCount_congr fun e he => getLsbD_rowWord_body d (List.mem_range.mp he)]
  simp

/-! ### The decode (R14) -/

/-- A column code's place in the list is the data bit it belongs to. -/
theorem find_columnCode (syn : BitVec 6) : (List.range 24).find? (fun i => decide (columnCode i = syn)) =
    if syn ∈ columnCodes then some (columnCodes.idxOf syn) else none := by
  revert syn; decide

theorem mem_unitCodes (syn : BitVec 6) :
    syn ∈ [(1 : BitVec 6), 2, 4, 8, 16, 32] ↔ syn.toNat ∈ [1, 2, 4, 8, 16, 32] := by
  revert syn; decide

/-- R14: the decode as a table of syndrome and parity. -/
theorem decodeRow_eq (w : Row) : decodeRow w =
    if onesBelow 31 w % 2 = 0 then (if syndrome w = 0 then .clean (dataCells w) else .uncorrectable)
    else if syndrome w = 0 then .corrected (dataCells w)
    else match (List.range 24).find? (fun i => decide (columnCode i = syndrome w)) with
      | some i => .corrected (dataCells w ^^^ (1#24 <<< i))
      | none => if (syndrome w).toNat ∈ [1, 2, 4, 8, 16, 32] then .corrected (dataCells w) else .uncorrectable := by
  rw [find_columnCode]
  by_cases he : onesBelow 31 w % 2 = 0
  · have hp : parityOdd w = false := by simp [parityOdd, he]
    simp only [decodeRow, hp, if_pos he, Bool.false_eq_true, if_false]
  · have hp : parityOdd w = true := by simpa [parityOdd] using he
    simp only [decodeRow, hp, if_neg he, if_true, mem_unitCodes]
    by_cases hc : syndrome w ∈ columnCodes
    · simp only [if_pos hc]
    · simp only [if_neg hc]

/-- A decode with its data moved by an exclusive-or. -/
def Decoded.shift (x : BitVec 24) : Decoded → Decoded
  | .clean d => .clean (x ^^^ d)
  | .corrected d => .corrected (x ^^^ d)
  | .uncorrectable => .uncorrectable

/-- Cells of syndrome 0 and even parity move the decoded data and nothing else of the decode. -/
theorem decodeRow_xor (v w : Row) (hs : syndrome v = 0) (hp : parityOdd v = false) :
    decodeRow (v ^^^ w) = (decodeRow w).shift (dataCells v) := by
  have hs' : syndrome (v ^^^ w) = syndrome w := by rw [syndrome_xor, hs]; exact BitVec.zero_xor
  have hp' : parityOdd (v ^^^ w) = parityOdd w := by rw [parityOdd_xor, hp, Bool.false_xor]
  simp only [decodeRow, hs', hp', dataCells_xor, BitVec.xor_assoc]
  (repeat' split) <;> rfl

/-- What cells changed make of a row word's read is what they read as alone, over the row word's data. -/
theorem decodeRow_rowWord_xor (d : BitVec 24) (w : Row) : decodeRow (rowWord d ^^^ w) = (decodeRow w).shift d := by
  rw [decodeRow_xor _ _ (syndrome_rowWord d) (parityOdd_rowWord d), dataCells_rowWord]

theorem decodeRow_zero : decodeRow 0 = .clean 0 := by decide

theorem decodeRow_rowWord (d : BitVec 24) : decodeRow (rowWord d) = .clean d := by
  have h := decodeRow_rowWord_xor d 0
  rw [decodeRow_zero] at h
  simpa [Decoded.shift] using h

theorem decodeRow_cell : ∀ a < 31, decodeRow (1#32 <<< a) = .corrected 0 := by decide

/-- R13, R14: one cell of 0 to 30 changed is corrected. -/
theorem decodeRow_rowWord_cell (d : BitVec 24) {a : Nat} (ha : a < 31) :
    decodeRow (rowWord d ^^^ (1#32 <<< a)) = .corrected d := by
  rw [decodeRow_rowWord_xor, decodeRow_cell a ha]
  simp [Decoded.shift]

/-- The syndromes of the cells 0 to 30 alone: the column codes, the six unit codes and 0, no two the same. -/
theorem cellSyndromes_inj : ∀ a < 31, ∀ b < 31, syndrome (1#32 <<< a) = syndrome (1#32 <<< b) → a = b := by decide

theorem parityOdd_cell : ∀ a < 31, parityOdd (1#32 <<< a) = true := by decide

theorem decodeRow_two_cells {a b : Nat} (ha : a < 31) (hb : b < 31) (h : a ≠ b) :
    decodeRow (1#32 <<< a ^^^ 1#32 <<< b) = .uncorrectable := by
  have hp : parityOdd (1#32 <<< a ^^^ 1#32 <<< b) = false := by
    rw [parityOdd_xor, parityOdd_cell a ha, parityOdd_cell b hb]; rfl
  have hs : syndrome (1#32 <<< a ^^^ 1#32 <<< b) ≠ 0 := by
    rw [syndrome_xor]
    exact fun e => h (cellSyndromes_inj a ha b hb (BitVec.xor_eq_zero_iff.mp e))
  simp only [decodeRow, hp, if_neg hs, Bool.false_eq_true, if_false]

/-- R13, R14: two cells of 0 to 30 changed are detected. -/
theorem decodeRow_rowWord_two_cells (d : BitVec 24) {a b : Nat} (ha : a < 31) (hb : b < 31) (h : a ≠ b) :
    decodeRow (rowWord d ^^^ (1#32 <<< a) ^^^ (1#32 <<< b)) = .uncorrectable := by
  rw [BitVec.xor_assoc, decodeRow_rowWord_xor, decodeRow_two_cells ha hb h]
  rfl

/-- R14: the written mark takes no part in the decode. -/
theorem decodeRow_xor_mark (w : Row) : decodeRow (w ^^^ (1#32 <<< 31)) = decodeRow w := by
  rw [BitVec.xor_comm, decodeRow_xor _ _ (by decide) (by decide), show dataCells (1#32 <<< 31) = 0 from rfl]
  cases decodeRow w <;> simp [Decoded.shift]

/-! ### Lock words (R10, R16) -/

theorem lockData_lockMark (m : RelocMap) : (lockData m).setWidth 8 = (0xC3 : Byte) := by
  ext k hk
  simp [lockData]

theorem lockData_complete (m : RelocMap) : (lockData m).getLsbD 23 = true := by
  simp [lockData]

/-- R16: a read that decodes to a lock word's data is valid exactly with the written mark. -/
theorem lockRowValid_of_data {w : Row} {m : RelocMap} (h : (decodeRow w).data? = some (lockData m)) :
    lockRowValid w = w.getLsbD 31 := by
  simp only [lockRowValid, validLockData, h, lockData_lockMark, lockData_complete, writtenMark]
  cases w.getLsbD 31 <;> rfl

theorem lockRowValid_lockWord (m : RelocMap) : lockRowValid (lockWordOf m) = true := by
  rw [lockRowValid_of_data (m := m) (by rw [lockWordOf, decodeRow_rowWord]; rfl)]
  exact getLsbD_rowWord_mark _

theorem lockRowValid_lockWord_cell (m : RelocMap) {a : Nat} (ha : a < 31) :
    lockRowValid (lockWordOf m ^^^ (1#32 <<< a)) = true := by
  rw [lockRowValid_of_data (m := m) (by rw [lockWordOf, decodeRow_rowWord_cell _ ha]; rfl), BitVec.getLsbD_xor, lockWordOf,
    getLsbD_rowWord_mark, ← BitVec.twoPow_eq, BitVec.getLsbD_twoPow]
  simp; omega

theorem lockRowValid_lockWord_mark (m : RelocMap) : lockRowValid (lockWordOf m ^^^ (1#32 <<< 31)) = false := by
  rw [lockRowValid_of_data (m := m) (by rw [decodeRow_xor_mark, lockWordOf, decodeRow_rowWord]; rfl), BitVec.getLsbD_xor,
    lockWordOf, getLsbD_rowWord_mark]
  decide

/-! ### The statements -/

/-- Settles O57: the codes, the check bits and the table, each by its lemma. -/
theorem checkBitsAndDecodeTable : Obligations.CheckBitsAndDecodeTable := by
  unfold Obligations.CheckBitsAndDecodeTable
  refine ⟨fun i hi => columnCode_toNat hi, fun d j hj => ?_, decodeRow_eq⟩
  rw [getLsbD_rowWord_check d hj, getLsbD_checkVector]
  rfl

/-- Settles O58: the decode is linear over the row words, and the 31 cells' syndromes are distinct. -/
theorem rowCodeCorrectsOneDetectsTwo : Obligations.RowCodeCorrectsOneDetectsTwo := by
  unfold Obligations.RowCodeCorrectsOneDetectsTwo
  refine ⟨fun d e he => getLsbD_rowWord_data d he, fun d => ⟨?_, getLsbD_rowWord_mark d, decodeRow_rowWord d⟩,
    fun d a ha => decodeRow_rowWord_cell d ha, fun d a b ha hb h => decodeRow_rowWord_two_cells d ha hb h,
    decodeRow_xor_mark, decodeRow_zero, by decide, fun m a => ⟨lockRowValid_lockWord m, lockRowValid_lockWord_cell m,
    lockRowValid_lockWord_mark m⟩⟩
  simpa [parityOdd] using parityOdd_rowWord d

end Sys2Proof.Machine
end

section
/-!
SUPPORT. Requests that the Dispatcher takes: the numbers of a payload (R175), a frame taken from the front (R164, R167), what a
report of a global condition changes (R150, R151, R153), POOL_LOW evaluated ahead of a reply (R33), and what liftoff completion
leaves of the output queue (R131).
-/
namespace Sys2Proof.Machine

/-! ### Numbers of a payload (R175) -/

@[simp] theorem length_bytesLE (n w : Nat) : (bytesLE n w).length = n := by simp [bytesLE]

theorem bytesLE_succ (n w : Nat) : bytesLE (n + 1) w = BitVec.ofNat 8 w :: bytesLE n (w / 256) := by
  simp [bytesLE, List.range_succ_eq_map, Nat.pow_succ', Nat.div_div_eq_div_mul]

theorem byteAt_append_of_le (pre p : List Byte) {k : Nat} (h : pre.length ≤ k) :
    byteAt (pre ++ p) k = byteAt p (k - pre.length) := List.getD_append_right pre p 0 k h

theorem numAt_append_of_le (pre p : List Byte) {k : Nat} (n : Nat) (h : pre.length ≤ k) :
    numAt (pre ++ p) k n = numAt p (k - pre.length) n := by
  induction n generalizing k with
  | zero => rfl
  | succ n ih =>
    have hk : k + 1 - pre.length = k - pre.length + 1 := by omega
    simp only [numAt, byteAt_append_of_le pre p h, ih (show pre.length ≤ k + 1 by omega), hk]

theorem numAt_cons (b : Byte) (p : List Byte) (k n : Nat) : numAt (b :: p) (k + 1) n = numAt p k n :=
  numAt_append_of_le [b] p n (by simp)

/-- A number written low byte first is read back as it was. -/
theorem numAt_bytesLE {n w : Nat} (post : List Byte) (h : w < 256 ^ n) : numAt (bytesLE n w ++ post) 0 n = w := by
  induction n generalizing w with
  | zero => exact (Nat.lt_one_iff.mp h).symm
  | succ n ih =>
    have hhigh : w / 256 < 256 ^ n := Nat.div_lt_of_lt_mul (by rwa [← Nat.pow_succ'])
    have hlow : (byteAt (BitVec.ofNat 8 w :: (bytesLE n (w / 256) ++ post)) 0).toNat = w % 256 := BitVec.toNat_ofNat w 8
    rw [bytesLE_succ, List.cons_append, numAt, hlow, numAt_cons, ih hhigh, Nat.mod_add_div]

/-! ### A frame taken -/

/-- A request in front whose length its kind allows is carried out, with its frame gone from the intake queue. -/
theorem takeRequest_front {s : State} {kind : Byte} {f : InFrame} {rest : List InFrame} (h : s.Front kind f rest)
    {ok : List Byte → Bool} (hok : ok f.payload = true) (act : State → InFrame → State) :
    s.takeRequest kind ok act = .next (act (s.taken rest) f) := by
  obtain ⟨hrun, htake, hin, hgood, hkind⟩ := h
  have hdrop : s.dropFront = s.taken rest := by simp [State.dropFront, State.taken, hin]
  simp [State.takeRequest, State.takeFrame, InFrame.isRequest, hrun, htake, hin, hgood, hkind, hok, hdrop]

/-! ### Reports of a global condition -/

/-- A report latches the flag, and places the notice of the global scope when none is pending and an enabled flag is latched. -/
theorem latchGlobal_eq {s t : State} {g : GlobalFlag} (ht : t = s.latchGlobal g) :
    t.mon = { s.mon with flags := s.mon.flags.put g true, pending := s.mon.pending || t.enabledFlag .global } ∧
      t.link = { s.link with outq := s.link.outq ++
        if s.mon.pending = false ∧ t.enabledFlag .global = true then [t.noticeOf .global] else [] } ∧
      t = { s with mon := t.mon, link := t.link } := by
  generalize hw : ({ s with mon := { s.mon with flags := s.mon.flags.put g true } } : State) = w
  have hthr : t = w.throttle .global := by rw [ht, ← hw]; rfl
  by_cases hfire : s.mon.pending = false ∧ w.enabledFlag .global = true
  · obtain ⟨hp, he⟩ := hfire
    have hnone : w.noticePending .global = false := by rw [← hw]; exact hp
    have hsent : t = (w.push (w.noticeOf .global)).setPending .global true := by
      rw [hthr, State.throttle, if_pos (by simp [hnone, he])]
    have hte : t.enabledFlag .global = true := by rw [hsent]; exact he
    rw [hte, if_pos ⟨hp, rfl⟩, hsent, ← hw]
    exact ⟨by simp [State.setPending], rfl, rfl⟩
  · have hquiet : t = w := by
      rw [hthr, State.throttle, if_neg]
      simpa [← hw, State.noticePending] using hfire
    have hpend : (s.mon.pending || w.enabledFlag .global) = s.mon.pending := by
      revert hfire
      cases s.mon.pending <;> simp
    rw [hquiet, if_neg hfire, hpend, ← hw]
    exact ⟨rfl, by simp, rfl⟩

/-- POOL_LOW evaluated with a frame placed behind it: the condition as `poolLowAfter` says, a change reported ahead of the frame,
and nothing else changed. -/
theorem evalPoolLow_push {u t : State} {o : OutFrame} (ht : t = u.evalPoolLow.push o) :
    t.ks = { u.ks with poolLow := poolLowAfter u.ks.poolLow u.cfg.poolLowThreshold u.ks.free.length } ∧
      t.mon = (if t.ks.poolLow = u.ks.poolLow then u.mon else { u.mon with
        flags := { u.mon.flags with poolLow := true }, pending := u.mon.pending || t.enabledFlag .global }) ∧
      t.link = { u.link with outq := u.link.outq
        ++ (if t.ks.poolLow ≠ u.ks.poolLow ∧ u.mon.pending = false ∧ t.enabledFlag .global = true
            then [t.noticeOf .global] else []) ++ [o] } ∧
      t = { u with ks := t.ks, mon := t.mon, link := t.link } := by
  generalize hv : poolLowAfter u.ks.poolLow u.cfg.poolLowThreshold u.ks.free.length = v
  have heval := evalPoolLow_eq u
  rw [hv] at heval
  by_cases hsame : v = u.ks.poolLow
  · have hstay : t = u.push o := by rw [ht, heval, if_pos hsame]
    rw [hstay, hsame]
    simp [State.push]
  · rw [if_neg hsame] at heval
    obtain ⟨hmon, hlink, hall⟩ := latchGlobal_eq heval
    have hks : t.ks = { u.ks with poolLow := v } := by rw [ht, push_ks, heval, latchGlobal_ks]
    have hlow : t.ks.poolLow ≠ u.ks.poolLow := by rw [hks]; exact hsame
    have hen : t.enabledFlag .global = u.evalPoolLow.enabledFlag .global := by rw [ht]; rfl
    have hno : t.noticeOf .global = u.evalPoolLow.noticeOf .global := by rw [ht]; rfl
    refine ⟨hks, ?_, ?_, ?_⟩
    · rw [if_neg hlow, hen, ht, push_mon, hmon]; rfl
    · simp only [ne_eq, hlow, not_false_eq_true, true_and, hen, hno]
      rw [ht, push_link, hlink]
    · rw [hks, ht]
      conv_lhs => rw [State.push, hall]
      rfl

/-! ### Liftoff completion -/

/-- While the sites and Touchdown Control stand as they did, no lift completes. -/
theorem State.LiftInv.finishLift_eq {s t : State} (h : s.LiftInv) (htd : t.td = s.td) (hsites : t.sites = s.sites) :
    t.finishLift = t := by
  unfold State.finishLift
  rw [if_neg]
  intro hdone
  obtain ⟨hlift, hidle⟩ := Bool.and_eq_true_iff.mp hdone
  have hact : t.active = s.active := funext fun i => by simp only [State.active, site_of_sites hsites]
  rw [show t.anyActive = s.anyActive by simp only [State.anyActive, hact],
    h.active (by rw [← htd]; exact hlift)] at hidle
  cases hidle

/-- A frame placed stays placed when a lift completes. -/
theorem mem_outq_finishLift {s : State} {o : OutFrame} (h : o ∈ s.link.outq) : o ∈ s.finishLift.link.outq := by
  have hsites : (forSites State.liftSite (s.setTd { s.td with state := .clear, deferred := none, liftCount := 0 })).link
      = s.link :=
    foldl_keeps (fun u : State => u.link) State.liftSite
      (fun u i => by simp only [State.liftSite, setCond_link]; split <;> rfl) allSites _
  unfold State.finishLift State.completeLift
  split
  · dsimp only
    split
    · rw [push_link, hsites]; exact List.mem_append_left _ h
    · rw [hsites]; exact h
  · exact h

end Sys2Proof.Machine
end

section
/-!
SUPPORT. The identity image (R3 to R6): its bytes as fields, its sum, and the data of its rows.
-/
namespace Sys2Proof.Machine

/-! ### Row data (R6) -/

/-- A number above the low k bits joined to one within them is their sum. -/
theorem or_shiftLeft_eq_add {k x : Nat} (y : Nat) (h : x < 2 ^ k) : x ||| y <<< k = x + 2 ^ k * y := by
  rw [Nat.or_comm, ← Nat.shiftLeft_add_eq_or_of_lt h, Nat.shiftLeft_eq, Nat.mul_comm, Nat.add_comm]

/-- A byte moved up within 24 bits loses nothing. -/
theorem toNat_byte_shiftLeft (b : Byte) {k : Nat} (h : k ≤ 16) : (b.setWidth 24 <<< k).toNat = b.toNat <<< k := by
  have hb : b.toNat < 2 ^ 8 := b.isLt
  have hk : 2 ^ k ≤ 2 ^ 16 := Nat.pow_le_pow_right (by decide) h
  have hlt : b.toNat <<< k < 2 ^ 24 := by
    rw [Nat.shiftLeft_eq]
    exact (Nat.mul_lt_mul_of_lt_of_le hb hk (by decide)).trans_eq (by decide)
  rw [BitVec.toNat_shiftLeft, BitVec.toNat_setWidth, Nat.mod_eq_of_lt (by omega : b.toNat < 2 ^ 24), Nat.mod_eq_of_lt hlt]

theorem toNat_rowData (b0 b1 b2 : Byte) :
    (rowData b0 b1 b2).toNat = b0.toNat + 256 * b1.toNat + 65536 * b2.toNat := by
  have h0 : b0.toNat < 2 ^ 8 := b0.isLt
  have h1 : b1.toNat < 2 ^ 8 := b1.isLt
  rw [rowData, BitVec.toNat_or, BitVec.toNat_or, toNat_byte_shiftLeft b1 (by decide), toNat_byte_shiftLeft b2 (by decide),
    BitVec.toNat_setWidth, Nat.mod_eq_of_lt (by omega : b0.toNat < 2 ^ 24), or_shiftLeft_eq_add _ h0,
    or_shiftLeft_eq_add _ (by omega)]
  omega

/-! ### The image sum (R4) -/

theorem toNat_foldl_add (l : List Byte) (a : BitVec 16) :
    (l.foldl (fun acc b => acc + b.setWidth 16) a).toNat = (a.toNat + (l.map BitVec.toNat).sum) % 65536 := by
  induction l generalizing a with
  | nil => exact (Nat.mod_eq_of_lt a.isLt).symm
  | cons b l ih =>
    have hb : b.toNat < 2 ^ 8 := b.isLt
    rw [List.foldl_cons, ih, BitVec.toNat_add, BitVec.toNat_setWidth, Nat.mod_eq_of_lt (show b.toNat < 2 ^ 16 by omega),
      List.map_cons, List.sum_cons]
    omega

theorem toNat_imageSum (body : List Byte) : (imageSum body).toNat = (body.map BitVec.toNat).sum % 65536 := by
  rw [imageSum, toNat_foldl_add]; simp

/-! ### The image bytes (R3) -/

section Layout

variable {key : Key} (p : Posting) (unit : BitVec 32)

/-- The image bytes as one row of fields. -/
theorem imageBytes_fields : imageBytes key p unit =
    key.bytes ++ (bytesLE 4 key.index.toNat ++ (bytesLE 3 p.lot.toNat ++ (p.wafer :: p.x :: p.y ::
      (bytesLE 4 unit.toNat ++ bytesLE 2 (imageSum (imageBody key p unit)).toNat)))) := by
  simp [imageBytes, imageBody]

theorem buildImage_word (key : Key) (r : Fin 16) :
    (buildImage key p unit).words[r.val]? = some (rowWord (imageRow (imageBytes key p unit) r.val)) := by
  simp [buildImage, r.isLt]

variable (h : key.bytes.length = 32)
include h

theorem length_imageBody : (imageBody key p unit).length = 46 := by simp [imageBody, h]

theorem length_imageBytes : (imageBytes key p unit).length = 48 := by simp [imageBytes, length_imageBody p unit h]

theorem take_imageBytes : (imageBytes key p unit).take 46 = imageBody key p unit :=
  List.take_left' (length_imageBody p unit h)

/-- The numbers of the image: the key's index, the lot code and the engine unit number. -/
theorem numAt_imageBytes :
    numAt (imageBytes key p unit) 32 4 = key.index.toNat ∧ numAt (imageBytes key p unit) 36 3 = p.lot.toNat ∧
      numAt (imageBytes key p unit) 42 4 = unit.toNat := by
  rw [imageBytes_fields]
  refine ⟨?_, ?_, ?_⟩
  · simp only [numAt_append_of_le, h, le_refl, Nat.sub_self]
    exact numAt_bytesLE _ key.index.isLt
  · simp only [numAt_append_of_le, h, length_bytesLE, Nat.reduceLeDiff, Nat.reduceSub]
    exact numAt_bytesLE _ p.lot.isLt
  · simp only [numAt_append_of_le, numAt_cons, h, length_bytesLE, Nat.reduceLeDiff, Nat.reduceSub]
    exact numAt_bytesLE _ unit.isLt

/-- The single bytes of the image: wafer, X and Y. -/
theorem byteAt_imageBytes :
    byteAt (imageBytes key p unit) 39 = p.wafer ∧ byteAt (imageBytes key p unit) 40 = p.x ∧
      byteAt (imageBytes key p unit) 41 = p.y := by
  rw [imageBytes_fields]
  simp only [byteAt_append_of_le, h, length_bytesLE, Nat.reduceLeDiff, Nat.reduceSub]
  exact ⟨rfl, rfl, rfl⟩

/-- The image ends with the sum of the bytes before it. -/
theorem numAt_imageBytes_sum : numAt (imageBytes key p unit) 46 2 =
    (((imageBytes key p unit).take 46).map BitVec.toNat).sum % 65536 := by
  have hb := length_imageBody p unit h
  have hsum : numAt (imageBytes key p unit) 46 2 = (imageSum (imageBody key p unit)).toNat := by
    rw [imageBytes, numAt_append_of_le _ _ _ hb.le, hb, Nat.sub_self, ← List.append_nil (bytesLE 2 _)]
    exact numAt_bytesLE [] (imageSum (imageBody key p unit)).isLt
  rw [hsum, take_imageBytes p unit h, toNat_imageSum]

end Layout

end Sys2Proof.Machine
end

section
/-!
SUPPORT. The Key Store's requests (R22 to R25, R32): the keys of a LOAD KEYS payload, the hand-out to the waiting sites one site
at a time, and where a served site's job goes on (R51, R85).
-/
namespace Sys2Proof.Machine

/-! ### The keys of a payload (R22, R176) -/

/-- A key as it stands in a LOAD KEYS payload: its index, low byte first, and its 32 bytes. -/
def Key.field (k : Key) : List Byte := bytesLE 4 k.index.toNat ++ k.bytes

theorem Key.length_field {k : Key} (h : k.bytes.length = 32) : k.field.length = 36 := by simp [Key.field, h]

theorem length_flatMap_field {keys : List Key} (h : ∀ k ∈ keys, k.bytes.length = 32) :
    (keys.flatMap Key.field).length = 36 * keys.length := by
  induction keys with
  | nil => rfl
  | cons k ks ih =>
    obtain ⟨hk, hks⟩ := List.forall_mem_cons.mp h
    rw [List.flatMap_cons, List.length_append, Key.length_field hk, ih hks, List.length_cons]
    omega

theorem keysOf_flatMap_field {keys : List Key} (h : ∀ k ∈ keys, k.bytes.length = 32) :
    keysOf keys.length (keys.flatMap Key.field) = keys := by
  induction keys with
  | nil => rfl
  | cons k ks ih =>
    obtain ⟨hk, hks⟩ := List.forall_mem_cons.mp h
    rw [List.flatMap_cons, List.length_cons, keysOf]
    congr 1
    · rw [Key.field, List.append_assoc, numAt_bytesLE _ k.index.isLt, BitVec.ofNat_toNat, BitVec.setWidth_eq,
        List.drop_left' (length_bytesLE _ _), List.take_left' hk]
    · rw [List.drop_left' (Key.length_field hk), ih hks]

theorem ascending_of_pairwise {keys : List Key} {lo : BitVec 32} (hp : keys.Pairwise (fun a b => a.index < b.index))
    (hlo : ∀ k ∈ keys, lo < k.index) : ascending lo keys = true := by
  induction keys generalizing lo with
  | nil => rfl
  | cons k ks ih =>
    obtain ⟨hk, hks⟩ := List.pairwise_cons.mp hp
    simp [ascending, hlo k (by simp), ih hks hk]

/-! ### An accepted LOAD KEYS (R22 to R24) -/

/-- The frame in front is a LOAD KEYS that is accepted (R22, R23, R176): 1 to 16 whole keys, their indices ascending from above the
high-water index, and room for them. -/
structure State.TakesKeys (s : State) (f : InFrame) (rest : List InFrame) (keys : List Key) : Prop where
  front : s.Front 0x10 f rest
  nonempty : keys ≠ []
  atMost : keys.length ≤ 16
  whole : ∀ k ∈ keys, k.bytes.length = 32
  payload : f.payload = BitVec.ofNat 8 keys.length :: keys.flatMap Key.field
  ascend : keys.Pairwise (fun a b => a.index < b.index)
  above : ∀ k ∈ keys, s.ks.highWater < k.index
  room : s.ks.free.length + s.ks.boundCount + keys.length ≤ 1024

theorem State.TakesKeys.exec_loadKeys {s : State} {f : InFrame} {rest : List InFrame} {keys : List Key}
    (h : s.TakesKeys f rest keys) : exec .loadKeys s = .next
      (((s.taken rest).acceptKeys keys).reply f .ok ((s.taken rest).acceptKeys keys).keyFields).finishLift := by
  obtain ⟨hfront, hsome, hmost, hwhole, hpay, hasc, habove, hroom⟩ := h
  have hpos : 1 ≤ keys.length := List.length_pos_of_ne_nil hsome
  have hcount : (byteAt f.payload 0).toNat = keys.length := by
    rw [hpay]; simp only [byteAt, List.getD_cons_zero, BitVec.toNat_ofNat]; omega
  have hkeys : keysOf keys.length (f.payload.drop 1) = keys := by rw [hpay]; exact keysOf_flatMap_field hwhole
  have hlen : loadKeysLength f.payload = true := by
    have : f.payload.length = 1 + 36 * keys.length := by
      rw [hpay, List.length_cons, length_flatMap_field hwhole]; omega
    simp [loadKeysLength, hcount, hpos, hmost, this]
  have hup : ascending (s.taken rest).ks.highWater keys = true := ascending_of_pairwise hasc habove
  have hfit : ¬ Config.keySlots < (s.taken rest).ks.free.length + (s.taken rest).ks.boundCount + keys.length :=
    Nat.not_lt.mpr hroom
  refine (takeRequest_front hfront hlen _).trans ?_
  simp only [State.doLoadKeys, hcount, hkeys, hup, if_neg hfit, Bool.not_true, Bool.false_eq_true, if_false]

/-- The machine with keys joined to the free queue and the high-water index raised to the last of them (R24). -/
def State.joined (s : State) (keys : List Key) (last : Key) : State :=
  s.setKs { s.ks with free := s.ks.free ++ keys, highWater := last.index }

theorem acceptKeys_eq (s : State) {keys : List Key} {last : Key} (h : keys.getLast? = some last) :
    s.acceptKeys keys = (State.handOut s.ks.waitList (s.joined keys last)).evalPoolLow := by
  simp only [State.acceptKeys, State.joined, h, Option.map_some, Option.getD_some, setKs_ks]

/-- The fields of a LOAD KEYS reply do not tell POOL_LOW. -/
theorem keyFields_evalPoolLow (s : State) : s.evalPoolLow.keyFields = s.keyFields := by
  simp [State.keyFields, KeyStore.boundCount]

/-! ### A move and the other sites -/

theorem doMove_site_ne (s : State) {i k : SiteNo} (m : Move) (h : k ≠ i) : (s.doMove i m).site k = s.site k := by
  unfold State.doMove
  cases m.2 with
  | send c r => exact (site_startExchange_ne _ c r h).trans (site_setJob_ne _ _ h)
  | finish o => exact (endJob_site_ne _ o h).trans (site_setJob_ne _ _ h)
  | wait | request | bind => exact site_setJob_ne _ _ h

theorem doMove_bound_ne (s : State) {i k : SiteNo} (m : Move) (h : k ≠ i) :
    (s.doMove i m).ks.bound[k] = s.ks.bound[k] := by
  unfold State.doMove
  cases m.2 with
  | finish o =>
    have hv : i.val ≠ k.val := fun e => h (Fin.ext e.symm)
    have hks : ((s.setJob i (some m.1)).endJob i o).ks = s.ks.endJob i := endJob_ks _ o (by simp)
    simp only [State.doAct, hks]
    exact Vector.getElem_set_ne i.isLt k.isLt hv
  | wait | send | request | bind => rfl

/-! ### One site served (R25) -/

/-- The front key handed to a waiting site, which leaves the wait list and goes on. -/
def State.serve (s : State) (i : SiteNo) (key : Key) (rest : List Key) : State :=
  (s.setKs { s.ks.bindFront i key rest with waitList := s.ks.waitList.filter (· ≠ i) }).giveKey i key

theorem handOut_cons {s : State} {key : Key} {rest : List Key} (i : SiteNo) (l : List SiteNo) (h : s.ks.free = key :: rest) :
    State.handOut (i :: l) s = State.handOut l (s.serve i key rest) := by
  rw [State.handOut, h]
  rfl

theorem handOut_noKey {s : State} (l : List SiteNo) (h : s.ks.free = []) : State.handOut l s = s := by
  cases l with
  | nil => rfl
  | cons i l => rw [State.handOut, h]

section Serve

variable (s : State) (i : SiteNo) (key : Key) (rest : List Key)

@[simp] theorem serve_cfg : (s.serve i key rest).cfg = s.cfg := by simp [State.serve]
@[simp] theorem serve_unitNumber : (s.serve i key rest).unitNumber = s.unitNumber := by simp [State.serve]
@[simp] theorem serve_free : (s.serve i key rest).ks.free = rest := by simp [State.serve, KeyStore.bindFront]
@[simp] theorem serve_highWater : (s.serve i key rest).ks.highWater = s.ks.highWater := by
  simp [State.serve, KeyStore.bindFront]
@[simp] theorem serve_poolLow : (s.serve i key rest).ks.poolLow = s.ks.poolLow := by simp [State.serve, KeyStore.bindFront]

@[simp] theorem serve_waitList : (s.serve i key rest).ks.waitList = s.ks.waitList.filter (· ≠ i) := by
  unfold State.serve State.giveKey
  split
  · rfl
  · exact doMove_waitList _ _ _ (by simp)

variable {s i key rest}

theorem serve_site_ne {k : SiteNo} (h : k ≠ i) : (s.serve i key rest).site k = s.site k := by
  unfold State.serve State.giveKey
  split
  · rfl
  · exact doMove_site_ne _ _ h

theorem serve_bound_ne {k : SiteNo} (h : k ≠ i) : (s.serve i key rest).ks.bound[k] = s.ks.bound[k] := by
  have hv : i.val ≠ k.val := fun e => h (Fin.ext e.symm)
  have hbind : (s.ks.bound.set i.val (some key) i.isLt)[k] = s.ks.bound[k] := Vector.getElem_set_ne i.isLt k.isLt hv
  unfold State.serve State.giveKey
  split
  · exact hbind
  · exact (doMove_bound_ne _ _ h).trans hbind

/-- A served site whose job goes on with a command. -/
theorem serve_sends {j j' : Job} {c : DieCmd} (hj : (s.site i).job = some j)
    (hgo : j.onKey s.unitNumber key = (j', .send c true)) :
    (s.serve i key rest).ks.bound[i] = some key ∧
      (s.serve i key rest).site i =
        { s.site i with job := some j', port := { (s.site i).port with exch := some (Exchange.fresh s.cfg c true) } } := by
  have hserve : s.serve i key rest = (s.setKs { s.ks.bindFront i key rest with
      waitList := s.ks.waitList.filter (· ≠ i) }).siteWith i j' (some (Exchange.fresh s.cfg c true)) := by
    unfold State.serve State.giveKey
    rw [site_setKs, hj]
    exact (congrArg _ hgo).trans (doMove_send _ i j' c true)
  rw [hserve, siteWith_site]
  exact ⟨Vector.getElem_set_self i.isLt, rfl⟩

end Serve

/-! ### The hand-out -/

@[simp] theorem handOut_cfg (l : List SiteNo) (s : State) : (State.handOut l s).cfg = s.cfg := by
  induction l generalizing s with
  | nil => rfl
  | cons i l ih =>
    cases hfree : s.ks.free with
    | nil => rw [handOut_noKey _ hfree]
    | cons key rest => rw [handOut_cons i l hfree, ih, serve_cfg]

/-- The high-water index and POOL_LOW stand through a hand-out, and one key goes to each site while keys last. -/
theorem handOut_ks (l : List SiteNo) (s : State) :
    (State.handOut l s).ks.highWater = s.ks.highWater ∧ (State.handOut l s).ks.poolLow = s.ks.poolLow ∧
      (State.handOut l s).ks.free = s.ks.free.drop l.length := by
  induction l generalizing s with
  | nil => exact ⟨rfl, rfl, rfl⟩
  | cons i l ih =>
    cases hfree : s.ks.free with
    | nil => rw [handOut_noKey _ hfree, hfree]; exact ⟨rfl, rfl, rfl⟩
    | cons key rest =>
      obtain ⟨hhigh, hlow, hleft⟩ := ih (s.serve i key rest)
      rw [handOut_cons i l hfree, hhigh, hlow, hleft]
      simp

theorem handOut_waitList {l : List SiteNo} {s : State} (h : s.ks.waitList = l) (hl : l.Nodup) :
    (State.handOut l s).ks.waitList = l.drop s.ks.free.length := by
  induction l generalizing s with
  | nil => exact h.trans List.drop_nil.symm
  | cons i l ih =>
    cases hfree : s.ks.free with
    | nil => rw [handOut_noKey _ hfree, h]; rfl
    | cons key rest =>
      obtain ⟨hi, hl'⟩ := List.nodup_cons.mp hl
      have hwait : (s.serve i key rest).ks.waitList = l := by
        rw [serve_waitList, h, List.filter_cons_of_neg (by simp)]
        exact List.filter_eq_self.mpr fun k hk => by simpa using fun e : k = i => hi (e ▸ hk)
      rw [handOut_cons i l hfree, ih hwait hl', serve_free]
      rfl

/-- A hand-out leaves a site that it does not reach alone. -/
theorem handOut_other {l : List SiteNo} (s : State) {k : SiteNo} (h : k ∉ l) :
    (State.handOut l s).site k = s.site k ∧ (State.handOut l s).ks.bound[k] = s.ks.bound[k] := by
  induction l generalizing s with
  | nil => exact ⟨rfl, rfl⟩
  | cons i l ih =>
    have hki : k ≠ i := List.ne_of_not_mem_cons h
    have hkl : k ∉ l := List.not_mem_of_not_mem_cons h
    cases hfree : s.ks.free with
    | nil => rw [handOut_noKey _ hfree]; exact ⟨rfl, rfl⟩
    | cons key rest =>
      obtain ⟨hsite, hbound⟩ := ih (s.serve i key rest) hkl
      rw [handOut_cons i l hfree, hsite, hbound]
      exact ⟨serve_site_ne hki, serve_bound_ne hki⟩

/-- The m-th waiter gets the m-th key, and goes on with the command that its job sends. -/
theorem handOut_served {l : List SiteNo} {s : State} {m : Nat} {i : SiteNo} {key : Key} {j j' : Job} {c : DieCmd}
    (hl : l.Nodup) (hi : l[m]? = some i) (hkey : s.ks.free[m]? = some key) (hj : (s.site i).job = some j)
    (hgo : j.onKey s.unitNumber key = (j', .send c true)) :
    (State.handOut l s).ks.bound[i] = some key ∧
      (State.handOut l s).site i =
        { s.site i with job := some j', port := { (s.site i).port with exch := some (Exchange.fresh s.cfg c true) } } := by
  induction l generalizing s m with
  | nil => cases hi
  | cons a l ih =>
    obtain ⟨ha, hl'⟩ := List.nodup_cons.mp hl
    cases hfree : s.ks.free with
    | nil => rw [hfree] at hkey; cases hkey
    | cons front rest =>
      rw [hfree] at hkey
      rw [handOut_cons a l hfree]
      cases m with
      | zero =>
        obtain rfl : a = i := Option.some.inj hi
        obtain rfl : front = key := Option.some.inj hkey
        obtain ⟨hsite, hbound⟩ := handOut_other (s.serve a front rest) ha
        rw [hsite, hbound]
        exact serve_sends hj hgo
      | succ m =>
        have hne : i ≠ a := fun e => ha (e ▸ List.mem_of_getElem? hi)
        have hsite : (s.serve a front rest).site i = s.site i := serve_site_ne hne
        have hstep := ih (s := s.serve a front rest) hl' hi (by rw [serve_free]; exact hkey) (by rw [hsite]; exact hj)
          (by rw [serve_unitNumber]; exact hgo)
        rwa [hsite, serve_cfg] at hstep

/-! ### Where a served job goes on (R51, R85) -/

theorem startAttempt_eq (j : Job) (p : Purpose) (r : RegionRow) (word : Row) :
    j.startAttempt p r word =
      ({ j with engine := RowEngine.started p r word (j.snapRow r) }, .send (firstCommand r word (j.snapRow r)) true) := by
  by_cases h : word &&& ~~~(j.snapRow r) = 0
  · simp only [Job.startAttempt, RowEngine.started, firstCommand, h]
    rfl
  · simp only [Job.startAttempt, RowEngine.started, firstCommand, if_neg h, decide_eq_true h]
    rfl

/-- A job given its key, with at most one conflict cell of image row 0 at region row 0, begins the attempt there. -/
theorem onKey_starts {j : Job} {unit : BitVec 32} {key : Key} {word snap : Row}
    (hword : word = rowWord (imageRow (imageBytes key j.posting unit) 0)) (hsnap : snap = j.snapshot.getD 0 0)
    (hfew : cellCount (snap &&& ~~~word) ≤ 1) :
    j.onKey unit key = ({ j with
      phase := .program, step := 0, image := some (buildImage key j.posting unit)
      engine := RowEngine.started (.own 0) 0 word snap }, .send (firstCommand 0 word snap) true) := by
  generalize hj1 : ({ j with phase := .program, step := 0, image := some (buildImage key j.posting unit) } : Job) = j1
  have himage : j1.imageWord 0 = word := by rw [← hj1, hword]; rfl
  have hrow : j1.snapRow 0 = snap := by rw [← hj1, hsnap]; rfl
  have hstart : j.onKey unit key = j1.startAttempt (.own 0) 0 word := by
    rw [Job.onKey, hj1, Job.startImageRow, himage, if_neg]
    · rfl
    · simp only [Job.conflictsAt, show ownRow 0 = 0 from rfl, hrow]; omega
  rw [hstart, startAttempt_eq, hrow, ← hj1]

/-- The first exchange of an attempt runs under DIE_RESPONSE_TIMEOUT alone (R68). -/
theorem deadlineOf_firstCommand (cfg : Params) (r : RegionRow) (word snap : Row) :
    deadlineOf cfg (firstCommand r word snap) = cfg.dieResponseTimeout := by
  unfold firstCommand
  split <;> rfl

/-! ### The statements -/

/-- Settles O27: DISCARD KEYS is POOL_LOW evaluated on the emptied queue, with the reply behind it. -/
theorem discardKeysEmptiesTheFreeQueue : Obligations.DiscardKeysEmptiesTheFreeQueue := by
  unfold Obligations.DiscardKeysEmptiesTheFreeQueue
  intro s f rest hfront hpay
  have hexec := takeRequest_front hfront (ok := lengthIs 0) (by rw [hpay]; rfl) State.doDiscardKeys
  obtain ⟨hks, hmon, hlink, hall⟩ := evalPoolLow_push
    (u := (s.taken rest).setKs { s.ks with free := [] }) (t := (s.taken rest).doDiscardKeys f) rfl
  have hlow : poolLowAfter s.ks.poolLow s.cfg.poolLowThreshold 0 = (s.ks.poolLow || decide (0 < s.cfg.poolLowThreshold)) := by
    cases h : s.ks.poolLow <;> simp [poolLowAfter]
  refine ⟨_, hexec, hks.trans ?_, hmon, hlink, hall⟩
  exact congrArg (fun v => ({ s.ks with free := [], poolLow := v } : KeyStore)) hlow

/-- Settles O25: with nobody waiting the hand-out does nothing, and LOAD KEYS is POOL_LOW evaluated on the joined queue, with the
reply behind it. No lift completes, since no job ends. -/
theorem loadKeysAppendsToTheFreeQueue : Obligations.LoadKeysAppendsToTheFreeQueue := by
  unfold Obligations.LoadKeysAppendsToTheFreeQueue
  intro s f rest keys last hfront hlift hmost hwhole hlast hpay hasc habove hroom hwait
  have hsome : keys ≠ [] := by rintro rfl; cases hlast
  have hexec := State.TakesKeys.exec_loadKeys ⟨hfront, hsome, hmost, hwhole, hpay, hasc, habove, hroom⟩
  generalize hu : (s.taken rest).joined keys last = u at *
  have hacc : (s.taken rest).acceptKeys keys = u.evalPoolLow := by
    rw [acceptKeys_eq _ hlast, hu, show (s.taken rest).ks.waitList = [] from hwait, State.handOut]
  rw [hacc, hlift.finishLift_eq (by simp [← hu, State.joined, State.taken])
    (by simp [← hu, State.joined, State.taken])] at hexec
  generalize ht : u.evalPoolLow.reply f .ok u.evalPoolLow.keyFields = t at hexec
  obtain ⟨hks, hmon, hlink, hall⟩ := evalPoolLow_push ht.symm
  have hfields : u.evalPoolLow.keyFields =
      bytesLE 2 t.ks.free.length ++ [BitVec.ofNat 8 s.ks.boundCount] ++ bytesLE 4 last.index.toNat := by
    rw [keyFields_evalPoolLow, hks, ← hu]; rfl
  refine ⟨t, hexec, hks.trans ?_, ?_, ?_, ?_⟩
  · simp only [← hu, State.joined, setKs_ks, setKs_cfg, poolLowAfter, List.length_append]; rfl
  · rw [hmon, ← hu]; rfl
  · rw [hlink, hfields, ← hu]; rfl
  · rw [← hu] at hall; exact hall

/-- R25, R52, R85: in a hand-out of keys joined to an empty queue, a served site with at most one conflict cell of image row 0
holds its key and begins the attempt. -/
theorem handOut_joined_starts {s : State} {keys : List Key} {last key : Key} {m : Nat} {i : SiteNo} {j : Job} {word : Row}
    (honce : s.ks.waitList.Nodup) (hfree : s.ks.free = []) (hi : s.ks.waitList[m]? = some i) (hkey : keys[m]? = some key)
    (hj : (s.site i).job = some j) (hword : word = rowWord (imageRow (imageBytes key j.posting s.unitNumber) 0))
    (hfew : cellCount (j.snapshot.getD 0 0 &&& ~~~word) ≤ 1) :
    (State.handOut s.ks.waitList (s.joined keys last)).ks.bound[i] = some key ∧
      (State.handOut s.ks.waitList (s.joined keys last)).site i = { s.site i with
        job := some { j with
          phase := .program, step := 0, image := some (buildImage key j.posting s.unitNumber)
          engine := RowEngine.started (.own 0) 0 word (j.snapshot.getD 0 0) }
        port := { (s.site i).port with
          exch := some (Exchange.fresh s.cfg (firstCommand 0 word (j.snapshot.getD 0 0)) true) } } :=
  handOut_served (s := s.joined keys last) honce hi (by simpa [State.joined, hfree] using hkey) hj (onKey_starts hword rfl hfew)

/-- The Key Store after a hand-out of keys joined to an empty queue: keys left over are free, sites left over wait. -/
theorem handOut_joined_ks {s : State} (keys : List Key) (last : Key) (honce : s.ks.waitList.Nodup) (hfree : s.ks.free = []) :
    (State.handOut s.ks.waitList (s.joined keys last)).ks.waitList = s.ks.waitList.drop keys.length ∧
      (State.handOut s.ks.waitList (s.joined keys last)).ks.free = keys.drop s.ks.waitList.length ∧
      (State.handOut s.ks.waitList (s.joined keys last)).ks.highWater = last.index ∧
      (State.handOut s.ks.waitList (s.joined keys last)).ks.poolLow = s.ks.poolLow := by
  have hkeys : (s.joined keys last).ks.free = keys := by simp [State.joined, hfree]
  obtain ⟨hhigh, hlow, hleft⟩ := handOut_ks s.ks.waitList (s.joined keys last)
  have hqueue := handOut_waitList (s := s.joined keys last) rfl honce
  rw [hkeys] at hleft hqueue
  exact ⟨hqueue, hleft, hhigh, hlow⟩

/-- Settles O26: the image by its fields; the hand-out by its steps, each of which touches one site only; POOL_LOW and the reply
after it, and a lift that completes changes neither the Key Store nor a job. -/
theorem loadKeysServesWaitingSites : Obligations.LoadKeysServesWaitingSites := by
  unfold Obligations.LoadKeysServesWaitingSites
  refine ⟨fun key p unit bytes hk hb => ?_, ?_⟩
  · subst hb
    obtain ⟨hindex, hlot, hunit⟩ := numAt_imageBytes p unit hk
    obtain ⟨hwafer, hx, hy⟩ := byteAt_imageBytes p unit hk
    have hkey : (imageBytes key p unit).take 32 = key.bytes := by rw [imageBytes_fields]; exact List.take_left' hk
    exact ⟨length_imageBytes p unit hk, hkey, hindex, hlot, hwafer, hx, hy, hunit, numAt_imageBytes_sum p unit hk, rfl,
      fun r => ⟨toNat_rowData _ _ _, buildImage_word p unit key r⟩⟩
  intro s f rest keys hfront hinv hsome hmost hwhole hpay hasc habove hroom hwait
  have hfree : s.ks.free = [] := hinv.waitEmpty hwait
  have hexec := State.TakesKeys.exec_loadKeys ⟨hfront, hsome, hmost, hwhole, hpay, hasc, habove, hroom⟩
  obtain ⟨last, hlast⟩ : ∃ last, keys.getLast? = some last := ⟨_, List.getLast?_eq_some_getLast hsome⟩
  obtain ⟨hqueue, hleft, hhigh, hlow⟩ := handOut_joined_ks (s := s.taken rest) keys last hinv.once hfree
  have hcfg := handOut_cfg (s.taken rest).ks.waitList ((s.taken rest).joined keys last)
  rw [acceptKeys_eq _ hlast] at hexec
  generalize hv : State.handOut (s.taken rest).ks.waitList ((s.taken rest).joined keys last) = v at *
  generalize ht : v.evalPoolLow.reply f .ok v.evalPoolLow.keyFields = t at hexec
  obtain ⟨hks, hmon, hlink, -⟩ := evalPoolLow_push ht.symm
  have hcount : v.ks.free.length = keys.length - s.ks.waitList.length := by rw [hleft]; exact List.length_drop
  have hfields : v.evalPoolLow.keyFields = bytesLE 2 (keys.length - s.ks.waitList.length)
      ++ [BitVec.ofNat 8 t.ks.boundCount] ++ bytesLE 4 t.ks.highWater.toNat := by
    rw [keyFields_evalPoolLow, hks, ← hcount]; rfl
  refine ⟨t.finishLift, hexec, ?_⟩
  rw [finishLift_ks, ← hfields]
  refine ⟨?_, ?_, ?_, ?_, fun hne => ?_, mem_outq_finishLift ?_, fun m i key j word hi hkey hj hword hfew => ?_⟩
  · rw [hks]; exact hqueue
  · rw [hks]; exact hleft
  · rw [hks, hlast]; exact congrArg some hhigh.symm
  · rw [hks, hlow, hcfg, hcount]; rfl
  · obtain ⟨-, -, -, -, -, -, hflags⟩ := finishLift_keeps t 0
    rw [hflags, hmon, if_neg (by rw [hlow]; exact hne)]
  · rw [hlink]; exact List.mem_append_right _ (List.mem_singleton_self _)
  · obtain ⟨hbound, hsite⟩ := handOut_joined_starts (s := s.taken rest) (last := last) hinv.once hfree hi hkey hj hword hfew
    rw [hv] at hbound hsite
    have hti : t.site i = v.site i := by rw [← ht, site_reply, site_evalPoolLow]
    obtain ⟨hjob, hport, -⟩ := finishLift_keeps t i
    refine ⟨by rw [hks]; exact hbound, ?_, ?_⟩
    · rw [hjob, hti, hsite]; rfl
    · rw [hport, hti, hsite, Exchange.fresh, deadlineOf_firstCommand]; rfl

end Sys2Proof.Machine
end

section
/-!
SUPPORT. Who a job is: its posting and touchdown number (R46, R48), which no move of a job changes.
-/
namespace Sys2Proof.Machine

/-- What tells a job from another at the same site: its posting and its touchdown number (R46, R48). -/
def Job.ident (j : Job) : Posting × BitVec 32 := (j.posting, j.touchdown)

/-! ### Row attempts (R85 to R105) -/

@[simp] theorem ident_failAt (j : Job) (r : RegionRow) : (j.failAt r).ident = j.ident := rfl
@[simp] theorem ident_setEntry (j : Job) (e : Fin 3) (v : BitVec 5) : (j.setEntry e v).ident = j.ident := rfl
@[simp] theorem ident_noteResult (j : Job) (r : RowResult) : (j.noteResult r).ident = j.ident := by cases r <;> rfl

@[simp] theorem ident_startAttempt (j : Job) (p : Purpose) (r : RegionRow) (w : Row) :
    (j.startAttempt p r w).1.ident = j.ident := by rw [startAttempt_eq]; rfl

@[simp] theorem ident_trySpares (k : Fin 16) (w : Row) (l : List (Fin 3)) (j : Job) :
    (Job.trySpares k w l j).1.ident = j.ident := by
  induction l generalizing j with
  | nil => rfl
  | cons e l ih => unfold Job.trySpares; (repeat' split) <;> simp [ih]

@[simp] theorem ident_startImageRow (j : Job) (k : Fin 16) : (j.startImageRow k).1.ident = j.ident := by
  simp only [Job.startImageRow]; split <;> simp

@[simp] theorem ident_startLock (j : Job) : j.startLock.1.ident = j.ident := by
  simp only [Job.startLock]
  split
  · rfl
  · exact ident_startAttempt _ _ _ _

@[simp] theorem ident_placed (j : Job) (k : Fin 16) : (j.placed k).1.ident = j.ident := by
  unfold Job.placed; split <;> simp

@[simp] theorem ident_attemptDone (j : Job) (r : RowResult) : (j.attemptDone r).1.ident = j.ident := by
  simp only [Job.attemptDone]
  split
  case h_6 => exact ident_noteResult j _
  all_goals simp

@[simp] theorem ident_goVerify (j : Job) : j.goVerify.1.ident = j.ident := by unfold Job.goVerify; split <;> rfl

@[simp] theorem ident_reopen (j : Job) : j.reopen.1.ident = j.ident := by
  unfold Job.reopen
  split
  · exact ident_goVerify _
  · split <;> rfl

@[simp] theorem ident_guardChunk (cfg : Params) (j : Job) : (Job.guardChunk cfg j).1.ident = j.ident := by
  unfold Job.guardChunk
  split
  · exact ident_reopen j
  · (repeat' split) <;> rfl

@[simp] theorem ident_onSettle (cfg : Params) (j : Job) : (Job.onSettle cfg j).1.ident = j.ident := by
  simp only [Job.onSettle]
  split
  · split <;> exact ident_guardChunk cfg _
  · rfl

@[simp] theorem ident_pulseEnded (cfg : Params) (j : Job) : (Job.pulseEnded cfg j).1.ident = j.ident := by
  unfold Job.pulseEnded
  split
  · split <;> rfl
  · exact ident_guardChunk cfg j

@[simp] theorem ident_highSensed (cfg : Params) (j : Job) (read : Row) : (Job.highSensed cfg j read).1.ident = j.ident := by
  simp only [Job.highSensed]
  split
  · exact ident_goVerify j
  · split
    · exact ident_goVerify j
    · exact ident_guardChunk cfg _

@[simp] theorem ident_rowClosed (j : Job) : j.rowClosed.1.ident = j.ident := by
  simp only [Job.rowClosed]
  split
  · exact ident_reopen _
  · rfl
  · exact ident_goVerify j

@[simp] theorem ident_attemptExchange (cfg : Params) (j : Job) (data : BitVec 32) :
    (Job.attemptExchange cfg j data).1.ident = j.ident := by
  unfold Job.attemptExchange
  split
  · rfl
  · exact ident_pulseEnded cfg j
  · exact ident_highSensed cfg j data
  · exact ident_rowClosed j
  · exact ident_attemptDone j _
  all_goals rfl

/-! ### Phases, orderly aborts and timers (R49 to R60, R94 to R96) -/

@[simp] theorem ident_bringupDone (cfg : Params) (j : Job) : (j.bringupDone cfg).1.ident = j.ident := by
  unfold Job.bringupDone; split <;> rfl

@[simp] theorem ident_blankRowRead (j : Job) (cells : Row) : (j.blankRowRead cells).1.ident = j.ident := by
  simp only [Job.blankRowRead]; (repeat' split) <;> rfl

@[simp] theorem ident_shadowDone (j : Job) (data : BitVec 32) : (j.shadowDone data).1.ident = j.ident := by
  unfold Job.shadowDone; (repeat' split) <;> rfl

@[simp] theorem ident_endingNext (j : Job) : j.endingNext.1.ident = j.ident := by unfold Job.endingNext; split <;> rfl

@[simp] theorem ident_onExchange (cfg : Params) (cmd : DieCmd) (j : Job) (e : Ending) :
    (Job.onExchange cfg cmd j e).1.ident = j.ident := by
  unfold Job.onExchange
  split
  · exact ident_endingNext j
  · cases e with
    | done data => unfold Job.exchangeDone; cases j.phase <;> simp
    | refused => rfl
    | lost => dsimp only; split <;> simp

@[simp] theorem ident_onKey (n : BitVec 32) (j : Job) (key : Key) : (j.onKey n key).1.ident = j.ident :=
  ident_startImageRow _ 0

@[simp] theorem ident_onAbort (j : Job) (p : PendingEnd) (x : Bool) : (j.onAbort p x).1.ident = j.ident := by
  simp only [Job.onAbort]
  split
  · rfl
  · exact ident_endingNext _

@[simp] theorem ident_onRest (j : Job) : j.onRest.1.ident = j.ident := by unfold Job.onRest; split <;> rfl

theorem ident_onOpenExpiry {j : Job} {m : Move} (h : j.onOpenExpiry = some m) : m.1.ident = j.ident := by
  unfold Job.onOpenExpiry at h
  split at h <;> cases h <;> rfl

end Sys2Proof.Machine
end

section
/-!
SUPPORT. The account of job ends (R55, R62, R139): from one state to a later one a record at the tail for each job that ended,
and every other job still the one it was. First what leaves both as they were, then the operations that end jobs, then the
commands.
-/
namespace Sys2Proof.Machine

/-- Which job is active at a site, if any. -/
def State.identAt (s : State) (i : SiteNo) : Option (Posting × BitVec 32) := (s.site i).job.map Job.ident

theorem identAt_of_job {s : State} {i : SiteNo} {j : Job} (h : (s.site i).job = some j) : s.identAt i = some j.ident := by
  simp [State.identAt, h]

theorem active_eq_identAt (s : State) (i : SiteNo) : s.active i = (s.identAt i).isSome := by
  simp [State.active, State.identAt]

/-! ### The same records and the same jobs -/

/-- The records stand, and each site has the job it had. -/
structure State.SameJobs (s t : State) : Prop where
  records : t.log.records = s.log.records
  ident : ∀ i, t.identAt i = s.identAt i

namespace State.SameJobs

variable {s t u : State}

theorem refl (s : State) : s.SameJobs s := ⟨rfl, fun _ => rfl⟩

theorem trans (h : s.SameJobs t) (g : t.SameJobs u) : s.SameJobs u :=
  ⟨g.records.trans h.records, fun i => (g.ident i).trans (h.ident i)⟩

theorem of_sites (hs : ∀ i, t.site i = s.site i) (hr : t.log.records = s.log.records) : s.SameJobs t :=
  ⟨hr, fun i => by simp only [State.identAt, hs i]⟩

theorem setSite (s : State) (i : SiteNo) (c : SiteCtl) (h : c.job.map Job.ident = s.identAt i) :
    s.SameJobs (s.setSite i c) := by
  refine ⟨rfl, fun k => ?_⟩
  by_cases e : k = i
  · subst e; simpa [State.identAt] using h
  · simp only [State.identAt, site_setSite_ne _ _ e]

theorem setJob {i : SiteNo} {j j' : Job} (hj : (s.site i).job = some j) (h : j'.ident = j.ident) :
    s.SameJobs (s.setJob i (some j')) := setSite s i _ (by simp [identAt_of_job hj, h])

theorem setPort (s : State) (i : SiteNo) (p : Port) : s.SameJobs (s.setPort i p) := setSite s i _ rfl

theorem foldl {α : Type} {f : State → α → State} (h : ∀ (s : State) (a : α), s.SameJobs (f s a)) (l : List α) (s : State) :
    s.SameJobs (l.foldl f s) := foldl_inv (fun t => s.SameJobs t) f (fun t a ht => ht.trans (h t a)) l s (.refl s)

end State.SameJobs

open State (SameJobs)

theorem sameJobs_setArb (s : State) (a : Arbiter) : s.SameJobs (s.setArb a) := .of_sites (s := s) (fun _ => rfl) rfl

theorem sameJobs_setKs (s : State) (k : KeyStore) : s.SameJobs (s.setKs k) := .of_sites (s := s) (fun _ => rfl) rfl

theorem sameJobs_deselect (s : State) (i : SiteNo) : s.SameJobs (s.deselect i) := .of_sites (s := s) (fun _ => rfl) rfl

theorem sameJobs_evalPoolLow (s : State) : s.SameJobs s.evalPoolLow := .of_sites (site_evalPoolLow s) (by simp)

theorem sameJobs_grantOne (s : State) (i : SiteNo) (d : Nat) : s.SameJobs (s.grantOne i d) := by
  refine (sameJobs_setArb s (s.arb.grant i d)).trans ?_
  unfold State.grantOne State.sendPulse
  split
  · next j hj => exact (SameJobs.setJob (j' := j.onGrant.1) hj rfl).trans (.setPort _ _ _)
  · exact .refl _

theorem sameJobs_grantTest (s : State) : s.SameJobs s.grantTest :=
  grantTest_inv (fun t => s.SameJobs t) (fun t i d h _ _ => h.trans (sameJobs_grantOne t i d)) s (.refl s)

theorem sameJobs_withdraw (s : State) (i : SiteNo) : s.SameJobs (s.withdraw i) := by
  unfold State.withdraw
  split
  · exact (sameJobs_setArb _ _).trans (sameJobs_grantTest _)
  · exact .refl s

theorem sameJobs_release (s : State) (i : SiteNo) : s.SameJobs (s.release i) := by
  unfold State.release
  split
  · exact (sameJobs_setArb _ _).trans (sameJobs_grantTest _)
  · exact .refl s

theorem sameJobs_noteOpenLeft (s : State) (i : SiteNo) (left : Nat) : s.SameJobs (s.noteOpenLeft i left) := by
  unfold State.noteOpenLeft
  split
  · next j hj => exact .setJob hj rfl
  · exact .refl s

theorem sameJobs_finishLift (s : State) : s.SameJobs s.finishLift :=
  ⟨by rw [finishLift_log], fun i => by simp only [State.identAt, (finishLift_keeps s i).1]⟩

/-! ### Job ends -/

/-- From one state to a later one these records were added, one for each job that ended, and no job began. -/
structure State.Logged (s t : State) (new : List Record) : Prop where
  records : t.log.records = s.log.records ++ new
  count : new.length + allSites.countP t.active = allSites.countP s.active
  ended : ∀ i id, s.identAt i = some id → t.identAt i = none → ∃ r ∈ new, r.site = i ∧ (r.posting, r.touchdown) = id
  kept : ∀ i, t.identAt i = s.identAt i ∨ t.identAt i = none

/-- From one state to a later one each job that ended left one record, and no job began. -/
def State.EndsLogged (s t : State) : Prop := ∃ new, s.Logged t new

open State (EndsLogged)

theorem State.SameJobs.endsLogged {s t : State} (h : s.SameJobs t) : s.EndsLogged t := by
  refine ⟨[], by simp [h.records], ?_, fun i id hs ht => ?_, fun i => .inl (h.ident i)⟩
  · rw [List.length_nil, Nat.zero_add]
    exact List.countP_congr fun i _ => by rw [active_eq_identAt, active_eq_identAt, h.ident]
  · rw [h.ident, hs] at ht; cases ht

namespace State.EndsLogged

variable {s t u : State}

theorem refl (s : State) : s.EndsLogged s := (SameJobs.refl s).endsLogged

theorem trans (h : s.EndsLogged t) (g : t.EndsLogged u) : s.EndsLogged u := by
  obtain ⟨new, hrec, hcount, hended, hkept⟩ := h
  obtain ⟨more, grec, gcount, gended, gkept⟩ := g
  refine ⟨new ++ more, by rw [grec, hrec, List.append_assoc], by rw [List.length_append]; omega, fun i id hs hu => ?_,
    fun i => ?_⟩
  · rcases hkept i with hsame | hgone
    · obtain ⟨r, hr, hid⟩ := gended i id (hsame.trans hs) hu
      exact ⟨r, List.mem_append_right _ hr, hid⟩
    · obtain ⟨r, hr, hid⟩ := hended i id hs hgone
      exact ⟨r, List.mem_append_left _ hr, hid⟩
  · rcases gkept i with hsame | hgone
    · rw [hsame]; exact hkept i
    · exact .inr hgone

theorem foldl {α : Type} {f : State → α → State} (h : ∀ (s : State) (a : α), s.EndsLogged (f s a)) (l : List α) (s : State) :
    s.EndsLogged (l.foldl f s) := foldl_inv (fun t => s.EndsLogged t) f (fun t a ht => ht.trans (h t a)) l s (.refl s)

/-- A job end appends the record of the job that it ends (R55, R139). -/
theorem endJob (s : State) (i : SiteNo) (o : JobOutcome) : s.EndsLogged (s.endJob i o) := by
  cases hj : (s.site i).job with
  | none => unfold State.endJob; rw [hj]; exact .refl s
  | some j =>
    obtain ⟨hsite, hlog, -⟩ := endJob_all s i j o hj
    have hne : ∀ k, k ≠ i → (s.endJob i o).site k = s.site k := fun k => endJob_site_ne s o
    have hgone : (s.endJob i o).identAt i = none := by simp [State.identAt, hsite]
    refine ⟨[s.lastRecord i j o], by rw [hlog]; rfl, ?_, fun k id hs ht => ?_, fun k => ?_⟩
    · have hcount := active_count (s := s) (t := s.endJob i o) i fun k hk => by simp only [State.active, hne k hk]
      have hwas : s.active i = true := by simp [State.active, hj]
      rw [hwas, active_eq_identAt, hgone] at hcount
      exact (Nat.add_comm _ _).trans hcount
    · by_cases e : k = i
      · subst e
        exact ⟨_, List.mem_singleton_self _, rfl, Option.some.inj ((identAt_of_job hj).symm.trans hs)⟩
      · rw [State.identAt, hne k e, ← State.identAt, hs] at ht; cases ht
    · by_cases e : k = i
      · subst e; exact .inr hgone
      · exact .inl (by simp only [State.identAt, hne k e])

/-- A move whose job is the one at the site. -/
theorem doMove {i : SiteNo} {j : Job} (hj : (s.site i).job = some j) (m : Move) (hm : m.1.ident = j.ident) :
    s.EndsLogged (s.doMove i m) := by
  have hset : s.EndsLogged (s.setJob i (some m.1)) := (SameJobs.setJob hj hm).endsLogged
  unfold State.doMove
  cases m.2 with
  | send c retry => exact hset.trans (SameJobs.setPort _ _ _).endsLogged
  | finish o => exact hset.trans (endJob _ _ _)
  | wait | request | bind => exact hset

theorem abort (s : State) (i : SiteNo) (p : PendingEnd) : s.EndsLogged (s.abort i p) := by
  unfold State.abort
  split
  · exact .refl s
  · next j hj =>
    split
    · exact .refl s
    · have hsite := (withdraw_self s i).1
      refine ((sameJobs_withdraw s i).trans (.setPort _ _ _)).endsLogged.trans (doMove (j := j) ?_ _ (ident_onAbort _ _ _))
      rw [show ((s.withdraw i).setPort i _).site i = _ from site_setPort _ _ _, hsite]
      exact hj

theorem request (s : State) (i : SiteNo) (d : Nat) : s.EndsLogged (s.request i d) := by
  unfold State.request
  split
  · exact abort s i _
  · exact ((sameJobs_setArb _ _).trans (sameJobs_grantTest _)).endsLogged

theorem giveKey (s : State) (i : SiteNo) (key : Key) : s.EndsLogged (s.giveKey i key) := by
  unfold State.giveKey
  split
  · exact .refl s
  · next j hj => exact doMove hj _ (ident_onKey _ _ _)

theorem bindRequest (s : State) (i : SiteNo) : s.EndsLogged (s.bindRequest i) := by
  unfold State.bindRequest
  split
  · exact ((sameJobs_setKs s _).endsLogged.trans (giveKey _ _ _)).trans (sameJobs_evalPoolLow _).endsLogged
  · unfold State.joinWaitList
    split
    · exact .refl s
    · next j hj => exact SameJobs.endsLogged ((sameJobs_setKs s _).trans (.setJob (j := j) (by exact hj) rfl))

theorem perform {i : SiteNo} {j : Job} (hj : (s.site i).job = some j) (m : Move) (hm : m.1.ident = j.ident) :
    s.EndsLogged (s.perform i m) := by
  unfold State.perform
  split
  · exact (SameJobs.setJob hj hm).endsLogged.trans (request _ _ _)
  · exact (SameJobs.setJob hj hm).endsLogged.trans (bindRequest _ _)
  · exact doMove hj m hm

theorem driveCut (s : State) (i : SiteNo) (o : JobOutcome) : s.EndsLogged (s.driveCut i o) := by
  unfold State.driveCut
  split
  · exact .refl s
  · have hport : s.SameJobs ((s.setPort i { driven := false, exch := none }).deselect i) :=
      (SameJobs.setPort s i _).trans (sameJobs_deselect _ i)
    exact ((hport.trans (sameJobs_withdraw _ i)).trans (sameJobs_release _ i)).endsLogged.trans (endJob _ _ _)

theorem exchangeEnded (s : State) (i : SiteNo) (c : DieCmd) (e : Ending) : s.EndsLogged (s.exchangeEnded i c e) := by
  have hfree : s.SameJobs (if c.isPulse then (s.setExch i none).release i else s.setExch i none) := by
    split
    · exact (SameJobs.setPort s i _).trans (sameJobs_release _ i)
    · exact .setPort s i _
  unfold State.exchangeEnded
  dsimp only
  split
  · next j hj => exact hfree.endsLogged.trans (perform hj _ (ident_onExchange _ _ _ _))
  · exact hfree.endsLogged

theorem attemptEnded (s : State) (i : SiteNo) (x : Exchange) (e : Ending) : s.EndsLogged (s.attemptEnded i x e) := by
  have hover := sameJobs_deselect s i
  unfold State.attemptEnded
  dsimp only
  split
  · exact (hover.trans (.setPort _ i _)).endsLogged
  · exact hover.endsLogged.trans (exchangeEnded _ _ _ _)

theorem handOut (l : List SiteNo) (s : State) : s.EndsLogged (State.handOut l s) := by
  induction l generalizing s with
  | nil => exact .refl s
  | cons i l ih =>
    cases hfree : s.ks.free with
    | nil => rw [handOut_noKey _ hfree]; exact .refl s
    | cons key rest =>
      rw [handOut_cons i l hfree]
      exact ((sameJobs_setKs s _).endsLogged.trans (giveKey _ _ _)).trans (ih _)

theorem finishLift (s : State) : s.EndsLogged s.finishLift := (sameJobs_finishLift s).endsLogged

end State.EndsLogged

/-! ### Admissions -/

/-- The records stand, and each active job goes on. -/
structure State.KeepsJobs (s t : State) : Prop where
  records : t.log.records = s.log.records
  kept : ∀ i id, s.identAt i = some id → t.identAt i = some id

namespace State.KeepsJobs

variable {s t u : State}

theorem trans (h : s.KeepsJobs t) (g : t.KeepsJobs u) : s.KeepsJobs u :=
  ⟨g.records.trans h.records, fun i id hi => g.kept i id (h.kept i id hi)⟩

theorem foldl {α : Type} {f : State → α → State} (h : ∀ (s : State) (a : α), s.KeepsJobs (f s a)) (l : List α) (s : State) :
    s.KeepsJobs (l.foldl f s) :=
  foldl_inv (fun t => s.KeepsJobs t) f (fun t a ht => ht.trans (h t a)) l s ⟨rfl, fun _ _ => id⟩

end State.KeepsJobs

open State (KeepsJobs)

theorem State.SameJobs.keepsJobs {s t : State} (h : s.SameJobs t) : s.KeepsJobs t :=
  ⟨h.records, fun i _ hi => (h.ident i).trans hi⟩

/-- An admission is at a site without a job (R47). -/
theorem keepsJobs_testAdmission (s : State) (i : SiteNo) : s.KeepsJobs (s.testAdmission i) := by
  refine ⟨testAdmission_log_records s i, fun k id hk => ?_⟩
  unfold State.testAdmission State.askSlot
  split
  · next hready =>
    obtain ⟨-, -, -, hnone, -, -⟩ := State.readyToAdmit_spec (Bool.and_eq_true_iff.mp hready).1
    have hki : k ≠ i := by rintro rfl; simp [State.identAt, hnone] at hk
    split
    · rw [State.identAt, site_evalLogHigh, admitHead_site_ne _ hki]; exact hk
    · exact hk
  · exact hk

end Sys2Proof.Machine
end

section
/-!
SUPPORT. The account of job ends over the commands (R135): each command either ends jobs and logs them, or admits jobs, or does
neither.
-/
namespace Sys2Proof.Machine
open State (SameJobs EndsLogged KeepsJobs)

/-! ### Requests -/

/-- From one state to a later one either jobs ended, each with its record, or jobs were admitted. -/
def State.Accounts (s t : State) : Prop := s.EndsLogged t ∨ s.KeepsJobs t

namespace State.Accounts

variable {s t u : State}

theorem same (h : s.SameJobs t) : s.Accounts t := .inl h.endsLogged

theorem after (h : s.SameJobs t) (g : t.Accounts u) : s.Accounts u :=
  g.imp (fun g => h.endsLogged.trans g) (fun g => h.keepsJobs.trans g)

theorem before (h : s.Accounts t) (g : t.SameJobs u) : s.Accounts u :=
  h.imp (fun h => h.trans g.endsLogged) (fun h => h.trans g.keepsJobs)

end State.Accounts

open State (Accounts)

theorem sameJobs_push (s : State) (f : OutFrame) : s.SameJobs (s.push f) := .of_sites (s := s) (fun _ => rfl) rfl

theorem sameJobs_reply (s : State) (f : InFrame) (st : Status) (fields : List Byte) : s.SameJobs (s.reply f st fields) :=
  sameJobs_push s _

theorem sameJobs_enableSite (before : SiteSet) (s : State) (i : SiteNo) : s.SameJobs (State.enableSite before s i) := by
  unfold State.enableSite
  split
  · exact .setSite s i _ rfl
  · split
    · exact .setSite s i _ rfl
    · exact .refl s

theorem sameJobs_applyEntry (s : State) (e : ParamId × Nat) : s.SameJobs (s.applyEntry e) := by
  obtain ⟨p, v⟩ := e
  have hcfg : s.SameJobs { s with cfg := s.cfg.put p (p.clamp v) } := .of_sites (s := s) (fun _ => rfl) rfl
  cases p
  case sitesEnabled => exact hcfg.trans (SameJobs.foldl (sameJobs_enableSite _) _ _)
  case poolLowThreshold =>
    simp only [State.applyEntry]
    split
    · exact hcfg
    · exact hcfg.trans (.of_sites (site_evalPoolLowNew _) (by simp))
  all_goals exact hcfg

theorem sameJobs_doConfigure (s : State) (f : InFrame) : s.SameJobs (s.doConfigure f) := by
  unfold State.doConfigure
  split
  · exact sameJobs_reply _ _ _ _
  · split
    · exact sameJobs_reply _ _ _ _
    · split
      · exact sameJobs_reply _ _ _ _
      · exact (SameJobs.foldl sameJobs_applyEntry _ _).trans (sameJobs_reply _ _ _ _)

theorem sameJobs_throttle (s : State) (sc : Scope) : s.SameJobs (s.throttle sc) := .of_sites (site_throttle s sc) (by simp)

theorem sameJobs_setSmon (s : State) (i : SiteNo) (m : SiteMon) : s.SameJobs (s.setSmon i m) :=
  .of_sites (s := s) (fun _ => rfl) rfl

theorem sameJobs_withMon (s : State) (m : Monitor) : s.SameJobs { s with mon := m } := .of_sites (s := s) (fun _ => rfl) rfl

theorem sameJobs_changeCond (s : State) (i : SiteNo) (c : SiteCond) (v : Bool) : s.SameJobs (s.changeCond i c v) :=
  .of_sites (site_changeCond s i c v) (by simp)

theorem sameJobs_doSetEnables (s : State) (f : InFrame) : s.SameJobs (s.doSetEnables f) := by
  have hload : s.SameJobs (forSites (State.loadEnables f.payload) s) :=
    SameJobs.foldl (fun s i => sameJobs_setSmon s i _) _ _
  exact ((hload.trans (sameJobs_withMon _ _)).trans (SameJobs.foldl sameJobs_throttle allScopes _)).trans
    (sameJobs_reply _ f _ _)

theorem sameJobs_doReadEvents (s : State) (f : InFrame) : s.SameJobs (s.doReadEvents f) := by
  unfold State.doReadEvents
  split
  · exact sameJobs_reply _ _ _ _
  · next sc _ =>
    cases sc with
    | site i => exact (sameJobs_reply _ _ _ _).trans (sameJobs_setSmon _ i _)
    | global => exact (sameJobs_reply _ _ _ _).trans (sameJobs_withMon _ _)

theorem sameJobs_doDiscardKeys (s : State) (f : InFrame) : s.SameJobs (s.doDiscardKeys f) :=
  ((sameJobs_setKs s _).trans (sameJobs_evalPoolLow _)).trans (sameJobs_reply _ _ _ _)

theorem sameJobs_startSeating (s : State) (i : SiteNo) : s.SameJobs (s.startSeating i) := by
  simp only [State.startSeating]
  split
  · split <;> exact .setSite s i _ rfl
  · exact .refl s

theorem sameJobs_sampleDieSupply (s : State) (i : SiteNo) : s.SameJobs (s.sampleDieSupply i) := by
  unfold State.sampleDieSupply
  split
  · exact sameJobs_changeCond _ _ _ _
  · exact .refl s

theorem accounts_doTouchdown (s : State) (f : InFrame) : s.Accounts (s.doTouchdown f) := by
  unfold State.doTouchdown
  split
  · refine Accounts.before (.inr ?_) (sameJobs_reply _ _ _ _)
    have hopen : s.SameJobs (s.setTd { s.td with state := .opened, number := nextNumber s.td.number }) :=
      .of_sites (fun _ => rfl) rfl
    have hseat := SameJobs.foldl sameJobs_startSeating allSites
      (s.setTd { s.td with state := .opened, number := nextNumber s.td.number })
    have hlink := SameJobs.foldl (f := fun s i => s.setCond i .link false) (fun s i => sameJobs_setSmon s i _) allSites
    have hsupply := SameJobs.foldl sameJobs_sampleDieSupply allSites
    exact (((hopen.trans hseat).trans (hlink _)).trans (hsupply _)).keepsJobs.trans
      (KeepsJobs.foldl keepsJobs_testAdmission allSites _)
  · exact .same (sameJobs_reply _ _ _ _)

theorem endsLogged_abortAll (s : State) : s.EndsLogged s.abortAll :=
  EndsLogged.foldl (f := fun s i => s.abort i .aborted) (fun s i => .abort s i _) allSites s

theorem endsLogged_beginLift (s : State) (tag : BitVec 6) (toAbort : Bool) : s.EndsLogged (s.beginLift tag toAbort) := by
  have hlift : ∀ (td : Touchdown) (w : Vector Bool 16), s.SameJobs ((s.setTd td).setLog { s.log with slotWaiters := w }) :=
    fun _ _ => .of_sites (fun _ => rfl) rfl
  unfold State.beginLift
  split
  · exact (hlift _ _).endsLogged.trans (endsLogged_abortAll _)
  · exact (hlift _ _).endsLogged

theorem endsLogged_mergeLift (s : State) (toAbort : Bool) : s.EndsLogged (s.mergeLift toAbort) := by
  have hup : s.SameJobs (s.setTd { s.td with state := .liftingAbort }) := .of_sites (fun _ => rfl) rfl
  unfold State.mergeLift
  split
  · exact hup.endsLogged.trans (endsLogged_abortAll _)
  · exact .refl s

theorem endsLogged_doLiftoff (s : State) (f : InFrame) : s.EndsLogged (s.doLiftoff f) := by
  unfold State.doLiftoff
  split
  · exact (sameJobs_reply _ _ _ _).endsLogged
  · split
    case h_1 => exact (sameJobs_reply _ _ _ _).endsLogged
    case h_2 => exact (endsLogged_beginLift _ _ _).trans (.finishLift _)
    all_goals exact ((endsLogged_mergeLift _ _).trans (sameJobs_reply _ _ _ _).endsLogged).trans (.finishLift _)

theorem endsLogged_doLoadKeys (s : State) (f : InFrame) : s.EndsLogged (s.doLoadKeys f) := by
  simp only [State.doLoadKeys]
  split
  · exact (sameJobs_reply _ _ _ _).endsLogged
  · split
    · exact (sameJobs_reply _ _ _ _).endsLogged
    · refine EndsLogged.trans ?_ ((sameJobs_reply _ _ _ _).trans (sameJobs_finishLift _)).endsLogged
      exact ((sameJobs_setKs s _).endsLogged.trans (.handOut _ _)).trans (sameJobs_evalPoolLow _).endsLogged

theorem keepsJobs_doProvision (s : State) (f : InFrame) : s.KeepsJobs (s.doProvision f) := by
  have hpost : ∀ (i : SiteNo) (p : Posting), s.KeepsJobs (s.postJob i p) := fun i p => by
    have hqueue : s.SameJobs (s.setSite i { s.site i with queue := (s.site i).queue ++ [p] }) := .setSite s i _ rfl
    simp only [State.postJob]
    split
    · exact hqueue.keepsJobs.trans (keepsJobs_testAdmission _ _)
    · exact hqueue.keepsJobs
  simp only [State.doProvision]
  split
  · exact (sameJobs_reply _ _ _ _).keepsJobs
  · split
    · exact (sameJobs_reply _ _ _ _).keepsJobs
    · split
      · exact (sameJobs_reply _ _ _ _).keepsJobs
      · exact (hpost _ _).trans (sameJobs_reply _ _ _ _).keepsJobs

theorem sameJobs_dropQueue (s : State) (i : SiteNo) : s.SameJobs (s.dropQueue i) :=
  (SameJobs.setSite s i { s.site i with queue := [] } rfl).trans (.of_sites (fun _ => rfl) rfl)

theorem endsLogged_doCancel (s : State) (f : InFrame) : s.EndsLogged (s.doCancel f) := by
  unfold State.doCancel
  split
  · next i queued takeActive _ _ =>
    have hdrop : s.SameJobs (if queued then s.dropQueue i else s) := by
      split
      · exact sameJobs_dropQueue s i
      · exact .refl s
    refine EndsLogged.trans ?_ ((sameJobs_reply _ _ _ _).trans (sameJobs_finishLift _)).endsLogged
    cases takeActive with
    | true => exact hdrop.endsLogged.trans (.abort _ _ _)
    | false => exact hdrop.endsLogged
  · exact (sameJobs_reply _ _ _ _).endsLogged

/-! ### Every command -/

/-- A step's answer in which the jobs that ended are accounted for. -/
def AccountsFor (s : State) (r : StepResult) : Prop := ∀ t, r = .next t → s.Accounts t

theorem accountsFor_next {s t : State} (h : s.Accounts t) : AccountsFor s (.next t) := by rintro _ ⟨⟩; exact h

theorem accountsFor_same {s t : State} (h : s.SameJobs t) : AccountsFor s (.next t) := accountsFor_next (.same h)

theorem accountsFor_ends {s t : State} (h : s.EndsLogged t) : AccountsFor s (.next t) := accountsFor_next (.inl h)

theorem accountsFor_fault (s : State) (f : Fault) : AccountsFor s (.fault f) := by rintro _ ⟨⟩

theorem takeFrame_accountsFor (s : State) (is : InFrame → Bool) (act : State → InFrame → State)
    (h : ∀ (s : State) (f : InFrame), s.Accounts (act s f)) : AccountsFor s (s.takeFrame is act) := by
  unfold State.takeFrame
  split
  · exact accountsFor_fault s _
  · split
    · exact accountsFor_fault s _
    · split
      · exact accountsFor_next (Accounts.after (t := s.dropFront) (.of_sites (fun _ => rfl) rfl) (h _ _))
      · exact accountsFor_fault s _

theorem takeRequest_accountsFor (s : State) (kind : Byte) (ok : List Byte → Bool) (act : State → InFrame → State)
    (h : ∀ (s : State) (f : InFrame), s.Accounts (act s f)) : AccountsFor s (s.takeRequest kind ok act) := by
  apply takeFrame_accountsFor
  intro s f
  split
  · exact h s f
  · exact .same (sameJobs_reply _ _ _ _)

theorem execControlLinkByteReceived_accountsFor (b : Byte) (stopHigh : Bool) (s : State) :
    AccountsFor s (execControlLinkByteReceived b stopHigh s) := by
  unfold execControlLinkByteReceived
  (repeat' split) <;> exact accountsFor_same (.of_sites (site_of_sites (by simp)) (by simp))

theorem execGapTimerExpiry_accountsFor (s : State) : AccountsFor s (execGapTimerExpiry s) := by
  unfold execGapTimerExpiry
  split
  · exact accountsFor_same (.of_sites (fun _ => rfl) rfl)
  · exact accountsFor_fault s _

theorem execFrameLastByteSent_accountsFor (s : State) (h : s.resetsAt .frameLastByteSent = false) :
    AccountsFor s (execFrameLastByteSent s) := by
  unfold execFrameLastByteSent
  split
  · exact accountsFor_fault s _
  · next f rest hq =>
    have hsource : ¬ f.source = .resetReply := by simpa [State.resetsAt, hq] using h
    rw [if_neg hsource]
    exact accountsFor_same (.of_sites (fun _ => rfl) rfl)

theorem execResetReleased_accountsFor (s : State) : AccountsFor s (execResetReleased s) := by
  unfold execResetReleased
  split
  · exact accountsFor_same (.of_sites (fun _ => rfl) rfl)
  · exact accountsFor_fault s _

theorem sameJobs_setContactPin (s : State) (i : SiteNo) (v : Bool) : s.SameJobs (s.setContactPin i v) :=
  .of_sites (s := s) (fun _ => rfl) rfl

theorem sameJobs_setOverLimitPin (s : State) (i : SiteNo) (v : Bool) : s.SameJobs (s.setOverLimitPin i v) :=
  .of_sites (s := s) (fun _ => rfl) rfl

theorem execContactSensed_accountsFor (i : SiteNo) (s : State) : AccountsFor s (execContactSensed i s) := by
  simp only [execContactSensed]
  split
  · exact accountsFor_same ((sameJobs_setContactPin s i _).trans (.setSite _ i _ rfl))
  all_goals exact accountsFor_same (sameJobs_setContactPin s i _)

/-- A condition declared, the site out of the slot-waiter set and its drive cut, with the lift that this may complete. -/
theorem endsLogged_lossOf (s : State) (i : SiteNo) (c : SiteCond) (o : JobOutcome) :
    s.EndsLogged (((s.changeCond i c true).setSlotWaiter i false).driveCut i o).finishLift := by
  have hdeclared : s.SameJobs ((s.changeCond i c true).setSlotWaiter i false) :=
    (sameJobs_changeCond s i c true).trans (.of_sites (fun _ => rfl) rfl)
  exact (hdeclared.endsLogged.trans (.driveCut _ i o)).trans (.finishLift _)

theorem execContactDropped_accountsFor (i : SiteNo) (s : State) : AccountsFor s (execContactDropped i s) := by
  have hpin := sameJobs_setContactPin s i false
  simp only [execContactDropped]
  split
  case h_1 => exact accountsFor_same (hpin.trans (.setSite _ i _ rfl))
  case h_2 =>
    have hleft : s.SameJobs ((s.setContactPin i false).setSite i
        { (s.setContactPin i false).site i with posture := .unseated }) := hpin.trans (.setSite _ i _ rfl)
    exact accountsFor_ends (hleft.endsLogged.trans (endsLogged_lossOf _ i _ _))
  all_goals exact accountsFor_same hpin

theorem accounts_seat (s : State) (i : SiteNo) : s.Accounts (s.seat i) := by
  refine .inr (KeepsJobs.trans (SameJobs.keepsJobs ?_) (keepsJobs_testAdmission _ i))
  refine SameJobs.trans
    (.setSite s i { s.site i with posture := .seated, debounce := none, seatTimeout := none } rfl) ?_
  split
  · exact sameJobs_changeCond _ _ _ _
  · exact .refl _

theorem execDebounceExpiry_accountsFor (i : SiteNo) (s : State) : AccountsFor s (execDebounceExpiry i s) := by
  unfold execDebounceExpiry
  split
  · exact accountsFor_fault s _
  · split
    · exact accountsFor_next (accounts_seat s i)
    · exact accountsFor_same (.setSite s i _ rfl)

theorem execSeatTimeoutExpiry_accountsFor (i : SiteNo) (s : State) : AccountsFor s (execSeatTimeoutExpiry i s) := by
  have hstop : s.SameJobs (s.setSite i { s.site i with seatTimeout := none }) := .setSite s i _ rfl
  simp only [execSeatTimeoutExpiry]
  split
  · exact accountsFor_fault s _
  · split
    case h_1 | h_2 => exact accountsFor_same (hstop.trans (sameJobs_changeCond _ _ _ _))
    all_goals exact accountsFor_same hstop

theorem execDieSupplyAsserted_accountsFor (i : SiteNo) (s : State) : AccountsFor s (execDieSupplyAsserted i s) := by
  have hpin := sameJobs_setOverLimitPin s i true
  simp only [execDieSupplyAsserted]
  split
  · exact accountsFor_ends (hpin.endsLogged.trans (endsLogged_lossOf _ i _ _))
  · exact accountsFor_same hpin

theorem execDieSupplyDeasserted_accountsFor (i : SiteNo) (s : State) : AccountsFor s (execDieSupplyDeasserted i s) := by
  have hpin := sameJobs_setOverLimitPin s i false
  simp only [execDieSupplyDeasserted]
  split
  · exact accountsFor_next (.inr ((hpin.trans (sameJobs_changeCond _ i _ _)).keepsJobs.trans (keepsJobs_testAdmission _ i)))
  · exact accountsFor_same hpin

theorem sameJobs_latchGlobal (s : State) (g : GlobalFlag) : s.SameJobs (s.latchGlobal g) :=
  .of_sites (site_latchGlobal s g) (by simp)

theorem execPumpFaultAsserted_accountsFor (s : State) : AccountsFor s (execPumpFaultAsserted s) := by
  have hpin : s.SameJobs (s.setPumpPin true) := .of_sites (fun _ => rfl) rfl
  simp only [execPumpFaultAsserted]
  split
  · exact accountsFor_same hpin
  · exact accountsFor_same ((hpin.trans (sameJobs_setArb _ _)).trans (sameJobs_latchGlobal _ _))

theorem execPumpFaultDeasserted_accountsFor (s : State) : AccountsFor s (execPumpFaultDeasserted s) := by
  have hpin : s.SameJobs (s.setPumpPin false) := .of_sites (fun _ => rfl) rfl
  simp only [execPumpFaultDeasserted]
  split
  · exact accountsFor_same hpin
  · exact accountsFor_same
      (((hpin.trans (sameJobs_setArb _ _)).trans (sameJobs_latchGlobal _ _)).trans (sameJobs_grantTest _))

theorem execPumpHoldExpiry_accountsFor (s : State) : AccountsFor s (execPumpHoldExpiry s) := by
  have habort : ∀ (a : Arbiter) (s : State) (i : SiteNo), s.EndsLogged (State.abortWaiter a s i) := fun a s i => by
    unfold State.abortWaiter
    split
    · exact .abort s i _
    · exact .refl s
  unfold execPumpHoldExpiry
  split
  · exact accountsFor_fault s _
  · exact accountsFor_ends (((sameJobs_setArb s _).endsLogged.trans (EndsLogged.foldl (habort s.arb) allSites _)).trans
      (.finishLift _))

theorem execDieResponseComplete_accountsFor (i : SiteNo) (ddi : Wire) (openLeft : Nat) (s : State) :
    AccountsFor s (execDieResponseComplete i ddi openLeft s) := by
  simp only [execDieResponseComplete]
  split
  · exact accountsFor_same (.refl s)
  · split
    · exact accountsFor_same (.refl s)
    · split
      · exact accountsFor_same (.setPort s i _)
      · exact accountsFor_ends (((sameJobs_noteOpenLeft s i _).endsLogged.trans (.attemptEnded _ i _ _)).trans (.finishLift _))

theorem execDieResponseDeadlineExpiry_accountsFor (i : SiteNo) (openLeft : Nat) (s : State) :
    AccountsFor s (execDieResponseDeadlineExpiry i openLeft s) := by
  unfold execDieResponseDeadlineExpiry
  split
  · exact accountsFor_fault s _
  · split
    · exact accountsFor_fault s _
    · exact accountsFor_ends (((sameJobs_noteOpenLeft s i _).endsLogged.trans (.attemptEnded _ i _ _)).trans (.finishLift _))

theorem execSettleTimerExpiry_accountsFor (i : SiteNo) (s : State) : AccountsFor s (execSettleTimerExpiry i s) := by
  unfold execSettleTimerExpiry
  split
  · exact accountsFor_fault s _
  · next j hj =>
    split
    · exact accountsFor_fault s _
    · exact accountsFor_ends ((EndsLogged.perform hj _ (ident_onSettle _ j)).trans (.finishLift _))

theorem execOpenTimerExpiry_accountsFor (i : SiteNo) (s : State) : AccountsFor s (execOpenTimerExpiry i s) := by
  unfold execOpenTimerExpiry
  split
  · exact accountsFor_fault s _
  · next j hj =>
    split
    · exact accountsFor_fault s _
    · split
      · next m hm =>
        have hsite : ((s.withdraw i).site i).job = some j := by rw [(withdraw_self s i).1]; exact hj
        exact accountsFor_ends ((sameJobs_withdraw s i).endsLogged.trans (.perform hsite m (ident_onOpenExpiry hm)))
      · exact accountsFor_fault s _

theorem execRestTimerExpiry_accountsFor (i : SiteNo) (s : State) : AccountsFor s (execRestTimerExpiry i s) := by
  unfold execRestTimerExpiry
  split
  · exact accountsFor_fault s _
  · next j hj =>
    split
    · exact accountsFor_fault s _
    · exact accountsFor_ends (.perform hj _ (ident_onRest j))

theorem dieCommand_accountsFor (s : State) (i : SiteNo) (code : Byte) (act : Die → DieFrame → Die × DieAnswer) :
    AccountsFor s (s.dieCommand i code act) := by
  unfold State.dieCommand
  split
  · exact accountsFor_same (.of_sites (fun _ => rfl) rfl)
  · exact accountsFor_fault s _

theorem execCommandFrameSent_accountsFor (i : SiteNo) (ddo : Wire) (s : State) :
    AccountsFor s (execCommandFrameSent i ddo s) := by
  simp only [execCommandFrameSent]
  split
  · exact accountsFor_fault s _
  · split
    · exact accountsFor_fault s _
    · exact accountsFor_same ((SameJobs.setPort s i _).trans (.of_sites (fun _ => rfl) rfl))

/-- R55, R135: outside a unit reset and CLEAR RECORDS each command accounts for the jobs that it ends. -/
theorem exec_accountsFor (c : Instr) (s : State) (hreset : s.resetsAt c = false) (hclear : c ≠ .clearRecords) :
    AccountsFor s (exec c s) := by
  cases c with
  | controlLinkByteReceived b stopHigh => exact execControlLinkByteReceived_accountsFor b stopHigh s
  | gapTimerExpiry => exact execGapTimerExpiry_accountsFor s
  | frameLastByteSent => exact execFrameLastByteSent_accountsFor s hreset
  | heldStatusReply =>
    refine takeFrame_accountsFor s _ _ fun s f => .same ?_
    unfold State.doHeldStatus
    split
    · exact sameJobs_reply _ _ _ _
    · exact .refl s
  | badRequest => exact takeFrame_accountsFor s _ _ fun s f => .same (sameJobs_reply s f _ _)
  | identify => exact takeRequest_accountsFor s _ _ _ fun s f => .same (sameJobs_reply s f _ _)
  | status => exact takeRequest_accountsFor s _ _ _ fun s f => .same (sameJobs_reply s f _ _)
  | configure => exact takeRequest_accountsFor s _ _ _ fun s f => .same (sameJobs_doConfigure s f)
  | setEnables => exact takeRequest_accountsFor s _ _ _ fun s f => .same (sameJobs_doSetEnables s f)
  | touchdown => exact takeRequest_accountsFor s _ _ _ accounts_doTouchdown
  | liftoff => exact takeRequest_accountsFor s _ _ _ fun s f => .inl (endsLogged_doLiftoff s f)
  | resetUnit => exact takeRequest_accountsFor s _ _ _ fun s f => .same (.of_sites (s := s) (fun _ => rfl) rfl)
  | loadKeys => exact takeRequest_accountsFor s _ _ _ fun s f => .inl (endsLogged_doLoadKeys s f)
  | discardKeys => exact takeRequest_accountsFor s _ _ _ fun s f => .same (sameJobs_doDiscardKeys s f)
  | provision => exact takeRequest_accountsFor s _ _ _ fun s f => .inr (keepsJobs_doProvision s f)
  | cancel => exact takeRequest_accountsFor s _ _ _ fun s f => .inl (endsLogged_doCancel s f)
  | readRecords => exact takeRequest_accountsFor s _ _ _ fun s f => .same (sameJobs_reply s f _ _)
  | clearRecords => exact absurd rfl hclear
  | readEvents => exact takeRequest_accountsFor s _ _ _ fun s f => .same (sameJobs_doReadEvents s f)
  | powerOn | resetLineAsserted => cases hreset
  | resetReleased => exact execResetReleased_accountsFor s
  | contactSensed i => exact execContactSensed_accountsFor i s
  | contactDropped i => exact execContactDropped_accountsFor i s
  | debounceExpiry i => exact execDebounceExpiry_accountsFor i s
  | seatTimeoutExpiry i => exact execSeatTimeoutExpiry_accountsFor i s
  | dieSupplyAsserted i => exact execDieSupplyAsserted_accountsFor i s
  | dieSupplyDeasserted i => exact execDieSupplyDeasserted_accountsFor i s
  | pumpFaultAsserted => exact execPumpFaultAsserted_accountsFor s
  | pumpFaultDeasserted => exact execPumpFaultDeasserted_accountsFor s
  | pumpHoldExpiry => exact execPumpHoldExpiry_accountsFor s
  | dieResponseComplete i ddi openLeft => exact execDieResponseComplete_accountsFor i ddi openLeft s
  | dieResponseDeadlineExpiry i openLeft => exact execDieResponseDeadlineExpiry_accountsFor i openLeft s
  | settleTimerExpiry i => exact execSettleTimerExpiry_accountsFor i s
  | openTimerExpiry i => exact execOpenTimerExpiry_accountsFor i s
  | restTimerExpiry i => exact execRestTimerExpiry_accountsFor i s
  | diePowerOn i cells => exact accountsFor_same (.of_sites (fun _ => rfl) rfl)
  | reset i | closeAll i | enterProvisioning i | sense i | openRow i | pulse i a b | closeRow i | reload i | readShadow i =>
    exact dieCommand_accountsFor s i _ _
  | commandFrameSent i ddo => exact execCommandFrameSent_accountsFor i ddo s

/-! ### The statement -/

/-- Where no job begins, the jobs that ended are those that are active no more. -/
theorem countP_ended {l : List SiteNo} {p q : SiteNo → Bool} (h : ∀ i, q i = true → p i = true) :
    l.countP (fun i => p i && !q i) + l.countP q = l.countP p := by
  induction l with
  | nil => rfl
  | cons i l ih =>
    have hi := h i
    rw [List.countP_cons, List.countP_cons, List.countP_cons]
    cases hp : p i <;> cases hq : q i <;> simp_all <;> omega

/-- Settles O32: by `exec_accountsFor` a command logs each job that it ends or only admits jobs; where it only admits, every active
job is the one it was. -/
theorem everyEndedJobLeavesOneRecord : Obligations.EveryEndedJobLeavesOneRecord := by
  unfold Obligations.EveryEndedJobLeavesOneRecord
  intro c s t h hreset hclear
  rcases exec_accountsFor c s hreset hclear t h with ⟨new, hrec, hcount, hended, hkept⟩ | ⟨hrec, hkept⟩
  · have hstill : ∀ i, t.active i = true → s.active i = true := fun i hi => by
      rw [active_eq_identAt] at hi ⊢
      rcases hkept i with hsame | hgone
      · rwa [hsame] at hi
      · rw [hgone] at hi; cases hi
    refine ⟨new, hrec, ?_, fun i j hj => ⟨fun hnone => ?_, fun j' hj' => ?_⟩⟩
    · have := countP_ended (l := allSites) hstill
      omega
    · obtain ⟨r, hr, hsite, hid⟩ := hended i _ (identAt_of_job hj) (by simp [State.identAt, hnone])
      obtain ⟨hpost, htouch⟩ := Prod.mk.inj hid
      exact ⟨r, hr, hsite, hpost, htouch⟩
    · rcases hkept i with hsame | hgone
      · rw [identAt_of_job hj, identAt_of_job hj'] at hsame
        exact Prod.mk.inj (Option.some.inj hsame)
      · rw [identAt_of_job hj'] at hgone; cases hgone
  · refine ⟨[], by rw [hrec, List.append_nil], ?_, fun i j hj => ?_⟩
    · refine (List.countP_eq_zero.mpr fun i _ hi => ?_).symm
      rw [active_eq_identAt, active_eq_identAt] at hi
      cases hs : s.identAt i with
      | none => simp [hs] at hi
      | some id => simp [hkept i id hs] at hi
    · have hgoes := hkept i _ (identAt_of_job hj)
      refine ⟨fun hnone => ?_, fun j' hj' => ?_⟩
      · simp [State.identAt, hnone] at hgoes
      · rw [identAt_of_job hj'] at hgoes
        exact Prod.mk.inj (Option.some.inj hgoes)

end Sys2Proof.Machine
end

section
/-!
SUPPORT. PROVISION and admission (R46 to R48, R136, R143): the payload read back, LOG_HIGH evaluated, and the admission test in the
words of the statements.
-/
namespace Sys2Proof.Machine

/-! ### The frame in front (R164, R167) -/

theorem answered_push (s : State) (rest : List InFrame) (o : OutFrame) : s.answered rest o = (s.taken rest).push o := rfl

/-- The site that the first byte of a payload names (R171). -/
theorem siteAt_zero (i : SiteNo) (tl : List Byte) : siteAt (BitVec.ofNat 8 i.val :: tl) 0 = some i := by
  have hb : (byteAt (BitVec.ofNat 8 i.val :: tl) 0).toNat = i.val := by
    simp only [byteAt, List.getD_cons_zero, BitVec.toNat_ofNat]; omega
  simp [siteAt, hb, i.isLt]

theorem siteAt_above {b : Byte} (tl : List Byte) (h : 15 < b.toNat) : siteAt (b :: tl) 0 = none :=
  dif_neg (Nat.not_lt.mpr h)

/-- The payload of a PROVISION (R176). -/
def Posting.payload (i : SiteNo) (p : Posting) : List Byte :=
  BitVec.ofNat 8 i.val :: bytesLE 2 p.tag.toNat ++ bytesLE 3 p.lot.toNat ++ [p.wafer, p.x, p.y]

theorem length_payload (i : SiteNo) (p : Posting) : (Posting.payload i p).length = 9 := by simp [Posting.payload]

/-- The posting of a PROVISION payload is read back (R46, R176). -/
theorem postingOf_payload (i : SiteNo) (p : Posting) : postingOf (Posting.payload i p) = p := by
  have hsplit : Posting.payload i p = BitVec.ofNat 8 i.val ::
      (bytesLE 2 p.tag.toNat ++ (bytesLE 3 p.lot.toNat ++ [p.wafer, p.x, p.y])) := by simp [Posting.payload]
  have htag : numAt (Posting.payload i p) 1 2 = p.tag.toNat := by
    rw [hsplit, numAt_cons]
    exact numAt_bytesLE _ p.tag.isLt
  have hlot : numAt (Posting.payload i p) 3 3 = p.lot.toNat := by
    rw [hsplit, numAt_cons, numAt_append_of_le _ _ _ (by simp)]
    exact numAt_bytesLE _ p.lot.isLt
  unfold postingOf
  rw [htag, hlot]
  cases p
  simp [Posting.payload, byteAt, bytesLE]

/-- A PROVISION in front is carried out (R46). -/
theorem exec_provision {s : State} {f : InFrame} {rest : List InFrame} (h : s.Front 0x12 f rest)
    (hlen : f.payload.length = 9) : exec .provision s = .next ((s.taken rest).doProvision f) :=
  takeRequest_front h (ok := lengthIs 9) (by simp [lengthIs, hlen]) State.doProvision

/-- A PROVISION whose payload names a site: the two refusals, and the job posted (R46). -/
theorem doProvision_at (s : State) {f : InFrame} {i : SiteNo} {p : Posting} (hpay : f.payload = Posting.payload i p) :
    (s.enabled i = false → s.doProvision f =
      s.push (replyTo f .siteDisabled [BitVec.ofNat 8 i.val, BitVec.ofNat 8 (s.site i).queue.length])) ∧
    (s.enabled i = true → 2 ≤ (s.site i).queue.length → s.doProvision f =
      s.push (replyTo f .queueFull [BitVec.ofNat 8 i.val, BitVec.ofNat 8 (s.site i).queue.length])) ∧
    (s.enabled i = true → (s.site i).queue.length < 2 → s.doProvision f = (s.postJob i p).push
      (replyTo f .ok [BitVec.ofNat 8 i.val, BitVec.ofNat 8 ((s.site i).queue.length + 1)])) := by
  have hsite : siteAt f.payload 0 = some i := by rw [hpay]; exact siteAt_zero i _
  have hposting : postingOf f.payload = p := by rw [hpay]; exact postingOf_payload i p
  simp only [State.doProvision, hsite, hposting]
  refine ⟨fun hoff => ?_, fun hon hfull => ?_, fun hon hroom => ?_⟩
  · rw [if_pos (by rw [hoff]; rfl)]; rfl
  · rw [if_neg (by rw [hon]; decide), if_pos hfull]; rfl
  · rw [if_neg (by rw [hon]; decide), if_neg (Nat.not_le.mpr hroom)]; rfl

/-- Settles O28: each refusal is a clause of `doProvision_at`, and a job behind another joins the queue without a test of
admission. -/
theorem provisionRefusalsAndSecondJob : Obligations.ProvisionRefusalsAndSecondJob := by
  unfold Obligations.ProvisionRefusalsAndSecondJob
  refine ⟨fun s f rest b tl hfront hpay hlen hb => ?_, fun s f rest i p hfront hpay => ?_⟩
  · rw [exec_provision hfront (by rw [hpay, List.length_cons, hlen]), State.doProvision, hpay, siteAt_above tl hb]
    rfl
  · have hexec := exec_provision hfront (by rw [hpay]; exact length_payload i p)
    obtain ⟨hoff, hfull, hpost⟩ := doProvision_at (s.taken rest) hpay
    refine ⟨fun h => by rw [hexec, hoff h]; rfl, fun hon h => by rw [hexec, hfull hon h]; rfl, fun q hon hq => ?_⟩
    have hq' : ((s.taken rest).site i).queue = [q] := hq
    rw [hexec, hpost hon (by rw [hq']; exact Nat.one_lt_two), State.postJob, hq']
    rfl

end Sys2Proof.Machine
end

section
/-!
SUPPORT. The admission test (R42, R47, R48, R136, R143): LOG_HIGH evaluated, the head job admitted, and what comes of a test;
and the site inputs by which no job begins and none ends (R42 to R44, R148).
-/
namespace Sys2Proof.Machine

/-! ### LOG_HIGH (R143) -/

/-- LOG_HIGH evaluated: nothing happens, or it changes and latches. -/
theorem evalLogHigh_eq (s : State) : s.evalLogHigh =
    (if logHighAfter s.log.logHigh s.log.slotsInUse = s.log.logHigh then s
    else State.latchGlobal { s with log := { s.log with
      logHigh := logHighAfter s.log.logHigh s.log.slotsInUse } } .logHigh) := by
  unfold State.evalLogHigh logHighAfter State.reportLogHigh State.setLog
  cases s.log.logHigh with
  | true =>
    by_cases h : s.log.slotsInUse ≤ 224
    · simp [h, Nat.not_lt.mpr h]
    · simp [h, Nat.lt_of_not_le h]
  | false => by_cases h : 240 ≤ s.log.slotsInUse <;> simp [h]

/-- What an evaluation of LOG_HIGH changes: the condition as `logHighAfter` says, and a change is reported. -/
theorem evalLogHigh_changes {u t : State} (ht : t = u.evalLogHigh) :
    t.log = { u.log with logHigh := logHighAfter u.log.logHigh u.log.slotsInUse } ∧
      t.mon = (if t.log.logHigh = u.log.logHigh then u.mon else { u.mon with
        flags := { u.mon.flags with logHigh := true }, pending := u.mon.pending || t.enabledFlag .global }) ∧
      t.link = { u.link with outq := u.link.outq
        ++ (if t.log.logHigh ≠ u.log.logHigh ∧ u.mon.pending = false ∧ t.enabledFlag .global = true
            then [t.noticeOf .global] else []) } ∧
      t = { u with log := t.log, mon := t.mon, link := t.link } := by
  generalize hv : logHighAfter u.log.logHigh u.log.slotsInUse = v
  have heval := ht.trans (evalLogHigh_eq u)
  rw [hv] at heval
  by_cases hsame : v = u.log.logHigh
  · rw [if_pos hsame] at heval
    rw [heval, hsame]
    simp
  · rw [if_neg hsame] at heval
    obtain ⟨hmon, hlink, hall⟩ := latchGlobal_eq heval
    have hlog : t.log = { u.log with logHigh := v } := by rw [heval, latchGlobal_log]
    have hne : t.log.logHigh ≠ u.log.logHigh := by rw [hlog]; exact hsame
    refine ⟨hlog, by rw [if_neg hne, hmon]; rfl, ?_, ?_⟩
    · rw [hlink]; simp only [ne_eq, hne, not_false_eq_true, true_and]
    · rw [hlog]; exact hall

/-! ### The head job admitted (R48) -/

/-- The machine with the head job of a site admitted and a slot reserved for it. -/
theorem admitHead_eq (s : State) {i : SiteNo} {p : Posting} {rest : List Posting} (hq : (s.site i).queue = p :: rest) :
    s.admitHead i = (s.setSite i ((s.site i).admitted p rest s.td.number)).setLog
      { s.log with reservations := s.log.reservations + 1 } := by
  unfold State.admitHead
  rw [hq]
  simp only [State.startExchange, State.setExch, State.setPort, State.setLog, State.site, State.setSite]
  simp [SiteCtl.admitted, newJob, newAttempt, bringupCmd, deadlineOf]

/-- A queued job at a site where it may be admitted is ready (R47). -/
theorem readyToAdmit_iff (s : State) (i : SiteNo) :
    s.readyToAdmit i = true ↔ s.MayAdmit i ∧ (s.site i).queue ≠ [] := by
  constructor
  · intro h
    obtain ⟨hopen, hseated, hused, hjob, hsupply, hqueue⟩ := State.readyToAdmit_spec h
    exact ⟨⟨hopen, hseated, hused, hjob, hsupply⟩, hqueue⟩
  · rintro ⟨⟨hopen, hseated, hused, hjob, hsupply⟩, hqueue⟩
    simp [State.readyToAdmit, State.active, hopen, hseated, hused, hjob, hsupply, hqueue]

/-! ### The test (R47, R136) -/

/-- A test at a site where no job may be admitted, with no queued job, or that waits for a slot already, does nothing. -/
theorem testAdmission_idle (s : State) {i : SiteNo}
    (h : ¬ s.MayAdmit i ∨ (s.site i).queue = [] ∨ s.log.slotWaiters[i] = true) : s.testAdmission i = s := by
  unfold State.testAdmission
  rw [if_neg]
  intro hc
  obtain ⟨hready, hwait⟩ := Bool.and_eq_true_iff.mp hc
  obtain ⟨hmay, hqueue⟩ := (readyToAdmit_iff s i).mp hready
  rcases h with h | h | h
  · exact h hmay
  · exact hqueue h
  · simp [h] at hwait

section Ready

variable {s : State} {i : SiteNo} {p : Posting} {rest : List Posting}

/-- A test that finds a head job asks for a slot. -/
theorem testAdmission_asks (hmay : s.MayAdmit i) (hq : (s.site i).queue = p :: rest) (hwait : s.log.slotWaiters[i] = false) :
    s.testAdmission i = s.askSlot i := by
  have hready := (readyToAdmit_iff s i).mpr ⟨hmay, by rw [hq]; exact List.cons_ne_nil _ _⟩
  rw [State.testAdmission, if_pos (by rw [hready, hwait]; rfl)]

/-- With the log full the site joins the slot-waiter set. -/
theorem testAdmission_full (hmay : s.MayAdmit i) (hq : (s.site i).queue = p :: rest) (hwait : s.log.slotWaiters[i] = false)
    (hfull : 256 ≤ s.log.records.length + s.log.reservations) : s.testAdmission i =
      { s with log := { s.log with slotWaiters := s.log.slotWaiters.set i.val true i.isLt } } := by
  rw [testAdmission_asks hmay hq hwait, State.askSlot, if_neg (show ¬ s.log.slotsInUse < Config.logSlots from Nat.not_lt.mpr hfull)]
  rfl

/-- With a free slot the head job is admitted, and LOG_HIGH is evaluated on the slots then in use. -/
theorem testAdmission_admits (hmay : s.MayAdmit i) (hq : (s.site i).queue = p :: rest)
    (hwait : s.log.slotWaiters[i] = false) (hroom : s.log.records.length + s.log.reservations < 256)
    {t : State} (ht : t = s.testAdmission i) :
    t.site i = (s.site i).admitted p rest s.td.number ∧ (∀ k : SiteNo, k ≠ i → t.site k = s.site k) ∧
      t.log = { s.log with
        reservations := s.log.reservations + 1
        logHigh := logHighAfter s.log.logHigh (s.log.records.length + (s.log.reservations + 1)) } ∧
      t.mon = (if t.log.logHigh = s.log.logHigh then s.mon else { s.mon with
        flags := { s.mon.flags with logHigh := true }, pending := s.mon.pending || t.enabledFlag .global }) ∧
      t.link = { s.link with outq := s.link.outq
        ++ (if t.log.logHigh ≠ s.log.logHigh ∧ s.mon.pending = false ∧ t.enabledFlag .global = true
            then [t.noticeOf .global] else []) } ∧
      t = { s with sites := t.sites, log := t.log, mon := t.mon, link := t.link } := by
  rw [testAdmission_asks hmay hq hwait, State.askSlot,
    if_pos (show s.log.slotsInUse < Config.logSlots from hroom), admitHead_eq s hq] at ht
  obtain ⟨hlog, hmon, hlink, hall⟩ := evalLogHigh_changes ht
  have hsite : ∀ k, t.site k = (s.setSite i ((s.site i).admitted p rest s.td.number)).site k := fun k => by
    rw [ht, site_evalLogHigh, site_setLog]
  refine ⟨by rw [hsite, site_setSite], fun k hk => by rw [hsite, site_setSite_ne _ _ hk], hlog, hmon, hlink, ?_⟩
  rw [hall]
  rfl

end Ready

/-! ### The statements -/

/-- Settles O29: the posted job is the head of an empty queue, so its admission is that of `testAdmission`, with the reply behind
the notice. -/
theorem provisionAdmitsQueuesOrWaits : Obligations.ProvisionAdmitsQueuesOrWaits := by
  unfold Obligations.ProvisionAdmitsQueuesOrWaits
  intro s f rest i p hfront hpay hon hq hwait
  generalize hu : (s.taken rest).setSite i { s.site i with queue := [p] } = u
  have husite : u.site i = { s.site i with queue := [p] } := by rw [← hu, site_setSite]
  have huqueue : (u.site i).queue = [p] := by rw [husite]
  have huwait : u.log.slotWaiters[i] = false := by rw [← hu]; exact hwait
  have hexec : exec .provision s = .next ((u.testAdmission i).push (replyTo f .ok [BitVec.ofNat 8 i.val, 1])) := by
    have hq' : ((s.taken rest).site i).queue = [] := hq
    obtain ⟨-, -, hpost⟩ := doProvision_at (s.taken rest) hpay
    rw [exec_provision hfront (by rw [hpay]; exact length_payload i p), hpost hon (by rw [hq']; exact Nat.two_pos),
      State.postJob, hq', ← hu]
    rfl
  have hmay : u.MayAdmit i ↔ s.MayAdmit i := by
    constructor <;> rintro ⟨hopen, hseated, hused, hjob, hsupply⟩ <;> subst hu <;>
      exact ⟨hopen, by simpa using hseated, by simpa using hused, by simpa using hjob, hsupply⟩
  refine ⟨fun hnot => ?_, fun hyes => ⟨fun hfull => ?_, fun hroom => ?_⟩⟩
  · rw [hexec, testAdmission_idle u (.inl (mt hmay.mp hnot)), ← hu]; rfl
  · rw [hexec, testAdmission_full (hmay.mpr hyes) huqueue huwait (by rw [← hu]; exact hfull), ← hu]; rfl
  · generalize ht : u.testAdmission i = t at hexec
    obtain ⟨hsite, hothers, hlog, hmon, hlink, hall⟩ :=
      testAdmission_admits (hmay.mpr hyes) huqueue huwait (by rw [← hu]; exact hroom) ht.symm
    refine ⟨_, hexec, ?_, fun k hk => ?_, ?_, ?_, ?_, ?_⟩
    · rw [site_push, hsite, husite, ← hu]; rfl
    · rw [site_push, hothers k hk, ← hu, site_setSite_ne _ _ hk]; rfl
    · rw [push_log, hlog, ← hu]; rfl
    · rw [push_mon, hmon, ← hu]; rfl
    · rw [push_link, hlink, ← hu]; rfl
    · rw [← hu] at hall
      conv_lhs => rw [hall]
      rfl

/-- Settles O39: after what each event does before, both are the test of `testAdmission`. -/
theorem admissionTestedAtSeatingAndSupply : Obligations.AdmissionTestedAtSeatingAndSupply := by
  unfold Obligations.AdmissionTestedAtSeatingAndSupply
  intro s u i c hevent
  have hexec : exec c s = .next (u.testAdmission i) := by
    rcases hevent with ⟨n, rfl, hdeb, hseating, rfl⟩ | ⟨rfl, hon, htd, hcond, rfl⟩
    · simp only [exec, execDebounceExpiry, hdeb, hseating, if_true]
      rfl
    · have hfollow : (s.setOverLimitPin i false).following i = true := by
        simp [State.following, htd, show (s.setOverLimitPin i false).enabled i = true from hon]
      simp only [exec, execDieSupplyDeasserted, hfollow, Bool.true_and]
      rw [if_pos (show (s.setOverLimitPin i false).condOf i .dieSupply = true from hcond)]
  have hbefore : (u.site i).queue = (s.site i).queue ∧ (∀ k, k ≠ i → u.site k = s.site k) ∧ u.log = s.log ∧ u.td = s.td := by
    rcases hevent with ⟨n, rfl, hdeb, hseating, rfl⟩ | ⟨rfl, hon, htd, hcond, rfl⟩
    · split <;> simp +contextual [site_setSite_ne]
    · exact ⟨by rw [site_changeCond]; rfl, fun k _ => by rw [site_changeCond]; rfl, by simp, by simp⟩
  obtain ⟨hqueue, hsame, hlog, htd⟩ := hbefore
  refine ⟨fun hidle => ?_, fun p q hmay hq hwait => ⟨fun hfull => ?_, fun hroom => ?_⟩⟩
  · rw [hexec, testAdmission_idle u (by rw [hqueue, hlog]; exact hidle)]
  · rw [hexec, testAdmission_full hmay (hqueue.trans hq) (by rw [hlog]; exact hwait) (by rw [hlog]; exact hfull), hlog]
  · generalize ht : u.testAdmission i = t at hexec
    obtain ⟨gsite, gothers, glog, gmon, glink, gall⟩ := testAdmission_admits hmay (hqueue.trans hq)
      (by rw [hlog]; exact hwait) (by rw [hlog]; exact hroom) ht.symm
    rw [hlog] at glog gmon glink
    rw [htd] at gsite
    refine ⟨t, hexec, gsite, fun k hk => (gothers k hk).trans (hsame k hk), glog, fun hkept => ⟨?_, ?_⟩, fun hchanged => ?_, gall⟩
    · rw [gmon, if_pos hkept]
    · rw [glink, if_neg (fun h => h.1 hkept), List.append_nil]
    · rw [gmon, if_neg hchanged]; exact ⟨rfl, rfl⟩

/-! ### Site inputs where no job is admitted or ended (R42 to R44, R148) -/

/-- While the active jobs and Touchdown Control stand as they did, no lift completes. -/
theorem State.LiftInv.finishLift_of_active {s t : State} (h : s.LiftInv) (htd : t.td = s.td)
    (hact : ∀ k, t.active k = s.active k) : t.finishLift = t := by
  unfold State.finishLift
  rw [if_neg]
  intro hdone
  obtain ⟨hlift, hidle⟩ := Bool.and_eq_true_iff.mp hdone
  rw [State.anyActive, funext hact, ← State.anyActive, h.active (by rw [← htd]; exact hlift)] at hidle
  cases hidle

/-- A condition declared at a site without a job, which leaves the slot-waiter set: there is no drive to cut and no lift to
complete. -/
theorem loss_idle {s r : State} {i : SiteNo} (c : SiteCond) (o : JobOutcome) (hjob : (r.site i).job = none) (hlift : s.LiftInv)
    (htd : r.td = s.td) (hact : ∀ k, r.active k = s.active k) :
    (((r.changeCond i c true).setSlotWaiter i false).driveCut i o).finishLift =
      (r.changeCond i c true).setSlotWaiter i false := by
  generalize hu : (r.changeCond i c true).setSlotWaiter i false = u
  have hsite : ∀ k, u.site k = r.site k := fun k => by rw [← hu, site_setSlotWaiter, site_changeCond]
  have hcut : u.driveCut i o = u := by rw [State.driveCut, hsite, hjob]
  rw [hcut]
  refine hlift.finishLift_of_active (by rw [← hu, ← htd]; simp) fun k => ?_
  rw [State.active, hsite, ← State.active, hact]

/-- Settles O38: each input and timer by the site's posture. -/
theorem siteInputsFollowed : Obligations.SiteInputsFollowed := by
  unfold Obligations.SiteInputsFollowed
  refine ⟨fun s i => ?_, fun s i hne => ?_, fun s i hseated hjob hlift => ?_, fun s i n htimer => ?_,
    fun s i n htimer hne => ?_, fun s i hoff => ?_, fun s i hon htd hjob hlift => ?_, fun s i hoff => ?_⟩
  · simp only [exec, execContactSensed, show (s.setContactPin i true).site i = s.site i from rfl]
    cases (s.site i).posture <;> rfl
  · simp only [exec, execContactDropped, show (s.setContactPin i false).site i = s.site i from rfl]
    cases hp : (s.site i).posture
    case seated => exact absurd hp hne
    all_goals rfl
  · simp only [exec, execContactDropped, show (s.setContactPin i false).site i = s.site i from rfl, hseated]
    refine congrArg _ (loss_idle .contact .contactLost (by simpa using hjob) hlift rfl fun k => ?_)
    by_cases e : k = i
    · subst e; simp [State.active]
    · rw [State.active, site_setSite_ne _ _ e]; rfl
  · simp only [exec, execSeatTimeoutExpiry, htimer]
    cases (s.site i).posture <;> rfl
  · simp only [exec, execDebounceExpiry, htimer, if_neg hne]
  · have hnot : (s.setOverLimitPin i true).following i = false := by
      rcases hoff with h | h
      · simp [State.following, show (s.setOverLimitPin i true).enabled i = false from h]
      · simp [State.following, h]
    simp only [exec, execDieSupplyAsserted, hnot, Bool.false_eq_true, if_false]
  · have hfollow : (s.setOverLimitPin i true).following i = true := by
      simp [State.following, htd, show (s.setOverLimitPin i true).enabled i = true from hon]
    simp only [exec, execDieSupplyAsserted, hfollow, if_true]
    exact congrArg _ (loss_idle .dieSupply .dieSupplyFault hjob hlift rfl fun _ => rfl)
  · have hnot : ((s.setOverLimitPin i false).following i && (s.setOverLimitPin i false).condOf i .dieSupply) = false := by
      rcases hoff with h | h | h
      · simp [State.following, show (s.setOverLimitPin i false).enabled i = false from h]
      · simp [State.following, h]
      · simp [show (s.setOverLimitPin i false).condOf i .dieSupply = false from h]
    simp only [exec, execDieSupplyDeasserted, hnot, Bool.false_eq_true, if_false]

end Sys2Proof.Machine
end

section
/-!
SUPPORT. CANCEL and the orderly abort that it starts (R57, R60, R72, R112, R115), in the words of the statements.
-/
namespace Sys2Proof.Machine

/-! ### Liftoff completion ahead of a frame placed (R131, R165) -/

/-- The machine with its link replaced. -/
def State.setLink (s : State) (l : Link) : State := { s with link := l }

theorem push_eq_setLink (s : State) (o : OutFrame) : s.push o = s.setLink { s.link with outq := s.link.outq ++ [o] } := rfl

theorem liftSite_setLink (s : State) (l : Link) (i : SiteNo) : (s.setLink l).liftSite i = (s.liftSite i).setLink l := by
  unfold State.liftSite
  rw [show (s.setLink l).enabled i = s.enabled i from rfl]
  cases s.enabled i <;> rfl

theorem foldl_liftSite_setLink (sites : List SiteNo) (s : State) (l : Link) :
    sites.foldl State.liftSite (s.setLink l) = (sites.foldl State.liftSite s).setLink l := by
  induction sites generalizing s with
  | nil => rfl
  | cons i sites ih => rw [List.foldl_cons, liftSite_setLink, ih, List.foldl_cons]

/-- What stands in the output queue matters to nothing but the link when a lift completes. -/
theorem finishLift_setLink (s : State) (l : Link) : ∃ l', (s.setLink l).finishLift = s.finishLift.setLink l' := by
  have hcomplete : ∃ l', (s.setLink l).completeLift = s.completeLift.setLink l' := by
    have hsites := foldl_liftSite_setLink allSites (s.setTd { s.td with state := .clear, deferred := none, liftCount := 0 }) l
    have htd : (s.setLink l).td = s.td := rfl
    have hset : ∀ t, (s.setLink l).setTd t = (s.setTd t).setLink l := fun _ => rfl
    simp only [State.completeLift, forSites, htd, hset, hsites]
    cases s.td.deferred with
    | none => exact ⟨l, rfl⟩
    | some tag => exact ⟨{ l with outq := l.outq ++ [deferredReply tag s.td] }, rfl⟩
  unfold State.finishLift
  rw [show (s.setLink l).td.state.lifting = s.td.state.lifting from rfl, show (s.setLink l).anyActive = s.anyActive from rfl]
  split
  · exact hcomplete
  · exact ⟨l, rfl⟩

/-- A job end as another context of the same record tells it. -/
theorem State.JobEnded.congr {s t : State} {i : SiteNo} {j j' : Job} {o : JobOutcome} (h : s.JobEnded t i j o)
    (hrec : s.lastRecord i j' o = s.lastRecord i j o) : s.JobEnded t i j' o := by
  obtain ⟨hjob, hexch, hqueue, hlast, hres, hkey, hflag⟩ := h
  exact ⟨hjob, hexch, hqueue, by rw [hrec]; exact hlast, hres, hkey, hflag⟩

theorem State.JobEnded.setLink {s t : State} {i : SiteNo} {j : Job} {o : JobOutcome} (h : s.JobEnded t i j o) (l : Link) :
    s.JobEnded (t.setLink l) i j o := by
  obtain ⟨hjob, hexch, hqueue, hrec, hres, hkey, hflag⟩ := h
  exact ⟨hjob, hexch, hqueue, hrec, hres, hkey, hflag⟩

theorem State.OnlyEnds.setLink {s t : State} {i : SiteNo} (h : s.OnlyEnds t i) (l : Link) :
    s.OnlyEnds (t.setLink l) i := by
  obtain ⟨hothers, harb, hcfg, hdies, htd, hstill⟩ := h
  exact ⟨hothers, harb, hcfg, hdies, htd, hstill⟩

/-! ### Orderly abort (R57, R72) -/

/-- A frame placed in the output queue is not read by grants. -/
theorem State.Grants.push {s t : State} (h : s.Grants t) (o : OutFrame) : (s.push o).Grants (t.push o) := by
  have hafter : t.push o = { t with link := (s.push o).link, dies := s.dies, mon := s.mon, td := s.td } := by
    rw [h.frame]; rfl
  rw [hafter]
  exact h.beside (s.push o).link s.dies s.mon s.td

/-- No job, or one in ENDING, is left alone (R58). -/
theorem abort_idle (s : State) (i : SiteNo) (p : PendingEnd) (h : ∀ j, (s.site i).job = some j → j.phase = .ending) :
    s.abort i p = s := by
  unfold State.abort
  split
  · rfl
  · next j hj => rw [if_pos (h j hj)]

section Abort

variable {s : State} {i : SiteNo} {j : Job} (p : PendingEnd)

/-- An abort with an exchange in progress: the exchange loses its retry, and the job waits for its end. -/
theorem abort_exchanging {x : Exchange} (hj : (s.site i).job = some j) (hp : j.phase ≠ .ending)
    (hx : (s.site i).port.exch = some x) (hw : s.arb.waiting[i] = none) :
    s.abort i p = s.siteWith i (j.aborting p) (some { x with retry := false }) := by
  simp only [State.abort, hj, if_neg hp, hx, withdraw_none s i hw, Option.map_some, Option.isSome_some]
  rw [setExch_siteWith s i j _ hj]
  exact (setJob_siteWith _ _ _).trans (by rw [siteWith_siteWith, siteWith_site]; rfl)

/-- An abort without an exchange is the withdrawal of a waiting request and the next step of the ending. -/
theorem abort_free (hj : (s.site i).job = some j) (hp : j.phase ≠ .ending) (hx : (s.site i).port.exch = none) :
    s.abort i p = (s.withdraw i).doMove i (j.aborting p).endingNext := by
  have hself : (s.withdraw i).setExch i none = s.withdraw i := by
    have hsite := (withdraw_self s i).1
    rw [setExch_siteWith _ i j _ (by rw [hsite]; exact hj)]
    exact siteWith_self _ i j _ (by rw [hsite]; exact hj) (by rw [hsite]; exact hx)
  simp only [State.abort, hj, if_neg hp, hx, Option.map_none, Option.isSome_none, hself]
  rfl

/-- With its row open it sends one CLOSE ROW without a retry. -/
theorem abort_rowOpen (hj : (s.site i).job = some j) (hp : j.phase ≠ .ending) (hx : (s.site i).port.exch = none)
    (ho : j.engine.rowOpen = true) : s.abort i p = (s.withdraw i).siteWith i (j.aborting p).lastClose
      (some (Exchange.fresh s.cfg (.closeRow j.engine.regionRow) false)) := by
  have hnext : (j.aborting p).endingNext = ((j.aborting p).lastClose, .send (.closeRow j.engine.regionRow) false) :=
    if_pos ho
  rw [abort_free p hj hp hx, hnext, doMove_send, withdraw_cfg]

/-- With no row open it ends at once. -/
theorem abort_rowClosed (hj : (s.site i).job = some j) (hp : j.phase ≠ .ending) (hx : (s.site i).port.exch = none)
    (ho : j.engine.rowOpen = false) (hw : s.arb.waiting[i] = none) :
    s.abort i p = s.doMove i (j.aborting p, .finish p.outcome) := by
  have hnext : (j.aborting p).endingNext = (j.aborting p, .finish p.outcome) := by
    unfold Job.endingNext
    rw [if_neg (by simp [Job.aborting, ho])]
    rfl
  rw [abort_free p hj hp hx, hnext, withdraw_none s i hw]

/-- What grants follow the withdrawal of an aborted job's request do not depend on what its site goes on with. -/
theorem withdraw_siteWith (j' : Job) (x : Option Exchange) {d : Nat} (hw : s.arb.waiting[i] = some d) :
    ((s.siteWith i j' x).unwait i).Grants ((s.withdraw i).siteWith i j' x) := by
  have hgrants := (withdraw_grants s i hw).setSite i (by simp [State.unwait])
    { s.site i with job := some j', port := { (s.site i).port with exch := x } }
  have hafter : (s.withdraw i).siteWith i j' x =
      (s.withdraw i).setSite i { s.site i with job := some j', port := { (s.site i).port with exch := x } } := by
    rw [State.siteWith, (withdraw_self s i).1]
  rw [hafter]
  exact hgrants

end Abort

/-! ### The request (R60) -/

/-- A CANCEL in front is carried out. -/
theorem exec_cancel {s : State} {f : InFrame} {rest : List InFrame} {b c : Byte} (h : s.Front 0x13 f rest)
    (hpay : f.payload = [b, c]) : exec .cancel s = .next ((s.taken rest).doCancel f) :=
  takeRequest_front h (ok := lengthIs 2) (by rw [hpay]; rfl) State.doCancel

theorem cancelScope_above {c : Byte} (h : 2 < c.toNat) : cancelScope c = none := by
  unfold cancelScope
  rw [if_neg, if_neg, if_neg] <;> (rintro rfl; revert h; decide)

theorem dropQueue_unqueued (s : State) (i : SiteNo) : s.dropQueue i = s.unqueued i := rfl

/-- The jobs queued at a site do not make it active. -/
theorem unqueued_site (s : State) (i k : SiteNo) :
    ((s.unqueued i).site k).job = (s.site k).job ∧ ((s.unqueued i).site k).port = (s.site k).port := by
  rw [← dropQueue_unqueued, State.dropQueue, site_setSlotWaiter]
  by_cases e : k = i
  · subst e; simp
  · rw [site_setSite_ne _ _ e]; exact ⟨rfl, rfl⟩

/-- What a CANCEL drops first leaves the active jobs, the port and the other blocks as they were. -/
theorem State.CancelsFirst.keeps {s u : State} {i : SiteNo} {scope : Byte} {removed : List Posting}
    (h : s.CancelsFirst i scope removed u) :
    (∀ k, (u.site k).job = (s.site k).job ∧ (u.site k).port = (s.site k).port) ∧ u.arb = s.arb ∧ u.cfg = s.cfg ∧
      u.td = s.td := by
  rcases h with ⟨-, -, rfl⟩ | ⟨-, -, rfl⟩
  · exact ⟨fun _ => ⟨rfl, rfl⟩, rfl, rfl, rfl⟩
  · exact ⟨unqueued_site s i, rfl, rfl, rfl⟩

/-- A CANCEL that takes the active job: what it drops first, the orderly abort, the reply, and the lift that may complete. -/
theorem exec_cancel_active {s u : State} {f : InFrame} {rest : List InFrame} {i : SiteNo} {scope : Byte}
    {removed : List Posting} (h : s.Front 0x13 f rest) (hpay : f.payload = [BitVec.ofNat 8 i.val, scope])
    (hfirst : s.CancelsFirst i scope removed u) : exec .cancel s = .next
      (((u.taken rest).abort i .aborted).push (replyTo f .ok (cancelFields removed (s.activeResult i)))).finishLift := by
  have hsite : siteAt f.payload 0 = some i := by rw [hpay]; exact siteAt_zero i _
  rw [exec_cancel h hpay, State.doCancel, hsite]
  rcases hfirst with ⟨rfl, rfl, rfl⟩ | ⟨rfl, rfl, rfl⟩
  · rw [show cancelScope (byteAt f.payload 1) = some (false, true) by rw [hpay]; rfl]
    rfl
  · rw [show cancelScope (byteAt f.payload 1) = some (true, true) by rw [hpay]; rfl]
    rfl

/-! ### The statements -/

/-- A CANCEL whose orderly abort leaves the job active is the abort with the reply behind it. -/
theorem exec_cancel_goesOn {s u w : State} {f : InFrame} {rest : List InFrame} {i : SiteNo} {scope : Byte}
    {removed : List Posting} {j : Job} (h : s.Front 0x13 f rest) (hpay : f.payload = [BitVec.ofNat 8 i.val, scope])
    (hfirst : s.CancelsFirst i scope removed u) (hj : (s.site i).job = some j) (hp : j.phase ≠ .ending)
    (hw : (u.taken rest).abort i .aborted = w) (hactive : w.active i = true) :
    exec .cancel s = .next (w.push (replyTo f .ok (cancelFields removed 1))) := by
  have hresult : s.activeResult i = 1 := by simp [State.activeResult, hj, hp]
  rw [exec_cancel_active h hpay hfirst, hw, hresult, finishLift_active (w.push _) i hactive]

/-- A CANCEL whose orderly abort ends the job at once (R55, R57). -/
theorem exec_cancel_ends {s u : State} {f : InFrame} {rest : List InFrame} {i : SiteNo} {scope : Byte}
    {removed : List Posting} {j : Job} (h : s.Front 0x13 f rest) (hpay : f.payload = [BitVec.ofNat 8 i.val, scope])
    (hfirst : s.CancelsFirst i scope removed u) (hj : (s.site i).job = some j) (hp : j.phase ≠ .ending)
    (hx : (s.site i).port.exch = none) (ho : j.engine.rowOpen = false) (hw : s.arb.waiting[i] = none) :
    ∃ t : State, exec .cancel s = .next t ∧ u.JobEnded t i j .aborted ∧ u.OnlyEnds t i ∧
      replyTo f .ok (cancelFields removed 1) ∈ t.link.outq := by
  obtain ⟨hsites, harb, -, -⟩ := hfirst.keeps
  have huj : ((u.taken rest).site i).job = some j := (hsites i).1.trans hj
  have hux : ((u.taken rest).site i).port.exch = none := by rw [show ((u.taken rest).site i).port = _ from (hsites i).2, hx]
  have habort := abort_rowClosed (s := u.taken rest) .aborted huj hp hux ho (by rw [show (u.taken rest).arb = _ from harb, hw])
  have hresult : s.activeResult i = 1 := by simp [State.activeResult, hj, hp]
  have hexec := exec_cancel_active h hpay hfirst
  rw [habort, hresult] at hexec
  generalize ho' : replyTo f .ok (cancelFields removed 1) = o at hexec ⊢
  generalize hv : (u.taken rest).doMove i (j.aborting .aborted, .finish PendingEnd.aborted.outcome) = v at hexec
  obtain ⟨l, hl⟩ := finishLift_setLink v { v.link with outq := v.link.outq ++ [o] }
  refine ⟨_, hexec, ?_, ?_, mem_outq_finishLift (by simp)⟩
  · have hended := (jobEnded_finish u (u.taken rest) i (j.aborting .aborted) j .aborted
      (by rw [← huj, ← hux]; rfl) rfl rfl rfl).1
    rw [push_eq_setLink, hl, ← hv]
    exact (hended.setLink l).congr rfl
  · have honly := onlyEnds_endJob u ((u.taken rest).setJob i (some (j.aborting .aborted))) i (j.aborting .aborted) .aborted
      (by simp) (fun k hk => site_setJob_ne _ _ hk) (by rw [site_setJob]; rfl) rfl rfl rfl rfl
    rw [push_eq_setLink, hl, ← hv]
    exact honly.setLink l

/-- Settles O30: the abort by the job's exchange and row, from the state in which the queue has been dropped; a request is withdrawn
with its grants before the reply is placed, which the grants do not read. -/
theorem cancelQueuedAndActive : Obligations.CancelQueuedAndActive := by
  unfold Obligations.CancelQueuedAndActive
  refine ⟨fun s f rest b c hfront hpay hbad => ?_, fun s f rest i hfront hlift hpay => ?_,
    fun s u f rest i scope removed hfront hpay hfirst => ?_⟩
  · have hnone : siteAt f.payload 0 = none ∨ cancelScope (byteAt f.payload 1) = none := by
      rw [hpay]
      exact hbad.imp (siteAt_above _) cancelScope_above
    have hrefused : (s.taken rest).doCancel f = (s.taken rest).push (replyTo f .badField []) := by
      unfold State.doCancel
      rcases hnone with h | h
      · rw [h]; rfl
      · rw [h]; cases siteAt f.payload 0 <;> rfl
    rw [exec_cancel hfront hpay, hrefused, answered_push]
  · have hsite : siteAt f.payload 0 = some i := by rw [hpay]; exact siteAt_zero i _
    have hscope : cancelScope (byteAt f.payload 1) = some (true, false) := by rw [hpay]; rfl
    have hdone : (s.taken rest).doCancel f =
        ((s.unqueued i).answered rest (replyTo f .ok (cancelFields (s.site i).queue 0))).finishLift := by
      rw [State.doCancel, hsite, hscope]; rfl
    rw [exec_cancel hfront hpay, hdone, hlift.finishLift_of_active (t := (s.unqueued i).answered rest _) rfl
      fun k => congrArg Option.isSome (unqueued_site s i k).1]
  obtain ⟨hsites, harb, hcfg, htd⟩ := hfirst.keeps
  have hjob : ((u.taken rest).site i).job = (s.site i).job := (hsites i).1
  have hport : ((u.taken rest).site i).port = (s.site i).port := (hsites i).2
  have hwait : (u.taken rest).arb.waiting[i] = s.arb.waiting[i] := by rw [show (u.taken rest).arb = s.arb from harb]
  refine ⟨fun hlift => ?_, fun j x hj hp hx hw => ?_, fun j hj hp hx => ⟨fun ho => ?_, fun ho hw => ?_⟩⟩
  · have hidle : (∀ j, (s.site i).job = some j → j.phase = .ending) → exec .cancel s =
        .next (u.answered rest (replyTo f .ok (cancelFields removed (s.activeResult i)))) := fun h => by
      rw [exec_cancel_active hfront hpay hfirst, abort_idle _ i _ (by rw [hjob]; exact h),
        hlift.finishLift_of_active (t := (u.taken rest).push _) htd fun k => congrArg Option.isSome (hsites k).1,
        answered_push]
    refine ⟨fun hnone => ?_, fun j hj hend => ?_⟩
    · rw [hidle (by simp [hnone])]; simp [State.activeResult, hnone]
    · rw [hidle (by simp [hj, hend])]; simp [State.activeResult, hj, hend]
  · rw [exec_cancel_goesOn hfront hpay hfirst hj hp
      (abort_exchanging .aborted (hjob.trans hj) hp (by rw [hport, hx]) (hwait.trans hw)) (siteWith_active _ _ _ _), ← hport]
    rfl
  · have habort := abort_rowOpen (s := u.taken rest) .aborted (hjob.trans hj) hp (by rw [hport, hx]) ho
    rw [show (u.taken rest).cfg = s.cfg from hcfg] at habort
    refine ⟨_, _, exec_cancel_goesOn hfront hpay hfirst hj hp habort (siteWith_active _ _ _ _), rfl, fun hw => ?_, fun d hd => ?_⟩
    · rw [withdraw_none _ i (hwait.trans hw)]; rfl
    · have hgrants := withdraw_siteWith (s := u.taken rest) (j.aborting .aborted).lastClose
        (some (Exchange.fresh s.cfg (.closeRow j.engine.regionRow) false)) (hwait.trans hd)
      exact hgrants.push _
  · exact exec_cancel_ends hfront hpay hfirst hj hp hx ho hw

/-! ### A job in KEY_WAIT (R27, R30, R57) -/

/-- A job end other than for a lost link (R55): the accounts, the context gone, and RECORD_ADDED reported. -/
theorem endJob_eq (s : State) (i : SiteNo) {j : Job} {o : JobOutcome} (hj : (s.site i).job = some j) (ho : o ≠ .linkLost) :
    s.endJob i o = ((s.accountEnd i j o).setJob i none).latchGlobal .recordAdded := by
  simp only [State.endJob, hj, if_neg ho]

/-- Outside LIFTING no job end is counted (R130). -/
theorem countEnd_still {d : Touchdown} (h : d.state.lifting = false) : d.countEnd = d := by
  rw [Touchdown.countEnd, h]; rfl

/-- A job in KEY_WAIT has no exchange, no row open, no request and no key (R19, R27, R84, R111). -/
theorem State.SiteInv.keyWait {s : State} (h : s.SiteInv) {i : SiteNo} {j : Job} (hj : (s.site i).job = some j)
    (hp : j.phase = .keyWait) : (s.site i).port.exch = none ∧ j.engine.rowOpen = false ∧ s.arb.waiting[i] = none ∧
      s.ks.bound[i] = none := by
  have hok := (h.sites i).job j hj
  obtain ⟨hidle, hbound, -⟩ := hok.early (by rw [hp]; rfl)
  refine ⟨(hok.keyWait hp).2, by rw [hidle]; rfl, ?_, hbound⟩
  cases hw : s.arb.waiting[i] with
  | none => rfl
  | some d =>
    obtain ⟨-, -, hstage, -⟩ := hok.waiting d hw
    rw [hidle] at hstage
    cases hstage

/-- Settles O31: the waiting job ends by its abort at once; RECORD_ADDED is reported ahead of the reply, and no lift completes in
OPEN. -/
theorem cancelAllEndsAWaitingJob : Obligations.CancelAllEndsAWaitingJob := by
  unfold Obligations.CancelAllEndsAWaitingJob
  intro s f rest i j hfront hinv hpay hj hphase hopen
  obtain ⟨hx, hrow, hw, hbound⟩ := hinv.keyWait hj hphase
  have hp : j.phase ≠ .ending := by rw [hphase]; decide
  generalize ho : replyTo f .ok (cancelFields (s.site i).queue 1) = o
  generalize hu : (s.unqueued i).taken rest = u
  have husite : u.site i = { s.site i with queue := [] } := by
    rw [← hu]; exact (site_setSlotWaiter _ i i false).trans (site_setSite s i _)
  have hothers : ∀ k, k ≠ i → u.site k = s.site k := fun k hk => by
    rw [← hu]; exact (site_setSlotWaiter _ i k false).trans (site_setSite_ne s _ hk)
  generalize hX : (((u.setJob i (some (j.aborting .aborted))).accountEnd i (j.aborting .aborted) .aborted).setJob i none) = X
  generalize hv : X.latchGlobal .recordAdded = v
  have hexec : exec .cancel s = .next (v.push o) := by
    have habort := abort_rowClosed (s := u) .aborted (by rw [husite]; exact hj) hp (by rw [husite]; exact hx) hrow
      (by rw [← hu]; exact hw)
    have hresult : s.activeResult i = 1 := by simp [State.activeResult, hj, hp]
    have hend : u.doMove i (j.aborting .aborted, .finish .aborted) = v := by
      rw [← hv, ← hX]; exact endJob_eq (u.setJob i (some (j.aborting .aborted))) i (by rw [site_setJob]) (by decide)
    have hstill : (v.push o).finishLift = v.push o := by
      have htd : (v.push o).td.state = .opened := by
        rw [← hend, ← hopen, ← hu]; simp [State.doMove, State.doAct, State.unqueued, State.taken]
      rw [State.finishLift, htd]; rfl
    rw [exec_cancel_active hfront hpay (.inr ⟨rfl, rfl, rfl⟩), hu, habort, hresult, ho,
      show PendingEnd.aborted.outcome = .aborted from rfl, hend, hstill]
  obtain ⟨hmon, hlink, hall⟩ := latchGlobal_eq hv.symm
  have hXsite : ∀ k, X.site k = ((u.setJob i (some (j.aborting .aborted))).setJob i none).site k := fun k => by rw [← hX]; rfl
  refine ⟨_, hexec, ?_, fun k hk => ?_, ?_, ?_, ?_, ?_, ?_⟩
  · rw [site_push, ← hv, site_latchGlobal, hXsite, site_setJob, site_setJob, husite]
  · rw [site_push, ← hv, site_latchGlobal, hXsite, site_setJob_ne _ _ hk, site_setJob_ne _ _ hk, hothers k hk]
  · rw [push_ks, ← hv, latchGlobal_ks, ← hX, ← hu]
    refine congrArg (fun b => ({ s.ks with bound := b, waitList := _ } : KeyStore)) ?_
    exact (congrArg (fun v => s.ks.bound.set i.val v i.isLt) hbound.symm).trans (Vector.set_getElem_self i.isLt)
  · rw [push_log, ← hv, latchGlobal_log, ← hX, ← hu]
    have hrecord : State.recordOf (((s.unqueued i).taken rest).setJob i (some (j.aborting .aborted))) i
        (j.aborting .aborted) .aborted =
          { seq := s.log.nextSeq, posting := j.posting, site := i, touchdown := j.touchdown,
            outcome := .aborted, disposition := .none, keyIndex := none, relocated := relocatedCount j.map,
            corrected := j.corrected, pulses := j.pulses, failingRow := none } := by
      have hb : (((s.unqueued i).taken rest).setJob i (some (j.aborting .aborted))).ks.bound[i] = none := hbound
      simp only [State.recordOf, hb]
      rfl
    rw [setJob_log, accountEnd_log, hrecord]
    rfl
  · rw [push_mon, hmon, ← hX, ← hu]; rfl
  · rw [push_link, hlink, ← hX, ← hu, ← ho]; rfl
  · have hrest : X = { s with
        sites := X.sites, ks := X.ks, log := X.log, mon := X.mon, link := X.link, td := X.td } := by
      rw [← hX, ← hu]; rfl
    have htd : X.td = s.td := by
      rw [← hX, setJob_td, accountEnd_td, setJob_td, ← hu]
      exact countEnd_still (congrArg TdState.lifting hopen)
    rw [hrest, htd] at hall
    rw [hall]
    rfl

end Sys2Proof.Machine
end

section
/-!
SUPPORT. The drive cut of a lost contact or an over-limit input (R44, R56, R114, R115, R148), in the words of the statements.
-/
namespace Sys2Proof.Machine

/-! ### The grants that a drive cut brings about -/

/-- The grants leave the log, the queues, the postures and the active jobs as they are. -/
theorem State.Grants.keepsBeside {s t : State} (h : s.Grants t) : Beside s t :=
  h.keeps (Beside s) (fun u i d hu _ => by rw [granted_eq]; exact hu.trans (beside_grantOne u i d)) (Beside.refl s)

/-- What the withdrawal and the release of a drive cut leave of a machine: the arbiter and the sites may change, and no unit
is left in flight at the site. -/
structure AfterRelease (s w : State) (i : SiteNo) : Prop where
  frame : w = { s with arb := w.arb, sites := w.sites }
  beside : Beside s w
  landed : w.arb.inFlight[i] = none

/-- Of the withdrawal: the grants in flight at the site are those of before. -/
theorem withdrawal_keeps {u v : State} {i : SiteNo} (hnone : u.arb.waiting[i] = none → v = u)
    (hsome : ∀ d, u.arb.waiting[i] = some d → (u.unwait i).Grants v) :
    v = { u with arb := v.arb, sites := v.sites } ∧ Beside u v ∧ v.arb.waiting[i] = none ∧
      v.arb.inFlight[i] = u.arb.inFlight[i] := by
  cases hw : u.arb.waiting[i] with
  | none => rw [hnone hw]; exact ⟨rfl, Beside.refl u, hw, rfl⟩
  | some d =>
    have hg := hsome d hw
    obtain ⟨-, hwait, hflight⟩ := hg.other i (by simp [State.unwait])
    exact ⟨hg.frame, (beside_setArb u _).trans hg.keepsBeside, hwait, hflight⟩

/-- Of the withdrawal and the release behind it. -/
theorem afterRelease_of_grants {u v w : State} {i : SiteNo} (hnone : u.arb.waiting[i] = none → v = u)
    (hsome : ∀ d, u.arb.waiting[i] = some d → (u.unwait i).Grants v) (hidle : u.arb.inFlight[i] = none → w = v)
    (hheld : ∀ d, u.arb.inFlight[i] = some d → (v.ungrant i d).Grants w) : AfterRelease u w i := by
  obtain ⟨hframe, hbeside, hwait, hflight⟩ := withdrawal_keeps hnone hsome
  cases hf : u.arb.inFlight[i] with
  | none => rw [hidle hf]; exact ⟨hframe, hbeside, hflight.trans hf⟩
  | some d =>
    have hg := hheld d hf
    refine ⟨hg.frame.trans ?_, (hbeside.trans (beside_setArb v _)).trans hg.keepsBeside,
      (hg.other i hwait).2.2.trans (by simp [State.ungrant])⟩
    rw [hframe]
    rfl

/-! ### The condition declared -/

/-- What happens ahead of a drive cut: the site's posture may change, and a condition is declared and latched (R150). -/
structure State.Declares (s r : State) (i : SiteNo) (c : SiteCond) : Prop where
  site : ∃ p, r.site i = { s.site i with posture := p }
  others : ∀ k : SiteNo, k ≠ i → r.site k = s.site k
  td : r.td = s.td
  ks : r.ks = s.ks
  arb : r.arb = s.arb
  log : r.log = s.log
  dies : r.dies = s.dies
  latched : (r.smon i).flags.get c = true
  declared : r.condOf i c = true

theorem declares_changeCond {s u : State} {i : SiteNo} {p : Posture} (c : SiteCond)
    (hsite : u.site i = { s.site i with posture := p }) (hothers : ∀ k : SiteNo, k ≠ i → u.site k = s.site k)
    (htd : u.td = s.td) (hks : u.ks = s.ks) (harb : u.arb = s.arb) (hlog : u.log = s.log) (hdies : u.dies = s.dies) :
    s.Declares (u.changeCond i c true) i c where
  site := ⟨p, by rw [site_changeCond, hsite]⟩
  others k hk := by rw [site_changeCond, hothers k hk]
  td := by rw [changeCond_td, htd]
  ks := by rw [changeCond_ks, hks]
  arb := by rw [changeCond_arb, harb]
  log := by rw [changeCond_log, hlog]
  dies := by rw [changeCond_dies, hdies]
  latched := by rw [(smon_changeCond u i c true).1, SiteBits.get_put]
  declared := condOf_changeCond u i c true

/-- The two events of a drive cut (R44, R148), with the condition, the outcome and the machine they lead to. -/
def State.CutEvent (s : State) (i : SiteNo) (c : Instr) (cond : SiteCond) (o : JobOutcome) (u : State) : Prop :=
  (c = .contactDropped i ∧ (s.site i).posture = .seated ∧ cond = .contact ∧ o = .contactLost ∧
      u = (((s.setContactPin i false).setSite i { s.site i with posture := .unseated }).changeCond i .contact true).undriven i) ∨
    (c = .dieSupplyAsserted i ∧ s.enabled i = true ∧ s.td.state ≠ .clear ∧ cond = .dieSupply ∧ o = .dieSupplyFault ∧
      u = ((s.setOverLimitPin i true).changeCond i .dieSupply true).undriven i)

/-- At such an event the condition is declared, the job's drive cut, and a lift left without a job completes. -/
theorem State.CutEvent.exec_eq {s u : State} {i : SiteNo} {c : Instr} {cond : SiteCond} {o : JobOutcome}
    (hevent : s.CutEvent i c cond o u) :
    ∃ r, u = r.undriven i ∧ s.Declares r i cond ∧ exec c s = .next ((r.setSlotWaiter i false).driveCut i o).finishLift := by
  rcases hevent with ⟨rfl, hseated, rfl, rfl, rfl⟩ | ⟨rfl, hon, htd, rfl, rfl, rfl⟩
  · refine ⟨_, rfl, declares_changeCond .contact (p := .unseated) (by rw [site_setSite])
      (fun k hk => by rw [site_setSite_ne _ _ hk]; rfl) rfl rfl rfl rfl rfl, ?_⟩
    simp only [exec, execContactDropped, show (s.setContactPin i false).site i = s.site i from rfl, hseated]
  · have hfollow : (s.setOverLimitPin i true).following i = true := by
      simp [State.following, htd, show (s.setOverLimitPin i true).enabled i = true from hon]
    refine ⟨_, rfl, declares_changeCond .dieSupply (p := (s.site i).posture) rfl (fun _ _ => rfl) rfl rfl rfl rfl rfl, ?_⟩
    simp only [exec, execDieSupplyAsserted, hfollow, if_true]

theorem State.CutEvent.outcome {s u : State} {i : SiteNo} {c : Instr} {cond : SiteCond} {o : JobOutcome}
    (hevent : s.CutEvent i c cond o u) : cond ≠ .link ∧ (o = .contactLost ∨ o = .dieSupplyFault) := by
  rcases hevent with ⟨-, -, rfl, rfl, -⟩ | ⟨-, -, -, rfl, rfl, -⟩
  · exact ⟨by decide, .inl rfl⟩
  · exact ⟨by decide, .inr rfl⟩

/-! ### The end at a drive cut -/

theorem abortOutcome_eq (j : Job) :
    j.abortOutcome = if j.pendingEnd = some .pumpTimeout then .pumpTimeout else .aborted := by
  unfold Job.abortOutcome
  cases j.pendingEnd with
  | none => rfl
  | some p => cases p <;> rfl

/-- The outcome of a drive cut (R56, R58): its own, or the pending end of a job in ENDING. -/
def Job.cutOutcome (j : Job) (o : JobOutcome) : JobOutcome := if j.phase = .ending then j.abortOutcome else o

/-- The outcomes a drive cut can bring are failures, and neither ROW_UNREPAIRABLE nor LOCK_FAILED nor LINK_LOST. -/
theorem cutOutcome_plain (j : Job) {o : JobOutcome} (ho : o = .contactLost ∨ o = .dieSupplyFault) :
    ¬ 0 < (j.cutOutcome o).value ∧ ¬ (j.cutOutcome o = .rowUnrepairable ∨ j.cutOutcome o = .lockFailed) ∧
      j.cutOutcome o ≠ .linkLost := by
  have hcases : j.cutOutcome o = .pumpTimeout ∨ j.cutOutcome o = .aborted ∨ j.cutOutcome o = .contactLost ∨
      j.cutOutcome o = .dieSupplyFault := by
    unfold Job.cutOutcome
    rw [abortOutcome_eq]
    split
    · split <;> simp
    · rcases ho with rfl | rfl <;> simp
  rcases hcases with h | h | h | h <;> rw [h] <;> decide

/-- The machine at the job end of a drive cut, as against the one before the event: the site undriven, its units given back. -/
structure State.CutTo (s w : State) (i : SiteNo) (c : SiteCond) : Prop where
  site : ∃ p, w.site i = { s.site i with posture := p, port := { driven := false, exch := none } }
  postures : ∀ k : SiteNo, k ≠ i → (w.site k).posture = (s.site k).posture
  active : ∀ k : SiteNo, w.active k = s.active k
  td : w.td = s.td
  ks : w.ks = s.ks
  log : w.log = { s.log with slotWaiters := s.log.slotWaiters.set i.val false i.isLt }
  waiting : w.arb.waiting[i] = none
  inFlight : w.arb.inFlight[i] = none
  die : w.die i = { s.die i with held := (s.die i).held.map (fun h => { h with live := false }), response := none }
  latched : (w.smon i).flags.get c = true
  declared : w.condOf i c = true

theorem cutTo_of_declares {s r w : State} {i : SiteNo} {c : SiteCond} {j : Job} (hj : (s.site i).job = some j)
    (hr : s.Declares r i c) (hw : AfterRelease (r.undriven i) w i) (hsite : w.site i = (r.undriven i).site i)
    (hwait : w.arb.waiting[i] = none) : s.CutTo w i c := by
  obtain ⟨p, hp⟩ := hr.site
  have hothers : ∀ k, k ≠ i → (r.undriven i).site k = s.site k := fun k hk =>
    (site_setSite_ne _ _ hk).trans (hr.others k hk)
  have hmon : w.mon = r.mon := by rw [hw.frame]; rfl
  refine ⟨⟨p, ?_⟩, fun k hk => ?_, fun k => ?_, ?_, ?_, ?_, hwait, hw.landed, ?_, ?_, ?_⟩
  · rw [hsite, undriven_site, hp]
  · rw [hw.beside.posture, hothers k hk]
  · rw [hw.beside.active]
    by_cases e : k = i
    · subst e; simp [State.active, undriven_site, hp, hj]
    · simp only [State.active, hothers k e]
  · rw [hw.frame]; exact hr.td
  · rw [hw.frame]; exact hr.ks
  · rw [hw.beside.log, ← hr.log]; rfl
  · have hdies : w.dies = (r.undriven i).dies := by rw [hw.frame]
    rw [State.die, hdies, show s.die i = r.die i by rw [State.die, State.die, hr.dies]]
    exact die_setDie _ i _
  · rw [State.smon, hmon]; exact hr.latched
  · rw [State.condOf, State.smon, hmon]; exact hr.declared

theorem State.CutTo.tdAfterEnd {s w : State} {i : SiteNo} {c : SiteCond} (h : s.CutTo w i c) :
    w.tdAfterEnd i = s.tdAfterEnd i := by
  simp only [State.tdAfterEnd, h.td, h.active]

/-- After a job end Touchdown Control is in the state it was in, or in CLEAR. -/
theorem tdAfterEnd_state (s : State) (i : SiteNo) : (s.tdAfterEnd i).state = s.td.state ∨ (s.tdAfterEnd i).state = .clear := by
  unfold State.tdAfterEnd
  split
  · exact .inl rfl
  · split
    · exact .inl rfl
    · exact .inr rfl

/-- The record of a drive cut. -/
theorem State.CutTo.lastRecord {s w : State} {i : SiteNo} {c : SiteCond} (h : s.CutTo w i c) (j : Job) {o : JobOutcome}
    (hplain : ¬ 0 < o.value ∧ ¬ (o = .rowUnrepairable ∨ o = .lockFailed)) :
    w.lastRecord i j o = {
      seq := s.log.nextSeq, posting := j.posting, site := i, touchdown := j.touchdown, outcome := o
      disposition := if (s.ks.bound[i]).isSome then .retired else .none
      keyIndex := (s.ks.bound[i]).map Key.index
      relocated := relocatedCount j.map, corrected := j.corrected, pulses := j.pulses, failingRow := none } := by
  simp only [State.lastRecord, h.log, h.ks, if_neg hplain.1, if_neg hplain.2]
  cases s.ks.bound[i] <;> rfl

/-- Settles O40: the drive cut is a withdrawal, a release and a job end, each with its own lemma; what the grants leave alone
carries the job's data from the event to its record. -/
theorem driveCutEndsTheJob : Obligations.DriveCutEndsTheJob := by
  unfold Obligations.DriveCutEndsTheJob
  intro s u i j c cond o hj hevent
  obtain ⟨hcond, ho⟩ := State.CutEvent.outcome hevent
  obtain ⟨r, hu, hr, hexec⟩ := State.CutEvent.exec_eq hevent
  obtain ⟨p, hp⟩ := hr.site
  obtain ⟨v, w, hcut, hnone, hsome, hidle, hheld, hsite, hwait⟩ := driveCut_grants r i j o (by rw [hp]; exact hj)
  have hw := cutTo_of_declares hj hr (afterRelease_of_grants hnone hsome hidle hheld) hsite hwait
  obtain ⟨q, hq⟩ := hw.site
  have hwj : (w.site i).job = some j := by rw [hq]; exact hj
  obtain ⟨hvalue, hrow, hlink⟩ := cutOutcome_plain j ho
  have houtcome : (if j.phase = .ending then (if j.pendingEnd = some .pumpTimeout then .pumpTimeout else .aborted) else o) =
      j.cutOutcome o := by rw [Job.cutOutcome, abortOutcome_eq]
  rw [hcut, show (if j.phase = .ending then j.abortOutcome else o) = j.cutOutcome o from rfl] at hexec
  have hended := jobEnded_endJob w i j (j.cutOutcome o) hwj (by rw [hq])
  have honly := onlyEnds_endJob w w i j (j.cutOutcome o) hwj (fun _ _ => rfl) rfl rfl rfl rfl rfl
  have hflags := (endJob_all w i j (j.cutOutcome o) hwj).2.2.2.2.1
  rw [if_neg hlink] at hflags
  rw [hr.arb.symm, houtcome, hu]
  refine ⟨v, w, _, hexec, hnone, hsome, hidle, hheld, hended, honly, honly.td.trans hw.tdAfterEnd, ?_, ?_, ?_, ?_, ?_, ?_, ?_,
    ?_, ?_, ?_, ?_, ?_, ?_, ?_, fun hstill => ?_, fun k hk => ?_⟩
  · rw [hended.exchange, hq]
  · rw [hended.queue.1, hq]
  · rw [hended.queue.2, hq]
  · rw [honly.arb]; exact hw.waiting
  · rw [honly.arb]; exact hw.inFlight
  · rw [hended.key]; simp
  · rw [hended.key]; simp
  · rw [hended.key, hw.ks]
  · rw [finishLift_log, endJob_log_slotWaiters, hw.log]; simp
  · rw [State.die, honly.dies]; exact hw.die
  · rw [hended.record, hw.lastRecord j ⟨hvalue, hrow⟩, hw.log]
  · rw [hended.reservation, hw.log]
  · rw [(finishLift_keeps _ i).2.2.2.2.1, hflags]; exact hw.latched
  · rw [hended.recordAdded]
  · rw [finishLift_still _ (hstill.trans ?_), endJob_condOf_ne _ _ (.inr hcond)]
    · exact hw.declared
    · rw [← hw.td]; simp
  · rcases tdAfterEnd_state w i with hsame | hclear
    · refine .inl ?_
      rw [(honly.still (by rw [honly.td, hsame])).1 k hk, hw.postures k hk]
    · exact .inr (by rw [honly.td, hclear])

end Sys2Proof.Machine
end

section
/-!
SUPPORT. The end of a PULSE (R59, R70, R90, R93, R114), in the words of the statements.
-/
namespace Sys2Proof.Machine

/-! ### What the Row Engine's act touches -/

/-- A site's job goes on, and nothing but the arbiter and the sites has changed. -/
structure State.GoesOn (s t : State) (i : SiteNo) : Prop where
  frame : t = { s with arb := t.arb, sites := t.sites }
  active : t.active i = true

theorem goesOn_siteWith (s : State) (i : SiteNo) (j : Job) (x : Option Exchange) : s.GoesOn (s.siteWith i j x) i :=
  ⟨rfl, siteWith_active s i j x⟩

theorem State.GoesOn.grants {s u t : State} {i : SiteNo} (h : s.GoesOn u i) (hg : u.Grants t) : s.GoesOn t i := by
  refine ⟨hg.frame.trans ?_, (hg.active i).trans h.active⟩
  rw [h.frame]

theorem State.GoesOn.keeps {s t : State} {i : SiteNo} (h : s.GoesOn t i) :
    t.log = s.log ∧ t.ks = s.ks ∧ t.mon = s.mon ∧ t.link = s.link ∧ t.td = s.td := by
  rw [h.frame]
  exact ⟨rfl, rfl, rfl, rfl, rfl⟩

/-- The guard's acts (R93, R96, R97): a command sent, a wait, or, with the row open, a grant request. -/
theorem guardChunk_act (cfg : Params) (j : Job) :
    (∃ j' c, Job.guardChunk cfg j = (j', .send c true)) ∨ (∃ j', Job.guardChunk cfg j = (j', .wait)) ∨
      (j.engine.rowOpen = true ∧
        Job.guardChunk cfg j = ({ j with engine := { j.engine with stage := .grantWait } },
          .request (cellCount (j.engine.chunks.headD 0)))) := by
  unfold Job.guardChunk
  split
  · unfold Job.reopen
    split
    · exact .inl ⟨_, _, rfl⟩
    · split
      · exact .inr (.inl ⟨_, rfl⟩)
      · exact .inl ⟨_, _, rfl⟩
  · next hopen =>
    split
    · exact .inl ⟨_, _, rfl⟩
    · split
      · exact .inr (.inr ⟨by simpa using hopen, rfl⟩)
      · exact .inl ⟨_, _, rfl⟩

/-- A grant request by a job whose row is open leaves the job active: it waits, is granted, or closes its row (R90, R119). -/
theorem request_goesOn {s : State} {i : SiteNo} {j : Job} (d : Nat) (hj : (s.site i).job = some j)
    (hx : (s.site i).port.exch = none) (hw : s.arb.waiting[i] = none) (hp : j.phase ≠ .ending)
    (ho : j.engine.rowOpen = true) : s.GoesOn (s.request i d) i := by
  cases ht : s.arb.timeoutInForce with
  | true =>
    rw [request_timeout s i d j ht hj hx hw hp ho]
    exact goesOn_siteWith s i _ _
  | false =>
    exact State.GoesOn.grants ⟨rfl, by simp only [State.active, State.site] at hj ⊢; rw [hj]; rfl⟩ (request_grants s i d ht)

/-- The guard leaves the job active (R93). -/
theorem guardChunk_goesOn {s : State} {i : SiteNo} {j : Job} (hp : j.phase ≠ .ending) (hx : (s.site i).port.exch = none)
    (hw : s.arb.waiting[i] = none) : s.GoesOn (s.perform i (Job.guardChunk s.cfg j)) i := by
  rcases guardChunk_act s.cfg j with ⟨j', c, h⟩ | ⟨j', h⟩ | ⟨hopen, h⟩
  · rw [h, perform_send]; exact goesOn_siteWith s i _ _
  · rw [h, perform_wait]; exact goesOn_siteWith s i _ _
  · have hreq := request_goesOn (s := s.setJob i (some { j with engine := { j.engine with stage := .grantWait } }))
      (j := { j with engine := { j.engine with stage := .grantWait } }) (cellCount (j.engine.chunks.headD 0))
      (by rw [site_setJob]) (by rw [site_setJob]; exact hx) hw hp hopen
    rw [h]
    exact ⟨hreq.frame, hreq.active⟩

/-! ### What follows a PULSE -/

/-- A PULSE that ends outside ENDING other than by REFUSED is followed by the next chunk or the sense (R59, R70, R90). -/
theorem onExchange_pulse {cfg : Params} {cmd : DieCmd} {j : Job} {e : Ending} (hcmd : cmd.isPulse = true)
    (hp : j.phase = .program ∨ j.phase = .lock) (hstage : j.engine.stage = .pulsing) (he : e ≠ .refused) :
    Job.onExchange cfg cmd j e = Job.pulseEnded cfg j := by
  have hne : j.phase ≠ .ending := by rcases hp with h | h <;> rw [h] <;> decide
  unfold Job.onExchange
  rw [if_neg hne]
  cases e with
  | done data =>
    rcases hp with h | h <;> simp only [Job.exchangeDone, h, Job.attemptExchange, hstage]
  | refused => exact absurd rfl he
  | lost => simp only [hcmd, if_true]

theorem onExchange_refused {cfg : Params} {cmd : DieCmd} {j : Job} (hp : j.phase ≠ .ending) :
    Job.onExchange cfg cmd j .refused = (j, .finish .dieRefused) := by
  rw [Job.onExchange, if_neg hp]

/-- With no chunk left the row is sensed at HIGH margin, or closed first when its open time has expired (R90, R91, R95). -/
theorem perform_pulseEnded_last {s : State} {i : SiteNo} {j : Job} (hc : j.engine.chunks = []) :
    (j.engine.expired = false →
      s.perform i (Job.pulseEnded s.cfg j) = s.siteWith i { j with engine := { j.engine with stage := .sensing } }
        (some (Exchange.fresh s.cfg (.sense j.engine.regionRow .high) true))) ∧
    (j.engine.expired = true → j.engine.rowOpen = true →
      s.perform i (Job.pulseEnded s.cfg j) =
        s.siteWith i (j.closing .sense) (some (Exchange.fresh s.cfg (.closeRow j.engine.regionRow) true))) := by
  refine ⟨fun he => ?_, fun he ho => ?_⟩
  · rw [show Job.pulseEnded s.cfg j = j.senseHigh by simp [Job.pulseEnded, hc, he]]
    exact perform_send s i _ _ _
  · rw [show Job.pulseEnded s.cfg j = j.closeRow .sense by simp [Job.pulseEnded, hc, he, ho]]
    exact perform_send s i _ _ _

theorem pulseEnded_next {cfg : Params} {j : Job} (hc : j.engine.chunks ≠ []) :
    Job.pulseEnded cfg j = Job.guardChunk cfg j := by
  simp [Job.pulseEnded, hc]

/-- Whatever follows a PULSE, the job stays active. -/
theorem pulseEnded_goesOn {s : State} {i : SiteNo} {j : Job} (hp : j.phase ≠ .ending) (hx : (s.site i).port.exch = none)
    (hw : s.arb.waiting[i] = none) : s.GoesOn (s.perform i (Job.pulseEnded s.cfg j)) i := by
  by_cases hc : j.engine.chunks = []
  · unfold Job.pulseEnded
    rw [hc, List.isEmpty_nil, if_pos rfl]
    split
    · rw [Job.closeRow, perform_send]; exact goesOn_siteWith s i _ _
    · rw [Job.senseHigh, perform_send]; exact goesOn_siteWith s i _ _
  · rw [pulseEnded_next hc]
    exact guardChunk_goesOn hp hx hw

/-! ### A job that ends with its exchange -/

theorem active_siteWith {s : State} {i : SiteNo} (j : Job) (x : Option Exchange) (h : s.active i = true) (k : SiteNo) :
    (s.siteWith i j x).active k = s.active k := by
  by_cases e : k = i
  · subst e; rw [siteWith_active, h]
  · simp only [State.active, State.siteWith, site_setSite_ne _ _ e]

theorem tdAfterEnd_congr {s t : State} {i : SiteNo} (htd : t.td = s.td) (hact : ∀ k, t.active k = s.active k) :
    t.tdAfterEnd i = s.tdAfterEnd i := by
  simp only [State.tdAfterEnd, htd, hact]

/-- A job end at the end of an exchange, with the liftoff completion that may follow (R55, R130, R131). -/
theorem perform_finish {v : State} {i : SiteNo} {j : Job} {o : JobOutcome} (hj : (v.site i).job = some j)
    (hx : (v.site i).port.exch = none) (ho : o ≠ .linkLost) :
    v.JobEnded (v.perform i (j, .finish o)).finishLift i j o ∧ v.OnlyEnds (v.perform i (j, .finish o)).finishLift i ∧
      ((v.perform i (j, .finish o)).finishLift.smon i).flags = (v.smon i).flags ∧
      ((v.perform i (j, .finish o)).finishLift.smon i).cond.link = (v.smon i).cond.link := by
  have hperform : v.perform i (j, .finish o) = v.endJob i o := by
    show (v.setJob i (some j)).endJob i o = _
    rw [setJob_self v i j hj]
  obtain ⟨-, -, -, -, hflags, hlink⟩ := endJob_all v i j o hj
  rw [if_neg ho] at hflags hlink
  obtain ⟨-, -, -, -, hflags', hlink', -⟩ := finishLift_keeps (v.endJob i o) i
  rw [hperform]
  exact ⟨jobEnded_endJob v i j o hj hx, onlyEnds_endJob v v i j o hj (fun _ _ => rfl) rfl rfl rfl rfl rfl,
    hflags'.trans hflags, hlink'.trans hlink⟩

/-- Settles O50: the units are released by `attemptEnded_ended`; then the job ends, or goes on with the sense or the guard. -/
theorem pulseEndReleasesItsUnits : Obligations.PulseEndReleasesItsUnits := by
  unfold Obligations.PulseEndReleasesItsUnits
  intro s i j j1 x mask m d left c e hj hx hm hcmd hretry hphase hstage hflight hwait hends hj1
  replace hj1 : j.noteOpenLeft left = j1 := hj1.symm
  have hphase1 : j1.phase = .program ∨ j1.phase = .lock := by rw [← hj1]; exact hphase
  have hne : j1.phase ≠ .ending := by rcases hphase1 with h | h <;> rw [h] <;> decide
  have hpulse : x.cmd.isPulse = true := by rw [hcmd]; rfl
  have hnoRetry : x.retries e = false := by cases e <;> simp [Exchange.retries, hretry]
  obtain ⟨v, hended, -, hgrants, hsite, hframe, hfree⟩ :=
    attemptEnded_ended s i j x left e hj hnoRetry (.inl hwait)
  rw [hj1] at hended hgrants hsite
  have hvj : (v.site i).job = some j1 := by rw [hsite]
  have hvx : (v.site i).port.exch = none := by rw [hsite]
  have hcfg : v.cfg = s.cfg := by rw [hframe]; rfl
  have hexec := exec_endsAttempt s i x m left c e hx hm hends
  rw [hended] at hexec
  refine ⟨v, _, hexec, hgrants d hpulse hflight, fun he => ?_, fun he => ?_⟩
  · subst he
    rw [onExchange_refused hne]
    obtain ⟨hjob, honly, hflags, hlink⟩ := perform_finish (o := .dieRefused) hvj hvx (by decide)
    refine ⟨hjob, honly, hflags.trans ?_, hlink.trans ?_, honly.td.trans ?_⟩
    · rw [hframe]; rfl
    · rw [hframe]; rfl
    · refine tdAfterEnd_congr (by rw [hframe]; rfl) fun k => ?_
      rw [(hgrants d hpulse hflight).active k]
      exact active_siteWith (s := s.selectionOver i) j1 none (congrArg Option.isSome hj) k
  · rw [onExchange_pulse hpulse hphase1 (by rw [← hj1]; exact hstage) he, ← hcfg]
    have hgoes := pulseEnded_goesOn (s := v) hne hvx (hfree hwait)
    rw [finishLift_active _ i hgoes.active]
    obtain ⟨hlog, hks, hmon, hlink, htd⟩ := hgoes.keeps
    obtain ⟨vlog, vks, vmon, vlink, vtd⟩ :
        v.log = s.log ∧ v.ks = s.ks ∧ v.mon = s.mon ∧ v.link = s.link ∧ v.td = s.td := by
      rw [hframe]; exact ⟨rfl, rfl, rfl, rfl, rfl⟩
    refine ⟨hlog.trans vlog, hks.trans vks, hmon.trans vmon, hlink.trans vlink, htd.trans vtd, hgoes.active, fun hc => ?_,
      fun hc => ?_⟩
    · have hc1 : j1.engine.chunks = [] := by rw [← hj1]; exact hc
      obtain ⟨hsense, hclose⟩ := perform_pulseEnded_last (s := v) (i := i) hc1
      subst hj1
      exact ⟨hsense, hclose⟩
    · rw [pulseEnded_next (by rw [← hj1]; exact hc)]
      exact guardChunk_turns v i j1 hne hvx (hfree hwait)

end Sys2Proof.Machine
end

section
/-!
SUPPORT. The DONE response of an exchange, and the exchanges of BRINGUP, BLANK_CHECK and SHADOW_CHECK that follow one (R49 to
R54, R65, R66), in the words of the statements.
-/
namespace Sys2Proof.Machine

/-! ### The bytes of a response (R65) -/

theorem toNat_append_eq {m n : Nat} (a : BitVec m) (b : BitVec n) : (a ++ b).toNat = a.toNat * 2 ^ n + b.toNat := by
  rw [BitVec.toNat_append, ← Nat.shiftLeft_add_eq_or_of_lt b.isLt, Nat.shiftLeft_eq]

/-- A word as the number its bytes make, lowest first. -/
theorem toNat_wordOf (b0 b1 b2 b3 : Byte) :
    (wordOf b0 b1 b2 b3).toNat = b0.toNat + 256 * (b1.toNat + 256 * (b2.toNat + 256 * b3.toNat)) := by
  simp only [wordOf, toNat_append_eq]
  omega

theorem wordBytes_eq (w : BitVec 32) :
    wordBytes w = [BitVec.ofNat 8 w.toNat, BitVec.ofNat 8 (w.toNat / 256), BitVec.ofNat 8 (w.toNat / 65536),
      BitVec.ofNat 8 (w.toNat / 16777216)] := by
  simp [wordBytes, bytesLE, List.range_succ]

/-- A word is the one its four bytes spell. -/
theorem eq_wordOf_iff (w : BitVec 32) (b0 b1 b2 b3 : Byte) : w = wordOf b0 b1 b2 b3 ↔ wordBytes w = [b0, b1, b2, b3] := by
  have := b0.isLt
  have := b1.isLt
  have := b2.isLt
  have := b3.isLt
  have := w.isLt
  simp only [wordBytes_eq, List.cons.injEq, ← BitVec.toNat_inj, toNat_wordOf, BitVec.toNat_ofNat, and_true]
  omega

/-- A response with DONE read back (R65, R66, R179). -/
theorem readResponse_done (data : BitVec 32) : readResponse (responseBytes 0xD1 data) = .done data := by
  have hword := (eq_wordOf_iff data _ _ _ _).mpr (wordBytes_eq data)
  rw [responseBytes, wordBytes_eq]
  simp only [List.cons_append, List.nil_append, readResponse, ne_eq, not_true_eq_false, if_false]
  rw [if_pos (show (0xD1 : Byte) = doneByte from rfl), ← hword]

/-- The bytes of a response with DONE end the attempt (R66, R67). -/
theorem endsAttempt_done (i : SiteNo) (left : Nat) (data : BitVec 32) :
    endsAttempt (.dieResponseComplete i (.bytes (responseBytes 0xD1 data)) left) i left [] (.done data) := by
  refine .inr ⟨_, rfl, ?_, ?_, ?_⟩
  · rw [List.nil_append, responseBytes, wordBytes_eq]; rfl
  · rw [List.nil_append, responseBytes]; simp
  · rw [List.nil_append, readResponse_done]

/-! ### An exchange that ends with DONE -/

/-- A DONE response of an exchange that is no PULSE: the selection is over, the port free, and the job goes on (R66). -/
theorem exec_done {s : State} {i : SiteNo} {j : Job} {x : Exchange} {m : Nat} (left : Nat) (data : BitVec 32)
    (hj : (s.site i).job = some j) (hx : (s.site i).port.exch = some x) (hm : x.timer = some m) (hrx : x.rx = [])
    (hpulse : x.cmd.isPulse = false) :
    exec (.dieResponseComplete i (.bytes (responseBytes 0xD1 data)) left) s =
      .next ((((s.selectionOver i).siteWith i (j.noteOpenLeft left) none).perform i
        ((j.noteOpenLeft left).onExchange s.cfg x.cmd (.done data))).finishLift) := by
  obtain ⟨v, hended, hv, -⟩ := attemptEnded_ended s i j x left (.done data) hj rfl (.inr hpulse)
  rw [exec_endsAttempt s i x m left _ (.done data) hx hm (by rw [hrx]; exact endsAttempt_done i left data), hended, hv hpulse]

theorem onExchange_done {cfg : Params} {cmd : DieCmd} {j : Job} {data : BitVec 32} (hp : j.phase ≠ .ending) :
    Job.onExchange cfg cmd j (.done data) = j.exchangeDone cfg data := by
  rw [Job.onExchange, if_neg hp]

/-- A job that goes on with its next command: the exchange starts, and nothing else changes. -/
theorem perform_next {s : State} {i : SiteNo} (j j' : Job) (c : DieCmd) (x : Option Exchange) :
    ((s.siteWith i j x).perform i (j', .send c true)).finishLift =
      s.siteWith i j' (some (Exchange.fresh s.cfg c true)) := by
  rw [perform_send, siteWith_siteWith, finishLift_active _ i (siteWith_active _ i _ _)]
  rfl

/-- Without an open timer there is no time left to note (R93). -/
theorem noteOpenLeft_none {j : Job} (h : j.engine.openTimer = none) (left : Nat) : j.noteOpenLeft left = j := by
  rw [Job.noteOpenLeft, h, Option.map_none, ← h]

/-! ### BRINGUP and BLANK_CHECK -/

/-- The exchange of BRINGUP or BLANK_CHECK that follows a read, and the job with it (R49, R50). -/
def Job.NextEarly (cfg : Params) (j : Job) (data : BitVec 32) (j' : Job) (next : DieCmd) : Prop :=
  (j.phase = .bringup ∧ j.step < 4 ∧ j' = { j with step := j.step + 1 } ∧
      next = [DieCmd.reset, .closeAll, .enterProvisioning (BitVec.ofNat 16 cfg.pulseWidth), .sense 0 .normal,
        .sense 0 .normal].getD (j.step + 1) .reset) ∨
    (j.phase = .bringup ∧ j.step = 4 ∧ j' = { j with phase := .blankCheck, step := 0 } ∧ next = .sense 0 .normal) ∨
    (j.phase = .blankCheck ∧ ∃ h : j.step + 1 < 20,
      j' = { j with snapshot := j.snapshot ++ [data], step := j.step + 1 } ∧ next = .sense ⟨j.step + 1, h⟩ .normal)

/-- That exchange is the job's move; it has the response timeout for its deadline (R68). -/
theorem Job.NextEarly.move {cfg : Params} {j j' : Job} {next : DieCmd} {data : BitVec 32} (h : j.NextEarly cfg data j' next) :
    j.phase ≠ .ending ∧ j.exchangeDone cfg data = (j', .send next true) ∧ deadlineOf cfg next = cfg.dieResponseTimeout := by
  rcases h with ⟨hp, hlt, rfl, rfl⟩ | ⟨hp, heq, rfl, rfl⟩ | ⟨hp, hlt, rfl, rfl⟩
  · have hcmd : ∀ n, n < 4 → [DieCmd.reset, .closeAll, .enterProvisioning (BitVec.ofNat 16 cfg.pulseWidth), .sense 0 .normal,
        .sense 0 .normal].getD (n + 1) .reset = bringupCmd cfg (n + 1) ∧
        deadlineOf cfg (bringupCmd cfg (n + 1)) = cfg.dieResponseTimeout := fun n hn => by
      obtain rfl | rfl | rfl | rfl : n = 0 ∨ n = 1 ∨ n = 2 ∨ n = 3 := by omega
      all_goals exact ⟨rfl, rfl⟩
    obtain ⟨hnext, hdeadline⟩ := hcmd j.step hlt
    refine ⟨by rw [hp]; decide, ?_, by rw [hnext, hdeadline]⟩
    simp only [Job.exchangeDone, hp, Job.bringupDone, if_pos hlt, hnext]
  · refine ⟨by rw [hp]; decide, ?_, rfl⟩
    simp only [Job.exchangeDone, hp, Job.bringupDone, heq, if_neg (Nat.lt_irrefl 4)]
  · refine ⟨by rw [hp]; decide, ?_, rfl⟩
    simp only [Job.exchangeDone, hp, Job.blankRowRead, dif_pos hlt]

/-- Settles O51: the DONE response ends the exchange, and the phase's next command is sent. -/
theorem bringupAndBlankCheckSequence : Obligations.BringupAndBlankCheckSequence := by
  unfold Obligations.BringupAndBlankCheckSequence
  intro s i j x m left data hj hx hm hrx hpulse hopen j' next hnext
  obtain ⟨hne, hdone, hdeadline⟩ := Job.NextEarly.move hnext
  rw [exec_done left data hj hx hm hrx hpulse, noteOpenLeft_none hopen, onExchange_done hne, hdone, perform_next,
    Exchange.fresh, show deadlineOf (s.selectionOver i).cfg next = s.cfg.dieResponseTimeout from hdeadline]
  rfl

end Sys2Proof.Machine
end

section
/-!
SUPPORT. The judgements of BLANK_CHECK and SHADOW_CHECK and the bind point (R26, R27, R33, R50 to R54), in the words of the
statements.
-/
namespace Sys2Proof.Machine

/-! ### What the responses tell -/

/-- The word of RELOAD, read by its bytes (R53). -/
theorem reloadMatches_iff (j : Job) (data : BitVec 32) :
    j.reloadMatches data = true ↔ data.toNat % 256 = j.corrected ∧ data.toNat / 256 % 256 = relocatedCount j.map ∧
      data.toNat / 65536 % 256 = 1 := by
  simp [Job.reloadMatches, ← BitVec.toNat_inj, BitVec.toNat_ushiftRight, Nat.shiftRight_eq_div_pow, and_assoc]

/-- A shadow word against the image, byte by byte (R17, R53). -/
theorem eq_imageShadowWord_iff {j : Job} {im : Image} (h : j.image = some im) (data : BitVec 32) (w : Nat) :
    data = j.imageShadowWord w ↔ wordBytes data = (List.range 4).map (fun k => byteAt im.bytes (4 * w + k)) := by
  rw [Job.imageShadowWord, h]
  exact eq_wordOf_iff data _ _ _ _

/-! ### The job's moves at a judgement -/

/-- The judgements that end a job (R50, R53, R54). -/
def Job.EndsBy (j : Job) (data : BitVec 32) (o : JobOutcome) : Prop :=
  (j.phase = .blankCheck ∧ 19 ≤ j.step ∧ data ≠ 0 ∧ o = if lockRowValid data then .alreadyLocked else .regionNotBlank) ∨
    (j.phase = .shadowCheck ∧ j.step = 0 ∧ o = .shadowMismatch ∧
      ¬ (data.toNat % 256 = j.corrected ∧ data.toNat / 256 % 256 = relocatedCount j.map ∧
        data.toNat / 65536 % 256 = 1)) ∨
    (∃ w im, j.phase = .shadowCheck ∧ j.step = w + 1 ∧ j.image = some im ∧ o = .shadowMismatch ∧
      wordBytes data ≠ (List.range 4).map (fun k => byteAt im.bytes (4 * w + k))) ∨
    (∃ im, j.phase = .shadowCheck ∧ j.step = 12 ∧ j.image = some im ∧
      wordBytes data = (List.range 4).map (fun k => byteAt im.bytes (44 + k)) ∧
      o = if j.corrected = 0 ∧ relocatedCount j.map = 0 then .provisioned else .provisionedRepaired)

/-- A job that a judgement ends: its move is its end, and its record is the one it would have had before. -/
theorem Job.EndsBy.move {cfg : Params} {j : Job} {data : BitVec 32} {o : JobOutcome} (h : j.EndsBy data o) :
    j.phase ≠ .ending ∧ o ≠ .linkLost ∧ ∃ j', j.exchangeDone cfg data = (j', .finish o) ∧
      ∀ (s : State) (i : SiteNo), s.lastRecord i j' o = s.lastRecord i j o := by
  rcases h with ⟨hp, hstep, hdata, rfl⟩ | ⟨hp, hstep, rfl, hdiffer⟩ | ⟨w, im, hp, hstep, himage, rfl, hdiffer⟩ |
    ⟨im, hp, hstep, himage, hsame, rfl⟩
  · refine ⟨by rw [hp]; decide, by split <;> decide, { j with snapshot := j.snapshot ++ [data] }, ?_, fun _ _ => rfl⟩
    simp only [Job.exchangeDone, hp, Job.blankRowRead, dif_neg (show ¬ j.step + 1 < 20 by omega), if_neg hdata]
    split <;> rfl
  · refine ⟨by rw [hp]; decide, by decide, j, ?_, fun _ _ => rfl⟩
    simp only [Job.exchangeDone, hp, Job.shadowDone, hstep, if_neg (mt (reloadMatches_iff j data).mp hdiffer)]
  · refine ⟨by rw [hp]; decide, by decide, j, ?_, fun _ _ => rfl⟩
    simp only [Job.exchangeDone, hp, Job.shadowDone, hstep, if_neg (mt (eq_imageShadowWord_iff himage data w).mp hdiffer)]
  · refine ⟨by rw [hp]; decide, by split <;> decide, j, ?_, fun _ _ => rfl⟩
    simp only [Job.exchangeDone, hp, Job.shadowDone, hstep, if_pos ((eq_imageShadowWord_iff himage data 11).mpr hsame),
      dif_neg (show ¬ 11 + 1 < 12 by decide), Job.completionOutcome, Bool.and_eq_true, decide_eq_true_eq]

/-- The readings of SHADOW_CHECK that lead to the next READ SHADOW (R53). -/
def Job.ReadsOn (j : Job) (data : BitVec 32) (next : DieCmd) : Prop :=
  (j.phase = .shadowCheck ∧ j.step = 0 ∧ data.toNat % 256 = j.corrected ∧
      data.toNat / 256 % 256 = relocatedCount j.map ∧ data.toNat / 65536 % 256 = 1 ∧ next = .readShadow 0) ∨
    (∃ w im, ∃ h : w + 1 < 12, j.phase = .shadowCheck ∧ j.step = w + 1 ∧ j.image = some im ∧
      wordBytes data = (List.range 4).map (fun k => byteAt im.bytes (4 * w + k)) ∧
      next = .readShadow ⟨w + 1, h⟩)

theorem Job.ReadsOn.move {cfg : Params} {j : Job} {data : BitVec 32} {next : DieCmd} (h : j.ReadsOn data next) :
    j.phase = .shadowCheck ∧ j.exchangeDone cfg data = ({ j with step := j.step + 1 }, .send next true) := by
  rcases h with ⟨hp, hstep, hcorrected, hrelocated, hvalid, rfl⟩ | ⟨w, im, hlt, hp, hstep, himage, hsame, rfl⟩
  · refine ⟨hp, ?_⟩
    simp only [Job.exchangeDone, hp, Job.shadowDone, hstep,
      if_pos ((reloadMatches_iff j data).mpr ⟨hcorrected, hrelocated, hvalid⟩)]
  · refine ⟨hp, ?_⟩
    simp only [Job.exchangeDone, hp, Job.shadowDone, hstep, if_pos ((eq_imageShadowWord_iff himage data w).mpr hsame),
      dif_pos hlt]

/-- After a blank lock row comes the bind point (R50, R51). -/
theorem exchangeDone_bind {cfg : Params} {j : Job} (hp : j.phase = .blankCheck) (hstep : 19 ≤ j.step) :
    j.exchangeDone cfg 0 = ({ j with snapshot := j.snapshot ++ [0] }, .bind) := by
  simp only [Job.exchangeDone, hp, Job.blankRowRead, dif_neg (show ¬ j.step + 1 < 20 by omega), if_true]

/-! ### A job end that follows at once -/

/-- What a job end says of its site, the log, the Key Store and the flags does not depend on the lift (R131). -/
theorem jobEnded_finishLift_iff {s t : State} {i : SiteNo} {j : Job} {o : JobOutcome} :
    s.JobEnded t.finishLift i j o ↔ s.JobEnded t i j o := by
  obtain ⟨hjob, hport, hqueue, hused, -, -, hflags⟩ := finishLift_keeps t i
  constructor <;> rintro ⟨e1, e2, e3, e4, e5, e6, e7⟩
  · exact ⟨hjob.symm.trans e1, hport.symm.trans e2, ⟨hqueue.symm.trans e3.1, hused.symm.trans e3.2⟩, by simpa using e4,
      by simpa using e5, by simpa using e6, hflags.symm.trans e7⟩
  · exact ⟨hjob.trans e1, hport.trans e2, ⟨hqueue.trans e3.1, hused.trans e3.2⟩, by simpa using e4, by simpa using e5,
      by simpa using e6, hflags.trans e7⟩

/-- An exchange with DONE that ends its job (R55), with the lift that may complete. -/
theorem perform_ends {s : State} {i : SiteNo} {j1 j' : Job} {o : JobOutcome} (ho : o ≠ .linkLost) :
    let t := (((s.selectionOver i).siteWith i j1 none).perform i (j', .finish o)).finishLift
    s.JobEnded t i j' o ∧ (s.selectionOver i).OnlyEnds t i ∧ (t.smon i).flags = (s.smon i).flags ∧
      (t.smon i).cond.link = (s.smon i).cond.link := by
  generalize hu : (s.selectionOver i).siteWith i j1 none = u
  have husite : u.site i = { s.site i with job := some j1, port := { (s.site i).port with exch := none } } := by
    rw [← hu, siteWith_site]; rfl
  have hothers : ∀ k, k ≠ i → (u.setJob i (some j')).site k = (s.selectionOver i).site k := fun k hk => by
    rw [site_setJob_ne _ _ hk, ← hu]; exact site_setSite_ne _ _ hk
  obtain ⟨hended, hflags, hlink⟩ := jobEnded_finish s u i j' j1 o husite (by rw [← hu]; rfl) (by rw [← hu]; rfl)
    (by rw [← hu]; rfl)
  rw [if_neg ho] at hflags hlink
  refine ⟨hended, ?_, hflags, hlink⟩
  refine onlyEnds_endJob (s.selectionOver i) (u.setJob i (some j')) i j' o (by rw [site_setJob]) hothers ?_ ?_ ?_ ?_ ?_
  · rw [site_setJob, husite]; rfl
  all_goals rw [← hu]; rfl

end Sys2Proof.Machine
end

section
/-!
SUPPORT. The bind point (R26, R33, R51, R52), in the words of the statements.
-/
namespace Sys2Proof.Machine

/-! ### The move that image row 0 leads to (R52, R85, R101) -/

/-- A move of PROGRAM: it keeps phase and image, and sends a command or ends the job ROW_UNREPAIRABLE. -/
structure Job.MovesInProgram (j : Job) (m : Move) : Prop where
  phase : m.1.phase = j.phase
  image : m.1.image = j.image
  act : (∃ c, m.2 = .send c true) ∨ m.2 = .finish .rowUnrepairable

theorem startAttempt_inProgram (j : Job) (p : Purpose) (r : RegionRow) (word : Row) :
    j.MovesInProgram (j.startAttempt p r word) := by
  rw [startAttempt_eq]
  exact ⟨rfl, rfl, .inl ⟨_, rfl⟩⟩

theorem trySpares_inProgram (k : Fin 16) (word : Row) (spares : List (Fin 3)) (j : Job) :
    j.MovesInProgram (Job.trySpares k word spares j) := by
  induction spares generalizing j with
  | nil => exact ⟨rfl, rfl, .inr rfl⟩
  | cons e spares ih =>
    unfold Job.trySpares
    split
    · exact ih j
    · split
      · obtain ⟨hphase, himage, hact⟩ := ih ((j.failAt (spareRow e)).setEntry e 31)
        exact ⟨hphase, himage, hact⟩
      · exact startAttempt_inProgram j _ _ _

theorem startImageRow_inProgram (j : Job) (k : Fin 16) : j.MovesInProgram (j.startImageRow k) := by
  simp only [Job.startImageRow]
  split
  · obtain ⟨hphase, himage, hact⟩ := trySpares_inProgram k (j.imageWord k) allSpares (j.failAt (ownRow k))
    exact ⟨hphase, himage, hact⟩
  · exact startAttempt_inProgram j _ _ _

/-- The start of an image row does not look at the Row Engine, which is IDLE before it (R84). -/
theorem startImageRow_engine (j : Job) (e : RowEngine) (k : Fin 16) :
    ({ j with engine := e } : Job).startImageRow k = j.startImageRow k := by
  have hword : ({ j with engine := e } : Job).imageWord k = j.imageWord k := rfl
  have hconflicts : ∀ r w, ({ j with engine := e } : Job).conflictsAt r w = j.conflictsAt r w := fun _ _ => rfl
  simp only [Job.startImageRow, hword, hconflicts, startAttempt_eq]
  rfl

/-! ### POOL_LOW behind the bind (R33) -/

theorem evalPoolLow_ks (s : State) :
    s.evalPoolLow.ks =
      { s.ks with poolLow := poolLowAfter s.ks.poolLow s.cfg.poolLowThreshold s.ks.free.length } := by
  rw [evalPoolLow_eq]
  split
  · next h => rw [h]
  · rw [latchGlobal_ks]

/-! ### Liftoff completion, site by site (R131) -/

theorem liftSite_sites {s t : State} (hs : t.sites = s.sites) (hc : t.cfg = s.cfg) (i : SiteNo) :
    (t.liftSite i).sites = (s.liftSite i).sites ∧ (t.liftSite i).cfg = (s.liftSite i).cfg := by
  have hon : t.enabled i = s.enabled i := by rw [State.enabled, hc]; rfl
  unfold State.liftSite
  rw [hon]
  cases s.enabled i with
  | true =>
    refine ⟨?_, hc⟩
    show (t.setSite i (t.site i).liftDone).sites = (s.setSite i (s.site i).liftDone).sites
    simp only [State.setSite, State.site, hs]
  | false => exact ⟨hs, hc⟩

theorem foldl_liftSite_sites {s t : State} (hs : t.sites = s.sites) (hc : t.cfg = s.cfg) (l : List SiteNo) :
    (l.foldl State.liftSite t).sites = (l.foldl State.liftSite s).sites := by
  induction l generalizing s t with
  | nil => exact hs
  | cons i l ih =>
    obtain ⟨hsites, hcfg⟩ := liftSite_sites hs hc i
    exact ih hsites hcfg

/-- What a liftoff completion makes of the sites and of Touchdown Control depends on them and the parameters alone. -/
theorem finishLift_sites {s t : State} (hs : t.sites = s.sites) (hc : t.cfg = s.cfg) (htd : t.td = s.td) :
    t.finishLift.sites = s.finishLift.sites ∧ t.finishLift.td = s.finishLift.td := by
  have hactive : t.anyActive = s.anyActive := by
    unfold State.anyActive State.active State.site
    rw [hs]
  have hcomplete : ∀ u : State, u.completeLift.sites =
      (allSites.foldl State.liftSite (u.setTd { u.td with state := .clear, deferred := none, liftCount := 0 })).sites :=
    fun u => by unfold State.completeLift forSites; split <;> rfl
  unfold State.finishLift
  rw [htd, hactive]
  split
  · rw [hcomplete, hcomplete, completeLift_td, completeLift_td, htd]
    refine ⟨foldl_liftSite_sites ?_ ?_ allSites, rfl⟩
    · exact hs
    · exact hc
  · exact ⟨hs, htd⟩

theorem State.OnlyEnds.congr {s t t' : State} {i : SiteNo} (h : s.OnlyEnds t i) (hs : t'.sites = t.sites) (ha : t'.arb = t.arb)
    (hc : t'.cfg = t.cfg) (hd : t'.dies = t.dies) (htd : t'.td = t.td) : s.OnlyEnds t' i := by
  have hsite : ∀ k, t'.site k = t.site k := fun k => by rw [State.site, hs]; rfl
  obtain ⟨hothers, harb, hcfg, hdies, htd', hstill⟩ := h
  refine ⟨fun k hk => by rw [hsite]; exact hothers k hk, ha.trans harb, hc.trans hcfg, hd.trans hdies, htd.trans htd',
    fun hst => ?_⟩
  obtain ⟨hsame, hposture⟩ := hstill (by rw [← htd]; exact hst)
  exact ⟨fun k hk => by rw [hsite]; exact hsame k hk, by rw [hsite]; exact hposture⟩

/-- A job end with POOL_LOW evaluated before the lift may complete (R26, R130). -/
theorem onlyEnds_evalPoolLow {s t : State} {i : SiteNo} (h : s.OnlyEnds t.finishLift i) :
    s.OnlyEnds t.evalPoolLow.finishLift i := by
  obtain ⟨hsites, htd⟩ := finishLift_sites (evalPoolLow_sites t) (evalPoolLow_cfg t) (evalPoolLow_td t)
  exact h.congr hsites (by simp) (by simp) (by simp) htd

/-! ### The bind -/

/-- A machine in which a site's exchange has ended with DONE: the next move, carried out. -/
theorem movesOn_doMove (s : State) (i : SiteNo) (j : Job) (m : Move) :
    s.MovesOn i m (((s.selectionOver i).siteWith i j none).doMove i m) := by
  obtain ⟨j', a⟩ := m
  refine ⟨fun c ha => ?_, fun o ha => ?_⟩
  · obtain rfl : a = .send c true := ha
    rw [doMove_send, siteWith_siteWith]
    rfl
  · obtain rfl : a = .finish o := ha
    refine jobEnded_finishLift_iff.mp (jobEnded_finish s ((s.selectionOver i).siteWith i j none) i j' j o ?_ rfl rfl rfl).1
    rw [siteWith_site]
    rfl

/-- A bind request with a key free (R26): the front key is bound, the job moves on to image row 0, and POOL_LOW is evaluated. -/
theorem perform_bind {s : State} {i : SiteNo} {key : Key} {rest : List Key} (j j' : Job) (hfree : s.ks.free = key :: rest) :
    (s.siteWith i j none).perform i (j', .bind) =
      ((({ s with ks := s.ks.bindFront i key rest } : State).siteWith i j' none).doMove i
        (j'.onKey s.unitNumber key)).evalPoolLow := by
  have hset : (s.siteWith i j none).setJob i (some j') = s.siteWith i j' none := by
    rw [setJob_siteWith, siteWith_siteWith, siteWith_site]
  have hjob : ∀ k, (((s.siteWith i j' none).setKs k).site i).job = some j' := fun k => by
    rw [site_setKs, siteWith_site]
  simp only [State.perform, hset, State.bindRequest, show (s.siteWith i j' none).ks.free = key :: rest from hfree,
    State.giveKey, hjob]
  rfl

/-- With no key free the job joins the wait list (R27). -/
theorem perform_bind_none {s : State} {i : SiteNo} (j j' : Job) (hfree : s.ks.free = []) :
    (s.siteWith i j none).perform i (j', .bind) =
      ({ s with ks := { s.ks with waitList := s.ks.waitList ++ [i] } } : State).siteWith i { j' with phase := .keyWait } none := by
  have hset : (s.siteWith i j none).setJob i (some j') = s.siteWith i j' none := by
    rw [setJob_siteWith, siteWith_siteWith, siteWith_site]
  have hjoin : (s.siteWith i j' none).bindRequest i = (s.siteWith i j' none).joinWaitList i := by
    rw [State.bindRequest, show (s.siteWith i j' none).ks.free = [] from hfree]
  simp only [State.perform, hset, hjoin, State.joinWaitList, siteWith_site]
  rw [setJob_siteWith, site_setKs, siteWith_site]
  exact siteWith_siteWith ({ s with ks := { s.ks with waitList := s.ks.waitList ++ [i] } } : State) i j' _ none none

end Sys2Proof.Machine
end

section
/-!
SUPPORT. What the judgements and the bind point come to (R26, R27, R33, R50 to R55), and the statement about them.
-/
namespace Sys2Proof.Machine

/-- The machine after the bind point: the job's move carried out, POOL_LOW evaluated, a lift left without a job completed. -/
def State.boundOn (s : State) (i : SiteNo) (j : Job) (m : Move) : State :=
  (((s.selectionOver i).siteWith i j none).doMove i m).evalPoolLow.finishLift

theorem boundOn_ks (s : State) (i : SiteNo) (j : Job) (m : Move) :
    (s.boundOn i j m).ks = (((s.selectionOver i).siteWith i j none).doMove i m).evalPoolLow.ks := by
  rw [State.boundOn, finishLift_ks]

theorem boundOn_log (s : State) (i : SiteNo) (j : Job) (m : Move) :
    (s.boundOn i j m).log = (((s.selectionOver i).siteWith i j none).doMove i m).log := by
  rw [State.boundOn, finishLift_log, evalPoolLow_log]

theorem boundOn_job (s : State) (i : SiteNo) (j : Job) (m : Move) :
    ((s.boundOn i j m).site i).job = ((((s.selectionOver i).siteWith i j none).doMove i m).site i).job := by
  rw [State.boundOn, (finishLift_keeps _ i).1, site_evalPoolLow]

/-- A job that goes on from the bind point: its command is sent, and no lift completes. -/
theorem boundOn_send (s : State) (i : SiteNo) (j j' : Job) (c : DieCmd) :
    s.boundOn i j (j', .send c true) =
      ((s.selectionOver i).siteWith i j' (some (Exchange.fresh s.cfg c true))).evalPoolLow := by
  have hactive : ∀ x, ((s.selectionOver i).siteWith i j' x).evalPoolLow.active i = true := fun x => by
    rw [State.active, site_evalPoolLow, siteWith_site]; rfl
  rw [State.boundOn, doMove_send, siteWith_siteWith, finishLift_active _ i (hactive _)]
  rfl

/-- From the bind point the job holds its key and goes to image row 0, or its record tells that it was ROW_UNREPAIRABLE, with the
key retired (R26, R61, R103). -/
theorem boundOn_job_or_record {s : State} {i : SiteNo} {j j0 : Job} {m : Move} {key : Key} (hkey : s.ks.bound[i] = some key)
    (hm : j0.MovesInProgram m) :
    (∀ j', ((s.boundOn i j m).site i).job = some j' →
      (s.boundOn i j m).ks.bound[i] = some key ∧ j'.phase = j0.phase ∧ j'.image = j0.image) ∧
    (((s.boundOn i j m).site i).job = none → ∃ r ∈ (s.boundOn i j m).log.records, r.site = i ∧ r.outcome = .rowUnrepairable ∧
      r.keyIndex = some key.index ∧ r.disposition = .retired) := by
  obtain ⟨j', a⟩ := m
  obtain ⟨hphase, himage, ⟨c, hact⟩ | hact⟩ := hm
  · obtain rfl : a = .send c true := hact
    have hjob : ((s.boundOn i j (j', .send c true)).site i).job = some j' := by
      rw [boundOn_send, site_evalPoolLow, siteWith_site]
    refine ⟨fun j'' hj'' => ?_, fun hnone => by rw [hjob] at hnone; cases hnone⟩
    obtain rfl : j' = j'' := Option.some.inj (hjob.symm.trans hj'')
    refine ⟨?_, hphase, himage⟩
    rw [boundOn_send, evalPoolLow_ks_bound]
    exact hkey
  · obtain rfl : a = .finish .rowUnrepairable := hact
    have hended := (movesOn_doMove s i j (j', .finish .rowUnrepairable)).2 _ rfl
    refine ⟨fun j'' hj'' => ?_, fun _ => ⟨s.lastRecord i j' .rowUnrepairable, ?_, rfl, rfl, ?_, ?_⟩⟩
    · rw [boundOn_job, hended.job] at hj''
      cases hj''
    · rw [boundOn_log, hended.record]; simp
    · simp only [State.lastRecord, hkey, Option.map_some]
    · simp only [State.lastRecord, hkey, Option.isNone_some]; rfl

/-- Between the move and the lift POOL_LOW is evaluated (R26, R33, R130). -/
theorem boundOn_steps {s : State} {i : SiteNo} {j : Job} {m : Move} {low : Bool}
    (hlow : low = poolLowAfter s.ks.poolLow s.cfg.poolLowThreshold s.ks.free.length) :
    ∃ v w : State, s.MovesOn i m v ∧
      w = (if low = s.ks.poolLow then v else State.latchGlobal { v with ks := { v.ks with poolLow := low } } .poolLow) ∧
      (s.td.state.lifting = false ∨ w.anyActive = true → s.boundOn i j m = w) ∧
      ((s.boundOn i j m).ks = w.ks ∧ (s.boundOn i j m).log = w.log ∧ (s.boundOn i j m).mon.flags = w.mon.flags) ∧
      (∀ o, m.2 = .finish o → (s.selectionOver i).OnlyEnds (s.boundOn i j m) i) := by
  generalize hu : (s.selectionOver i).siteWith i j none = u
  have hmoves := movesOn_doMove s i j m
  rw [hu] at hmoves
  have ht : s.boundOn i j m = (u.doMove i m).evalPoolLow.finishLift := by rw [← hu]; rfl
  rw [ht]
  refine ⟨u.doMove i m, (u.doMove i m).evalPoolLow, hmoves, ?_, fun hstill => ?_, ⟨finishLift_ks _, finishLift_log _,
    (finishLift_keeps _ i).2.2.2.2.2.2⟩, fun o ho => ?_⟩
  · have hv : poolLowAfter (u.doMove i m).ks.poolLow (u.doMove i m).cfg.poolLowThreshold (u.doMove i m).ks.free.length = low := by
      rw [hlow, doMove_ks_poolLow, doMove_cfg, doMove_ks_free, ← hu]; rfl
    rw [evalPoolLow_eq, hv, doMove_ks_poolLow, ← hu]
    rfl
  · have htd : (u.doMove i m).evalPoolLow.td.state = s.td.state := by
      rw [evalPoolLow_td, doMove_td_state, ← hu]; rfl
    rw [State.finishLift, htd]
    rcases hstill with h | h <;> simp [h]
  · have hmove : u.doMove i m = (u.setJob i (some m.1)).endJob i o := by rw [State.doMove, ho]; rfl
    rw [hmove]
    refine onlyEnds_evalPoolLow (onlyEnds_endJob (s.selectionOver i) (u.setJob i (some m.1)) i m.1 o (by rw [site_setJob])
      (fun k hk => ?_) ?_ ?_ ?_ ?_ ?_)
    · rw [site_setJob_ne _ _ hk, ← hu]; exact site_setSite_ne _ _ hk
    · rw [site_setJob, ← hu, siteWith_site]
    all_goals rw [← hu]; rfl

/-! ### The job at the bind point (R51) -/

/-- The job that has read a blank lock row and is given its key: its image is built, and PROGRAM begins. -/
def Job.atBind (j : Job) (unit : BitVec 32) (key : Key) : Job :=
  { j with
    snapshot := j.snapshot ++ [0], phase := .program, step := 0
    image := some (buildImage key j.posting unit) }

/-- What was noted of the open timer does not matter to the bind. -/
theorem onKey_atBind (j : Job) (left : Nat) (unit : BitVec 32) (key : Key) :
    ({ j.noteOpenLeft left with snapshot := (j.noteOpenLeft left).snapshot ++ [0] } : Job).onKey unit key =
      (j.atBind unit key).startImageRow 0 :=
  startImageRow_engine (j.atBind unit key) (j.noteOpenLeft left).engine 0

/-- With at most one conflict cell at region row 0 the attempt starts there (R52, R85). -/
theorem startImageRow_atBind {j : Job} {word snap : Row} {key : Key} {unit : BitVec 32}
    (hword : word = rowWord (imageRow (imageBytes key j.posting unit) 0)) (hsnap : snap = (j.atBind unit key).snapshot.getD 0 0)
    (hfew : cellCount (snap &&& ~~~word) ≤ 1) :
    (j.atBind unit key).startImageRow 0 =
      ({ j.atBind unit key with engine := RowEngine.started (.own 0) 0 word snap }, .send (firstCommand 0 word snap) true) :=
  onKey_starts (j := { j with snapshot := j.snapshot ++ [0] }) hword hsnap hfew

/-- A bind request with a key free (R26): the machine goes on with the front key bound. -/
theorem perform_bind_boundOn {s : State} {i : SiteNo} {key : Key} {rest : List Key} (j j' : Job)
    (hfree : s.ks.free = key :: rest) :
    (((s.selectionOver i).siteWith i j none).perform i (j', .bind)).finishLift =
      ({ s with ks := s.ks.bindFront i key rest } : State).boundOn i j' (j'.onKey s.unitNumber key) := by
  rw [perform_bind (s := s.selectionOver i) j j' hfree]
  rfl

/-! ### The statement -/

/-- Settles O52: each judgement is a move of the job, and the bind point the binding of the front key with the move it leads to. -/
theorem blankAndShadowChecksDecide : Obligations.BlankAndShadowChecksDecide := by
  unfold Obligations.BlankAndShadowChecksDecide
  intro s i j x m left data hj hx hm hrx hpulse
  refine ⟨_, exec_done left data hj hx hm hrx hpulse, fun o ho => ?_, fun hp hstep hdata => ?_, fun next hnext => ?_⟩
  · obtain ⟨hne, hlink, j', hmove, hrec⟩ := Job.EndsBy.move (cfg := s.cfg) (j := j.noteOpenLeft left) ho
    rw [onExchange_done hne, hmove]
    obtain ⟨hended, honly, hflags, hcond⟩ := perform_ends (s := s) (i := i) (j1 := j.noteOpenLeft left) (j' := j') hlink
    exact ⟨hended.congr (hrec s i).symm, honly, hflags, hcond⟩
  · subst hdata
    have hp1 : (j.noteOpenLeft left).phase = .blankCheck := hp
    rw [onExchange_done (by rw [hp1]; decide), exchangeDone_bind hp1 hstep]
    refine ⟨fun hfree => ?_, fun key rest hfree => ?_⟩
    · rw [perform_bind_none (s := s.selectionOver i) _ _ hfree, finishLift_active _ i (siteWith_active _ i _ _), siteWith_site]
      exact ⟨rfl, rfl, rfl⟩
    · rw [perform_bind_boundOn _ _ hfree, onKey_atBind]
      generalize ({ j.noteOpenLeft left with snapshot := (j.noteOpenLeft left).snapshot ++ [0] } : Job) = j2
      have hkey : ({ s with ks := s.ks.bindFront i key rest } : State).ks.bound[i] = some key := by simp [KeyStore.bindFront]
      obtain ⟨hgoes, hends⟩ := boundOn_job_or_record (j := j2) hkey (startImageRow_inProgram (j.atBind s.unitNumber key) 0)
      refine ⟨?_, hgoes, hends, fun j0 snap word ks low hj0 hsnap hword hks hlow => ?_⟩
      · rw [boundOn_ks, evalPoolLow_ks_free, doMove_ks_free]; rfl
      · obtain rfl : j0 = j.atBind s.unitNumber key := hj0
        obtain rfl : ks = s.ks.bindFront i key rest := hks
        refine ⟨boundOn_steps hlow, fun hfew => ?_⟩
        rw [startImageRow_atBind hword hsnap hfew, boundOn_send, site_evalPoolLow, siteWith_site, evalPoolLow_ks, hlow]
        exact ⟨rfl, rfl⟩
  · obtain ⟨hp, hmove⟩ := Job.ReadsOn.move (cfg := s.cfg) (j := j.noteOpenLeft left) hnext
    rw [onExchange_done (by rw [hp]; decide), hmove, perform_next, siteWith_site]
    exact ⟨rfl, congrArg (fun p => some (p, j.step + 1)) hp, rfl⟩

end Sys2Proof.Machine
end

section
/-!
SUPPORT. What ties sites, ports, Supply Arbiter and Key Store to each other (State.SiteInv), kept by the changes that an event
makes outside the shared operations: a site's controller replaced, the supply's condition, the touchdown state, a condition.
-/
namespace Sys2Proof.Machine

/-! ### Changes that the invariant does not read -/

theorem State.SiteInv.push {s : State} (h : s.SiteInv) (f : OutFrame) : (s.push f).SiteInv :=
  h.congr rfl rfl (fun _ _ => rfl) rfl rfl rfl rfl rfl

theorem State.SiteInv.reply {s : State} (h : s.SiteInv) (f : InFrame) (st : Status) (fields : List Byte) :
    (s.reply f st fields).SiteInv := h.push _

theorem State.SiteInv.latchGlobal {s : State} (h : s.SiteInv) (g : GlobalFlag) : (s.latchGlobal g).SiteInv :=
  h.congr (by simp) (by simp) (by simp) (by simp) (by simp) (by simp) (by simp) (by simp)

theorem State.SiteInv.throttle {s : State} (h : s.SiteInv) (sc : Scope) : (s.throttle sc).SiteInv :=
  h.congr (by simp) (by simp) (by simp) (by simp) (by simp) (by simp) (by simp) (by simp)

/-- A site's monitor entry replaced by one with the same condition states. -/
theorem State.SiteInv.setSmon {s : State} (h : s.SiteInv) (i : SiteNo) {m : SiteMon} (hm : m.cond = (s.smon i).cond) :
    (s.setSmon i m).SiteInv :=
  h.congr rfl rfl (fun _ _ => condOf_setSmon _ _ _ _ _ hm) rfl rfl rfl rfl rfl

/-- The arbiter replaced by one with the same units in use and in flight, in which nobody waits who did not. -/
theorem State.SiteInv.setArb {s : State} (h : s.SiteInv) {a : Arbiter} (hu : a.inUse = s.arb.inUse)
    (hf : a.inFlight = s.arb.inFlight) (hw : ∀ i : SiteNo, a.waiting[i] = s.arb.waiting[i] ∨ a.waiting[i] = none) :
    (s.setArb a).SiteInv := by
  refine ⟨fun i => ?_, ?_, by rw [setArb_arb, hu]; exact h.capacity, h.once, h.waitEmpty⟩
  · rcases hw i with hi | hi
    · exact (h.sites i).congr rfl rfl (fun _ => rfl) hi (by rw [setArb_arb, hf]) rfl Iff.rfl
    · obtain ⟨hjob, hnoJob, hcontact, hlink⟩ := h.sites i
      refine ⟨fun j hj => ?_, fun hn => ?_, hcontact, hlink⟩
      · obtain ⟨h1, h2, h3, h4, h5, h6, h7, h8, -, h10, h11, h12, h13, h14⟩ := hjob j hj
        exact ⟨h1, h2, h3, h4, h5, h6, h7, h8, fun d hd => (by rw [setArb_arb, hi] at hd; cases hd),
          by rw [setArb_arb, hf]; exact h10, by rw [setArb_arb, hf]; exact h11, by rw [setArb_arb, hf]; exact h12, h13, h14⟩
      · obtain ⟨h1, -, h3, h4, h5⟩ := hnoJob hn
        exact ⟨h1, hi, by rw [setArb_arb, hf]; exact h3, h4, h5⟩
  · rw [setArb_arb, hu, h.units]
    simp only [Arbiter.unitsInFlight, hf]

/-- A lift begins or is upgraded: the touchdown state changes, but not from or to CLEAR. -/
theorem State.SiteInv.setTd {s : State} (h : s.SiteInv) {d : Touchdown} (hs : s.td.state ≠ .clear) (hd : d.state ≠ .clear) :
    (s.setTd d).SiteInv := by
  refine ⟨fun i => ?_, h.units, h.capacity, h.once, h.waitEmpty⟩
  obtain ⟨hjob, hnoJob, hcontact, hlink⟩ := h.sites i
  refine ⟨fun j hj => ?_, fun hn => ?_, hcontact, fun hl => .inl ((hlink hl).resolve_right hs)⟩
  · obtain ⟨-, h2, h3, h4, h5, h6, h7, h8, h9, h10, h11, h12, h13, h14⟩ := hjob j hj
    exact ⟨hd, h2, h3, h4, h5, h6, h7, h8, h9, h10, h11, h12, h13, h14⟩
  · obtain ⟨h1, h2, h3, h4, h5⟩ := hnoJob hn
    exact ⟨h1, h2, h3, h4, h5⟩

/-! ### One site's controller -/

/-- A site's controller replaced by one with the same job, port and used flag; its posture may change where no job is active. -/
theorem State.SiteInv.setSite {s : State} (h : s.SiteInv) {i : SiteNo} {c : SiteCtl} (hj : c.job = (s.site i).job)
    (hp : c.port = (s.site i).port) (hu : c.used = (s.site i).used)
    (hs : c.posture = (s.site i).posture ∨
      ((s.site i).job = none ∧ (c.posture = .seated → s.condOf i .contact = false))) : (s.setSite i c).SiteInv := by
  refine ⟨fun k => ?_, h.units, h.capacity, h.once, h.waitEmpty⟩
  by_cases hk : k = i
  · subst hk
    obtain ⟨hjob, hnoJob, hcontact, hlink⟩ := h.sites k
    refine ⟨fun j hj' => ?_, fun hn => ?_, fun hc => ?_, ?_⟩
    · rw [site_setSite, hj] at hj'
      have hsame : c.posture = (s.site k).posture := hs.resolve_right fun e => by rw [e.1] at hj'; cases hj'
      obtain ⟨h1, h2, h3, h4, h5, h6, h7, h8, h9, h10, h11, h12, h13, h14⟩ := hjob j hj'
      refine ⟨h1, ?_, ?_, ?_, h5, h6, ?_, h8, ?_, ?_, ?_, h12, ?_, h14⟩ <;> rw [site_setSite]
      · rw [hsame]; exact h2
      · rw [hp]; exact h3
      · rw [hu]; exact h4
      · rw [hp]; exact h7
      · rw [hp]; exact h9
      · rw [hp]; exact h10
      · rw [hp]; exact h11
      · rw [hp]; exact h13
    · obtain ⟨h1, h2, h3, h4, h5⟩ := hnoJob (by rw [← hj]; simpa using hn)
      exact ⟨by rw [site_setSite, hp]; exact h1, h2, h3, h4, h5⟩
    · rw [site_setSite] at hc
      rcases hs with e | ⟨-, e⟩
      · exact hcontact (e ▸ hc)
      · exact e hc
    · rw [site_setSite, hu]; exact hlink
  · exact (h.sites k).congr rfl (site_setSite_ne _ _ hk) (fun _ => rfl) rfl rfl rfl Iff.rfl

/-- A site with an active job is SEATED (R44, R47). -/
theorem State.SiteInv.noJob_of_posture {s : State} (h : s.SiteInv) {i : SiteNo} (hp : (s.site i).posture ≠ .seated) :
    (s.site i).job = none := by
  cases hj : (s.site i).job with
  | none => rfl
  | some j => exact absurd ((h.sites i).job j hj).seated hp

/-- What holds beside a site without a job, and at it, is the whole invariant. -/
theorem State.RestInv.withoutJob {s : State} {i : SiteNo} (h : s.RestInv i) (hj : (s.site i).job = none) (hn : s.NoJobOk i)
    (hc : (s.site i).posture = .seated → s.condOf i .contact = false)
    (hl : s.condOf i .link = true → (s.site i).used = true ∨ s.td.state = .clear) : s.SiteInv := by
  refine ⟨fun k => ?_, h.units, h.capacity, h.once, h.waitEmpty⟩
  by_cases hk : k = i
  · subst hk
    exact ⟨fun j hj' => (by rw [hj] at hj'; cases hj'), fun _ => hn, hc, hl⟩
  · exact h.sites k hk

/-! ### One site's condition and posture together -/

/-- A site's posture and timers and one of its conditions replaced: the part that an input event begins with. -/
theorem State.SiteInv.restOf {s t : State} (h : s.SiteInv) {i : SiteNo} (hsite : ∀ k, k ≠ i → t.site k = s.site k)
    (hc : ∀ k c, k ≠ i → t.condOf k c = s.condOf k c) (htd : t.td = s.td) (ha : t.arb = s.arb) (hcfg : t.cfg = s.cfg)
    (hks : t.ks = s.ks) : t.RestInv i :=
  (h.rest i).congr (by rw [htd]) hsite hc ha (by rw [hcfg]) (fun _ _ => by rw [hks]) (fun _ _ => by rw [hks])
    (by rw [hks]; exact h.once) (by rw [hks]; exact h.waitEmpty)

/-- Where no job is active, a controller with the same port and a condition other than LINK replaced. -/
theorem State.SiteInv.idleSite {s t : State} (h : s.SiteInv) {i : SiteNo} (hj : (s.site i).job = none)
    (hti : (t.site i).job = none ∧ (t.site i).port = (s.site i).port ∧ (t.site i).used = (s.site i).used)
    (hsite : ∀ k, k ≠ i → t.site k = s.site k) (hc : ∀ k c, k ≠ i → t.condOf k c = s.condOf k c)
    (htd : t.td = s.td) (ha : t.arb = s.arb) (hcfg : t.cfg = s.cfg) (hks : t.ks = s.ks)
    (hcontact : (t.site i).posture = .seated → t.condOf i .contact = false)
    (hlink : t.condOf i .link = s.condOf i .link) : t.SiteInv := by
  obtain ⟨n1, n2, n3, n4, n5⟩ := (h.sites i).noJob hj
  obtain ⟨tjob, tport, tused⟩ := hti
  refine (h.restOf hsite hc htd ha hcfg hks).withoutJob tjob ⟨by rw [tport]; exact n1, by rw [ha]; exact n2,
    by rw [ha]; exact n3, by rw [hks]; exact n4, by rw [hks]; exact n5⟩ hcontact ?_
  rw [hlink, tused, htd]
  exact (h.sites i).link

/-- A condition other than LINK changes, which leaves the site as it should be: DIE_SUPPLY clears, or no job is active and CONTACT
is not declared on a SEATED site. -/
theorem State.SiteInv.changeCond {s : State} (h : s.SiteInv) (i : SiteNo) {c : SiteCond} {v : Bool} (hc : c ≠ .link)
    (hv : v = false ∨ ((s.site i).job = none ∧ (c = .contact → (s.site i).posture ≠ .seated))) :
    (s.changeCond i c v).SiteInv := by
  have hlink : (s.changeCond i c v).condOf i .link = s.condOf i .link := condOf_changeCond_ne _ _ (.inr hc.symm)
  have hcontact : (s.site i).posture = .seated → (s.changeCond i c v).condOf i .contact = false := fun hs => by
    by_cases e : c = .contact
    · subst e
      rw [condOf_changeCond]
      exact hv.resolve_right fun h' => h'.2 rfl hs
    · rw [condOf_changeCond_ne _ _ (.inr (Ne.symm e))]; exact (h.sites i).contact hs
  rcases hv with rfl | ⟨hj, -⟩
  · refine ⟨fun k => ?_, by rw [changeCond_arb]; exact h.units, by rw [changeCond_arb, changeCond_cfg]; exact h.capacity,
      by rw [changeCond_ks]; exact h.once, by rw [changeCond_ks]; exact h.waitEmpty⟩
    by_cases hk : k = i
    · subst hk
      obtain ⟨hjob, hnoJob, -, hlink'⟩ := h.sites k
      have hsupply : ∀ j, (s.site k).job = some j → (s.changeCond k c false).condOf k .dieSupply = false := fun j hj => by
        by_cases e : c = .dieSupply
        · subst e; exact condOf_changeCond _ _ _ _
        · rw [condOf_changeCond_ne _ _ (.inr (Ne.symm e))]; exact (hjob j hj).noDieSupply
      refine ⟨fun j hj => ?_, fun hn => ?_, by rw [site_changeCond]; exact hcontact, by
        rw [site_changeCond, hlink, changeCond_td]; exact hlink'⟩
      · rw [site_changeCond] at hj
        obtain ⟨h1, h2, h3, h4, h5, -, h7, h8, h9, h10, h11, h12, h13, h14⟩ := hjob j hj
        refine ⟨?_, ?_, ?_, ?_, hlink.trans h5, hsupply j hj, ?_, h8, ?_, ?_, ?_, ?_, ?_, ?_⟩ <;>
          simp only [site_changeCond, changeCond_td, changeCond_arb, changeCond_ks] <;> assumption
      · rw [site_changeCond] at hn
        obtain ⟨h1, h2, h3, h4, h5⟩ := hnoJob hn
        constructor <;> simp only [site_changeCond, changeCond_arb, changeCond_ks] <;> assumption
    · exact (h.sites k).congr (by simp) (by simp) (fun _ => condOf_changeCond_ne _ _ (.inl hk)) (by simp) (by simp) (by simp)
        (by simp)
  · exact h.idleSite hj (by simp [hj]) (by simp) (fun _ _ hk => condOf_changeCond_ne _ _ (.inl hk)) (by simp) (by simp)
      (by simp) (by simp) (by rw [site_changeCond]; exact hcontact) hlink

/-! ### No job active anywhere -/

/-- No job is active, nothing is in progress, and no unit is in use. -/
structure State.IdleInv (s : State) : Prop where
  job : ∀ i, (s.site i).job = none
  noJob : ∀ i, s.NoJobOk i
  contact : ∀ i, (s.site i).posture = .seated → s.condOf i .contact = false
  inUse : s.arb.inUse = 0
  once : s.ks.waitList.Nodup
  waitEmpty : s.ks.waitList ≠ [] → s.ks.free = []

theorem unitsInFlight_zero {a : Arbiter} (h : ∀ i : SiteNo, a.inFlight[i] = none) : a.unitsInFlight = 0 := by
  have hz : allSites.map (fun i => a.inFlight[i].getD 0) = allSites.map (fun _ => 0) :=
    List.map_congr_left fun i _ => by rw [h i]; rfl
  rw [Arbiter.unitsInFlight, hz]
  rfl

theorem State.IdleInv.siteInv {s : State} (h : s.IdleInv)
    (hl : ∀ i, s.condOf i .link = true → (s.site i).used = true ∨ s.td.state = .clear) : s.SiteInv :=
  ⟨fun i => ⟨fun j hj => (by rw [h.job i] at hj; cases hj), fun _ => h.noJob i, h.contact i, hl i⟩,
    by rw [h.inUse, unitsInFlight_zero fun i => (h.noJob i).inFlight], by rw [h.inUse]; exact Nat.zero_le _, h.once, h.waitEmpty⟩

/-- With no touchdown open or lifting, no job is active (R83). -/
theorem State.SiteInv.idle {s : State} (h : s.SiteInv) (hc : s.td.state = .clear) : s.IdleInv := by
  have hj : ∀ i, (s.site i).job = none := fun i => by
    cases hj : (s.site i).job with
    | none => rfl
    | some j => exact absurd hc ((h.sites i).job j hj).touchdown
  have hn : ∀ i, s.NoJobOk i := fun i => (h.sites i).noJob (hj i)
  exact ⟨hj, hn, fun i => (h.sites i).contact, by rw [h.units, unitsInFlight_zero fun i => (hn i).inFlight], h.once, h.waitEmpty⟩

theorem State.IdleInv.congr {s t : State} (h : s.IdleInv) (hj : ∀ i, (t.site i).job = (s.site i).job)
    (hp : ∀ i, (t.site i).port = (s.site i).port)
    (hc : ∀ i, (t.site i).posture = .seated → t.condOf i .contact = false) (ha : t.arb = s.arb)
    (hb : t.ks.bound = s.ks.bound) (hw : t.ks.waitList = s.ks.waitList) (hf : t.ks.free = s.ks.free) : t.IdleInv where
  job i := by rw [hj]; exact h.job i
  noJob i := by
    obtain ⟨h1, h2, h3, h4, h5⟩ := h.noJob i
    exact ⟨by rw [hp]; exact h1, by rw [ha]; exact h2, by rw [ha]; exact h3, by rw [hb]; exact h4, by rw [hw]; exact h5⟩
  contact := hc
  inUse := by rw [ha]; exact h.inUse
  once := by rw [hw]; exact h.once
  waitEmpty := by rw [hw, hf]; exact h.waitEmpty

/-- A site's controller replaced by one with the same job and port, and the same posture or one that is not SEATED. -/
theorem State.IdleInv.setSite {s : State} (h : s.IdleInv) {i : SiteNo} {c : SiteCtl} (hj : c.job = (s.site i).job)
    (hp : c.port = (s.site i).port) (hs : c.posture ≠ .seated) : (s.setSite i c).IdleInv := by
  have hsite : ∀ k, (s.setSite i c).site k = s.site k ∨ k = i ∧ (s.setSite i c).site k = c := fun k => by
    by_cases hk : k = i
    · subst hk; exact .inr ⟨rfl, site_setSite _ _ _⟩
    · exact .inl (site_setSite_ne _ _ hk)
  refine h.congr (fun k => ?_) (fun k => ?_) (fun k hk => ?_) rfl rfl rfl rfl
  · rcases hsite k with e | ⟨rfl, e⟩
    · rw [e]
    · rw [e, hj]
  · rcases hsite k with e | ⟨rfl, e⟩
    · rw [e]
    · rw [e, hp]
  · rcases hsite k with e | ⟨-, e⟩
    · rw [e] at hk; exact h.contact k hk
    · rw [e] at hk; exact absurd hk hs

/-- What a change leaves that touches no site, arbiter or key, and no CONTACT. -/
theorem State.IdleInv.same {s t : State} (h : s.IdleInv) (hs : ∀ i, t.site i = s.site i)
    (hc : ∀ i, t.condOf i .contact = s.condOf i .contact) (ha : t.arb = s.arb) (hb : t.ks.bound = s.ks.bound)
    (hw : t.ks.waitList = s.ks.waitList) (hf : t.ks.free = s.ks.free) : t.IdleInv :=
  h.congr (fun i => by rw [hs]) (fun i => by rw [hs]) (fun i hi => by rw [hc]; exact h.contact i (by rw [← hs]; exact hi)) ha hb
    hw hf

/-- A unit reset (R174), and the release that may follow. -/
theorem blocksReset_siteInv (s : State) (cause : ResetCause) (held : Bool) : (s.blocksReset cause held).SiteInv := by
  have hsite : ∀ i, (s.blocksReset cause held).site i = SiteCtl.afterReset := fun i => by
    simp [State.site, State.blocksReset]
  have hcond : ∀ i c, (s.blocksReset cause held).condOf i c = false := fun i c => by
    cases c <;> simp [State.condOf, State.smon, State.blocksReset, Monitor.afterReset, SiteMon.afterReset, SiteBits.none,
      SiteBits.get]
  refine State.IdleInv.siteInv ⟨fun i => by rw [hsite]; rfl, fun i => ⟨by rw [hsite]; rfl, ?_, ?_, ?_, ?_⟩,
    fun i _ => hcond i _, rfl, List.nodup_nil, fun h => absurd rfl h⟩ fun i hl => by rw [hcond] at hl; cases hl
  all_goals simp [State.blocksReset, Arbiter.afterReset, KeyStore.afterReset]

theorem State.SiteInv.leaveReset {s : State} (h : s.SiteInv) : s.leaveReset.SiteInv :=
  (h.setArb (a := { s.arb with
    pump := s.pins.pumpFault, holdTimer := if s.pins.pumpFault then some s.cfg.pumpHoldLimit else none }) rfl rfl
    fun _ => .inl rfl).congr rfl rfl (fun _ _ => rfl) rfl rfl rfl rfl rfl

end Sys2Proof.Machine
end

section
/-!
SUPPORT. State.SiteInv over the requests and over every command (R83, R110, R111, R113, R19, R21).
-/
namespace Sys2Proof.Machine

/-! ### Requests -/

theorem State.SiteInv.dropFront {s : State} (h : s.SiteInv) : s.dropFront.SiteInv :=
  h.congr rfl rfl (fun _ _ => rfl) rfl rfl rfl rfl rfl

theorem State.LogInv.dropFront {s : State} (h : s.LogInv) : s.dropFront.LogInv :=
  h.beside (beside_of_sites (s := s) (fun _ => rfl) rfl (fun _ => rfl) rfl)

/-- CONFIGURE is carried out with no job active (R170), when each parameter may change, the capacity too. -/
theorem State.IdleInv.applyEntry {s : State} (h : s.IdleInv) (e : ParamId × Nat) : (s.applyEntry e).IdleInv := by
  obtain ⟨p, v⟩ := e
  have hcfg : ({ s with cfg := s.cfg.put p (p.clamp v) } : State).IdleInv :=
    h.same (fun _ => rfl) (fun _ => rfl) rfl rfl rfl rfl
  have henable : ∀ (before : SiteSet) (s : State) (i : SiteNo), s.IdleInv → (State.enableSite before s i).IdleInv :=
    fun before s i h => by
      unfold State.enableSite
      split
      · exact h.setSite rfl rfl (by simp)
      · split
        · exact h.setSite rfl rfl (by simp)
        · exact h
  cases p
  case sitesEnabled => exact forSites_inv State.IdleInv _ (henable _) _ hcfg
  case poolLowThreshold =>
    simp only [State.applyEntry]
    split
    · exact hcfg
    · exact hcfg.same (by simp) (by simp) (by simp) (by simp) (by simp) (by simp)
  all_goals exact hcfg

theorem applyEntry_td (s : State) (e : ParamId × Nat) : (s.applyEntry e).td = s.td := by
  have henable : ∀ (before : SiteSet) (s : State) (i : SiteNo), (State.enableSite before s i).td = s.td := fun before s i => by
    unfold State.enableSite; (repeat' split) <;> rfl
  obtain ⟨p, v⟩ := e
  cases p
  case sitesEnabled => exact forSites_inv (fun t => t.td = s.td) _ (fun t i ht => (henable _ t i).trans ht) _ rfl
  case poolLowThreshold => simp only [State.applyEntry]; split <;> simp
  all_goals rfl

theorem State.SiteInv.doConfigure {s : State} (h : s.SiteInv) (f : InFrame) : (s.doConfigure f).SiteInv := by
  unfold State.doConfigure
  split
  · exact h.reply _ _ _
  · next es _ =>
    split
    · exact h.reply _ _ _
    · next hclear =>
      split
      · exact h.reply _ _ _
      · have hidle := h.idle (by simpa using hclear)
        have htd : (es.foldl State.applyEntry s).td = s.td := foldl_keeps (fun s : State => s.td) _ applyEntry_td es s
        exact (State.IdleInv.siteInv (foldl_inv State.IdleInv _ (fun _ e h => h.applyEntry e) es s hidle) fun _ _ =>
          .inr (by rw [htd]; simpa using hclear)).reply _ _ _

theorem State.SiteInv.withMon {s : State} (h : s.SiteInv) {m : Monitor} (hm : m.site = s.mon.site) :
    ({ s with mon := m } : State).SiteInv :=
  h.congr rfl rfl (fun k c => by simp only [State.condOf, State.smon, hm]) rfl rfl rfl rfl rfl

theorem State.SiteInv.doSetEnables {s : State} (h : s.SiteInv) (f : InFrame) : (s.doSetEnables f).SiteInv := by
  have hload := h.forSites (State.loadEnables f.payload) fun s i h => h.setSmon i rfl
  refine (foldl_inv State.SiteInv State.throttle (fun _ sc h => h.throttle sc) allScopes _ ?_).reply _ _ _
  exact hload.withMon rfl

theorem State.SiteInv.doReadEvents {s : State} (h : s.SiteInv) (f : InFrame) : (s.doReadEvents f).SiteInv := by
  unfold State.doReadEvents
  split
  · exact h.reply _ _ _
  · next sc _ =>
    cases sc with
    | site i => exact (h.reply f _ _).setSmon i rfl
    | global => exact (h.reply f _ _).withMon rfl

/-! #### TOUCHDOWN (R41, R124) -/

theorem State.IdleInv.startSeating {s : State} (h : s.IdleInv) (i : SiteNo) : (s.startSeating i).IdleInv := by
  simp only [State.startSeating]
  split
  · split <;> exact h.setSite rfl rfl (by simp)
  · exact h

/-- A TOUCHDOWN clears LINK at every site (R124), since used flags fall. -/
theorem State.IdleInv.openTouchdown {s : State} (h : s.IdleInv) : s.openTouchdown.SiteInv := by
  have hopen : (s.setTd { s.td with state := .opened, number := nextNumber s.td.number }).IdleInv :=
    h.same (fun _ => rfl) (fun _ => rfl) rfl rfl rfl rfl
  have hclear : ∀ (s : State) (i : SiteNo), s.IdleInv → (s.setCond i .link false).IdleInv := fun s i h =>
    h.same (fun _ => rfl) (fun k => condOf_setCond_ne _ _ (.inr (by simp))) rfl rfl rfl rfl
  have hkeep : ∀ (s : State) (i k : SiteNo), s.condOf i .link = false → (s.setCond k .link false).condOf i .link = false :=
    fun s i k hi => by
      by_cases e : i = k
      · subst e; exact condOf_setCond _ _ _ _
      · rw [condOf_setCond_ne _ _ (.inl e)]; exact hi
  have hidle := forSites_inv State.IdleInv _ hclear _ (forSites_inv State.IdleInv _ (fun _ i h => h.startSeating i) _ hopen)
  have hlink : ∀ (s : State) (i : SiteNo), (forSites (fun s i => s.setCond i .link false) s).condOf i .link = false :=
    fun s i => foldl_each (fun i s => s.condOf i .link = false) (fun s i => s.setCond i .link false)
      (fun s i => condOf_setCond _ _ _ _) (fun s i k hi => hkeep s i k hi) allSites _ (mem_allSites i)
  have hsample : ∀ (s : State) (i : SiteNo), s.IdleInv ∧ s.SiteInv → (s.sampleDieSupply i).IdleInv ∧ (s.sampleDieSupply i).SiteInv :=
    fun s i ⟨hi, hs⟩ => by
      unfold State.sampleDieSupply
      split
      · exact ⟨hi.same (by simp) (fun k => condOf_changeCond_ne _ _ (.inr (by simp))) (by simp) (by simp) (by simp) (by simp),
          hs.changeCond i (by simp) (.inr ⟨hi.job i, by simp⟩)⟩
      · exact ⟨hi, hs⟩
  have hsampled := forSites_inv (fun s : State => s.IdleInv ∧ s.SiteInv) _ hsample _
    ⟨hidle, hidle.siteInv fun i hi => by rw [hlink] at hi; cases hi⟩
  exact hsampled.2.forSites _ fun _ i h => h.testAdmission i

theorem State.SiteInv.doTouchdown {s : State} (h : s.SiteInv) (f : InFrame) : (s.doTouchdown f).SiteInv := by
  unfold State.doTouchdown
  split
  · next hc => exact (h.idle hc).openTouchdown.reply _ _ _
  · exact h.reply _ _ _

/-! #### LIFTOFF (R126, R129) -/

theorem State.SiteInv.abortAll {s : State} (h : s.SiteInv) : s.abortAll.SiteInv := h.forSites _ fun _ i h => h.abort i _

theorem State.SiteInv.beginLift {s : State} (h : s.SiteInv) (ho : s.td.state = .opened) (tag : BitVec 6) (toAbort : Bool) :
    (s.beginLift tag toAbort).SiteInv := by
  have hlift : ∀ d : Touchdown, d.state ≠ .clear →
      ((s.setTd d).setLog { s.log with slotWaiters := Vector.replicate 16 false }).SiteInv := fun d hd =>
    (h.setTd (by rw [ho]; simp) hd).setLog _
  cases toAbort with
  | false => exact hlift { s.td with state := .liftingDrain, deferred := some tag, liftCount := 0 } (by simp)
  | true => exact (hlift { s.td with state := .liftingAbort, deferred := some tag, liftCount := 0 } (by simp)).abortAll

theorem State.SiteInv.mergeLift {s : State} (h : s.SiteInv) (toAbort : Bool) : (s.mergeLift toAbort).SiteInv := by
  unfold State.mergeLift
  split
  · next hc =>
    have hdrain : s.td.state = .liftingDrain := of_decide_eq_true (Bool.and_eq_true_iff.mp hc).2
    exact (h.setTd (by rw [hdrain]; simp) (by simp)).abortAll
  · exact h

theorem State.SiteInv.doLiftoff {s : State} (h : s.SiteInv) (f : InFrame) : (s.doLiftoff f).SiteInv := by
  unfold State.doLiftoff
  split
  · exact h.reply _ _ _
  · split
    case h_1 => exact h.reply _ _ _
    case h_2 ho => exact (h.beginLift ho _ _).finishLift
    all_goals exact ((h.mergeLift _).reply _ _ _).finishLift

/-! #### Keys, jobs and records -/

theorem State.SiteInv.doLoadKeys {s : State} (h : s.SiteInv) (f : InFrame) : (s.doLoadKeys f).SiteInv := by
  simp only [State.doLoadKeys]
  split
  · exact h.reply _ _ _
  · split
    · exact h.reply _ _ _
    · exact ((h.acceptKeys _).reply _ _ _).finishLift

theorem State.SiteInv.doDiscardKeys {s : State} (h : s.SiteInv) (f : InFrame) : (s.doDiscardKeys f).SiteInv := by
  have hempty : (s.setKs { s.ks with free := [] }).SiteInv :=
    ⟨fun i => (h.sites i).congr rfl rfl (fun _ => rfl) rfl rfl rfl Iff.rfl, h.units, h.capacity, h.once, fun _ => rfl⟩
  exact hempty.evalPoolLow.reply _ _ _

theorem State.SiteInv.postJob {s : State} (h : s.SiteInv) (i : SiteNo) (p : Posting) : (s.postJob i p).SiteInv := by
  have hqueue : (s.setSite i { s.site i with queue := (s.site i).queue ++ [p] }).SiteInv := h.setSite rfl rfl rfl (.inl rfl)
  simp only [State.postJob]
  split
  · exact hqueue.testAdmission i
  · exact hqueue

theorem State.SiteInv.doProvision {s : State} (h : s.SiteInv) (f : InFrame) : (s.doProvision f).SiteInv := by
  simp only [State.doProvision]
  split
  · exact h.reply _ _ _
  · split
    · exact h.reply _ _ _
    · split
      · exact h.reply _ _ _
      · exact (h.postJob _ _).reply _ _ _

theorem State.SiteInv.doCancel {s : State} (h : s.SiteInv) (f : InFrame) : (s.doCancel f).SiteInv := by
  unfold State.doCancel
  split
  · next i queued takeActive _ _ =>
    have hdrop : (if queued then s.dropQueue i else s).SiteInv := by
      split
      · exact (h.setSite (c := { s.site i with queue := [] }) rfl rfl rfl (.inl rfl)).setSlotWaiter i false
      · exact h
    have habort : (if takeActive then (if queued then s.dropQueue i else s).abort i .aborted
        else if queued then s.dropQueue i else s).SiteInv := by
      split
      · exact hdrop.abort i _
      · exact hdrop
    exact (habort.reply f .ok _).finishLift
  · exact h.reply _ _ _

/-- A freed slot goes to a site that waits for one, at which admission may be made (R137, R138). -/
theorem State.SiteInv.handSlot {s : State} (h : s.SiteInv) (hl : s.LogInv) (i : SiteNo) : (s.handSlot i).SiteInv := by
  unfold State.handSlot
  split
  · next hc =>
    have hready : (s.setSlotWaiter i false).readyToAdmit i = true := hl.waiters i (Bool.and_eq_true_iff.mp hc).1
    exact (h.setSlotWaiter i false).admitReady hready
  · exact h

theorem State.SiteInv.doClearRecords {s : State} (h : s.SiteInv) (hl : s.LogInv) (f : InFrame) :
    (s.doClearRecords f).SiteInv := by
  have hkept : (s.setLog { s.log with records := s.log.records.drop (numAt f.payload 0 2) }).LogInv := by
    refine ⟨le_trans ?_ hl.room, hl.account, hl.waiters⟩
    simp only [IssueLog.slotsInUse, setLog_log, List.length_drop]
    omega
  have hslots := forSites_inv (fun s : State => s.LogInv ∧ s.SiteInv) State.handSlot
    (fun _ i h => ⟨h.1.handSlot i, h.2.handSlot h.1 i⟩) _ ⟨hkept, h.setLog _⟩
  simp only [State.doClearRecords]
  split
  · exact hslots.2.evalLogHigh.reply _ _ _
  · exact (h.setLog _).evalLogHigh.reply _ _ _

/-! ### Every command -/

/-- A step's answer that keeps the ties of sites, arbiter and keys. -/
def KeepsSites (r : StepResult) : Prop := ∀ t, r = .next t → t.SiteInv

theorem keepsSites_next {t : State} (h : t.SiteInv) : KeepsSites (.next t) := by rintro _ ⟨⟩; exact h

theorem keepsSites_fault (f : Fault) : KeepsSites (.fault f) := by rintro _ ⟨⟩

section Commands

variable {s : State}

theorem takeFrame_keepsSites (is : InFrame → Bool) (act : State → InFrame → State)
    (hact : ∀ f, (act s.dropFront f).SiteInv) : KeepsSites (s.takeFrame is act) := by
  unfold State.takeFrame
  split
  · exact keepsSites_fault _
  · split
    · exact keepsSites_fault _
    · split
      · exact keepsSites_next (hact _)
      · exact keepsSites_fault _

theorem takeRequest_keepsSites (h : s.SiteInv) (kind : Byte) (ok : List Byte → Bool) (act : State → InFrame → State)
    (hact : ∀ f, (act s.dropFront f).SiteInv) : KeepsSites (s.takeRequest kind ok act) := by
  refine takeFrame_keepsSites _ _ fun f => ?_
  split
  · exact hact f
  · exact h.dropFront.reply _ _ _

theorem execControlLinkByteReceived_keepsSites (h : s.SiteInv) (b : Byte) (stopHigh : Bool) :
    KeepsSites (execControlLinkByteReceived b stopHigh s) := by
  have hreceived : ∀ r : Receiver × Option InFrame, (s.received r).SiteInv := fun r =>
    h.congr (by simp) (by simp) (fun _ _ => condOf_of_mon (by simp) _ _) (by simp) (by simp) (by simp) (by simp) (by simp)
  unfold execControlLinkByteReceived
  split
  · exact keepsSites_next h
  · split
    · exact keepsSites_next (hreceived _)
    · exact keepsSites_next (hreceived (Receiver.hunting, none))

theorem execGapTimerExpiry_keepsSites (h : s.SiteInv) : KeepsSites (execGapTimerExpiry s) := by
  unfold execGapTimerExpiry
  split
  · exact keepsSites_next (h.congr rfl rfl (fun _ _ => rfl) rfl rfl rfl rfl rfl)
  · exact keepsSites_fault _

theorem execFrameLastByteSent_keepsSites (h : s.SiteInv) : KeepsSites (execFrameLastByteSent s) := by
  unfold execFrameLastByteSent
  split
  · exact keepsSites_fault _
  · split
    · exact keepsSites_next (blocksReset_siteInv _ _ _).leaveReset
    · exact keepsSites_next (h.congr rfl rfl (fun _ _ => rfl) rfl rfl rfl rfl rfl)

theorem execResetReleased_keepsSites (h : s.SiteInv) : KeepsSites (execResetReleased s) := by
  unfold execResetReleased
  split
  · exact keepsSites_next h.leaveReset
  · exact keepsSites_fault _

/-! #### Site inputs and seat timers -/

theorem State.SiteInv.setContactPin (h : s.SiteInv) (i : SiteNo) (v : Bool) : (s.setContactPin i v).SiteInv :=
  h.congr rfl rfl (fun _ _ => rfl) rfl rfl rfl rfl rfl

theorem State.SiteInv.setOverLimitPin (h : s.SiteInv) (i : SiteNo) (v : Bool) : (s.setOverLimitPin i v).SiteInv :=
  h.congr rfl rfl (fun _ _ => rfl) rfl rfl rfl rfl rfl

theorem State.SiteInv.setPumpPin (h : s.SiteInv) (v : Bool) : (s.setPumpPin v).SiteInv :=
  h.congr rfl rfl (fun _ _ => rfl) rfl rfl rfl rfl rfl

/-- A site that is not SEATED goes to another posture that is not. -/
theorem State.SiteInv.unseatedSite (h : s.SiteInv) {i : SiteNo} {c : SiteCtl} (hp : (s.site i).posture ≠ .seated)
    (hc : c.posture ≠ .seated) (hj : c.job = (s.site i).job) (ho : c.port = (s.site i).port) (hu : c.used = (s.site i).used) :
    (s.setSite i c).SiteInv :=
  h.setSite hj ho hu (.inr ⟨h.noJob_of_posture hp, fun e => absurd e hc⟩)

theorem execContactSensed_keepsSites (h : s.SiteInv) (i : SiteNo) : KeepsSites (execContactSensed i s) := by
  have hpin := h.setContactPin i true
  simp only [execContactSensed]
  split
  case h_1 hp => exact keepsSites_next (hpin.unseatedSite (by rw [hp]; simp) (by simp) rfl rfl rfl)
  all_goals exact keepsSites_next hpin

/-- An event that takes a site's drive away (R44, R56, R148): the posture may fall and a condition is declared; then any job ends. -/
theorem lossOf_siteInv {u : State} {i : SiteNo} (h : s.SiteInv) {p : Posture} (o : JobOutcome)
    (hi : u.site i = { s.site i with posture := p }) (hsite : ∀ k, k ≠ i → u.site k = s.site k)
    (hc : ∀ k c, k ≠ i → u.condOf k c = s.condOf k c) (htd : u.td = s.td) (ha : u.arb = s.arb) (hcfg : u.cfg = s.cfg)
    (hks : u.ks = s.ks) (hcontact : (u.site i).posture = .seated → u.condOf i .contact = false)
    (hlink : u.condOf i .link = s.condOf i .link) : ((u.setSlotWaiter i false).driveCut i o).finishLift.SiteInv := by
  refine State.SiteInv.finishLift ?_
  cases hj : (s.site i).job with
  | none =>
    have hidle : (u.setSlotWaiter i false).SiteInv :=
      (h.idleSite hj (by rw [hi]; exact ⟨hj, rfl, rfl⟩) hsite hc htd ha hcfg hks hcontact hlink).setSlotWaiter i false
    unfold State.driveCut
    rw [site_setSlotWaiter, hi, hj]
    exact hidle
  | some j =>
    have hrest : (u.setSlotWaiter i false).RestInv i := h.restOf hsite hc htd ha hcfg hks
    exact hrest.driveCut (j := j) (by rw [site_setSlotWaiter, hi]; exact hj)
      (by rw [site_setSlotWaiter, hi]; exact ((h.sites i).job j hj).used) hcontact o

theorem execContactDropped_keepsSites (h : s.SiteInv) (i : SiteNo) : KeepsSites (execContactDropped i s) := by
  have hpin := h.setContactPin i false
  simp only [execContactDropped]
  split
  case h_1 hp => exact keepsSites_next (hpin.unseatedSite (by rw [hp]; simp) (by simp) rfl rfl rfl)
  case h_2 =>
    refine keepsSites_next (lossOf_siteInv hpin (p := .unseated) _ (by rw [site_changeCond, site_setSite])
      (fun k hk => by rw [site_changeCond, site_setSite_ne _ _ hk]) (fun k c hk => condOf_changeCond_ne _ _ (.inl hk))
      (by simp) (by simp) (by simp) (by simp) (fun hs => ?_) (condOf_changeCond_ne _ _ (.inr (by simp))))
    rw [site_changeCond, site_setSite] at hs
    cases hs
  all_goals exact keepsSites_next hpin

theorem execDieSupplyAsserted_keepsSites (h : s.SiteInv) (i : SiteNo) : KeepsSites (execDieSupplyAsserted i s) := by
  have hpin := h.setOverLimitPin i true
  simp only [execDieSupplyAsserted]
  split
  · refine keepsSites_next (lossOf_siteInv hpin (p := ((s.setOverLimitPin i true).site i).posture) _ (by rw [site_changeCond])
      (fun k _ => by rw [site_changeCond]) (fun k c hk => condOf_changeCond_ne _ _ (.inl hk)) (by simp) (by simp) (by simp)
      (by simp) (fun hs => ?_) (condOf_changeCond_ne _ _ (.inr (by simp))))
    rw [site_changeCond] at hs
    rw [condOf_changeCond_ne _ _ (.inr (by simp))]
    exact (hpin.sites i).contact hs
  · exact keepsSites_next hpin

theorem execDieSupplyDeasserted_keepsSites (h : s.SiteInv) (i : SiteNo) : KeepsSites (execDieSupplyDeasserted i s) := by
  have hpin := h.setOverLimitPin i false
  simp only [execDieSupplyDeasserted]
  split
  · exact keepsSites_next ((hpin.changeCond i (by simp) (.inl rfl)).testAdmission i)
  · exact keepsSites_next hpin

/-- A SEATING site becomes SEATED, and CONTACT clears with it (R42). -/
theorem State.SiteInv.seat (h : s.SiteInv) {i : SiteNo} (hp : (s.site i).posture = .seating) : (s.seat i).SiteInv := by
  have hj : (s.site i).job = none := h.noJob_of_posture (by rw [hp]; simp)
  unfold State.seat
  dsimp only
  refine State.SiteInv.testAdmission ?_ i
  split
  · refine h.idleSite hj (by rw [site_changeCond, site_setSite]; exact ⟨hj, rfl, rfl⟩)
      (fun k hk => by rw [site_changeCond, site_setSite_ne _ _ hk]) (fun k c hk => condOf_changeCond_ne _ _ (.inl hk)) (by simp)
      (by simp) (by simp) (by simp) (fun _ => condOf_changeCond _ _ _ _) (condOf_changeCond_ne _ _ (.inr (by simp)))
  · next hc => exact h.setSite rfl rfl rfl (.inr ⟨hj, fun _ => by simpa using hc⟩)

theorem execDebounceExpiry_keepsSites (h : s.SiteInv) (i : SiteNo) : KeepsSites (execDebounceExpiry i s) := by
  unfold execDebounceExpiry
  split
  · exact keepsSites_fault _
  · split
    · next hp => exact keepsSites_next (h.seat hp)
    · exact keepsSites_next (h.setSite rfl rfl rfl (.inl rfl))

theorem execSeatTimeoutExpiry_keepsSites (h : s.SiteInv) (i : SiteNo) : KeepsSites (execSeatTimeoutExpiry i s) := by
  have hstop : (s.setSite i { s.site i with seatTimeout := none }).SiteInv := h.setSite rfl rfl rfl (.inl rfl)
  have hdeclare : (s.site i).posture ≠ .seated →
      ((s.setSite i { s.site i with seatTimeout := none }).changeCond i .contact true).SiteInv := fun hp =>
    hstop.changeCond i (by simp) (.inr ⟨by rw [site_setSite]; exact h.noJob_of_posture hp, fun _ => by rw [site_setSite]; exact hp⟩)
  simp only [execSeatTimeoutExpiry]
  split
  · exact keepsSites_fault _
  · split
    case h_1 hp | h_2 hp => exact keepsSites_next (hdeclare (by rw [hp]; simp))
    all_goals exact keepsSites_next hstop

/-! #### The programming supply -/

theorem execPumpFaultAsserted_keepsSites (h : s.SiteInv) : KeepsSites (execPumpFaultAsserted s) := by
  have hpin := h.setPumpPin true
  simp only [execPumpFaultAsserted]
  split
  · exact keepsSites_next hpin
  · exact keepsSites_next ((hpin.setArb (a := { (s.setPumpPin true).arb with
      pump := true, holdTimer := some (s.setPumpPin true).cfg.pumpHoldLimit }) rfl rfl fun _ => .inl rfl).latchGlobal _)

theorem execPumpFaultDeasserted_keepsSites (h : s.SiteInv) : KeepsSites (execPumpFaultDeasserted s) := by
  have hpin := h.setPumpPin false
  simp only [execPumpFaultDeasserted]
  split
  · exact keepsSites_next hpin
  · exact keepsSites_next ((hpin.setArb (a := { (s.setPumpPin false).arb with
      pump := false, holdTimer := none, timeoutInForce := false }) rfl rfl fun _ => .inl rfl).latchGlobal _).grantTest

theorem execPumpHoldExpiry_keepsSites (h : s.SiteInv) : KeepsSites (execPumpHoldExpiry s) := by
  have habort : ∀ (s' : State) (i : SiteNo), s'.SiteInv → (State.abortWaiter s.arb s' i).SiteInv := fun s' i h => by
    unfold State.abortWaiter
    split
    · exact h.abort i _
    · exact h
  unfold execPumpHoldExpiry
  split
  · exact keepsSites_fault _
  · exact keepsSites_next ((h.setArb (a := { s.arb with
      holdTimer := none, timeoutInForce := true, waiting := Vector.replicate 16 none }) rfl rfl
      fun i => .inr (by simp)).forSites _ habort).finishLift

/-! #### Die ports and the Row Engines' timers -/

theorem noteOpenLeft_port (s : State) (i : SiteNo) (left : Nat) :
    ((s.noteOpenLeft i left).site i).port = (s.site i).port := by
  unfold State.noteOpenLeft
  split
  · rw [site_setJob]
  · rfl

theorem execDieResponseComplete_keepsSites (h : s.SiteInv) (i : SiteNo) (ddi : Wire) (openLeft : Nat) :
    KeepsSites (execDieResponseComplete i ddi openLeft s) := by
  simp only [execDieResponseComplete]
  split
  · exact keepsSites_next h
  · next x hx =>
    split
    · exact keepsSites_next h
    · split
      · exact keepsSites_next (h.sameCmd hx rfl)
      · exact keepsSites_next ((h.noteOpenLeft i _).attemptEnded (y := x) (by rw [noteOpenLeft_port]; exact hx) rfl _).finishLift

theorem execDieResponseDeadlineExpiry_keepsSites (h : s.SiteInv) (i : SiteNo) (openLeft : Nat) :
    KeepsSites (execDieResponseDeadlineExpiry i openLeft s) := by
  unfold execDieResponseDeadlineExpiry
  split
  · exact keepsSites_fault _
  · next x hx =>
    split
    · exact keepsSites_fault _
    · exact keepsSites_next ((h.noteOpenLeft i _).attemptEnded (y := x) (by rw [noteOpenLeft_port]; exact hx) rfl _).finishLift

/-- What a job with a timer of its attempt running says of its site: the bind point lies behind it. -/
theorem State.JobOk.running {i : SiteNo} {j : Job} (h : s.JobOk i j) (ht : j.engine ≠ RowEngine.idle) :
    j.phase.early = false ∧ j.phase ≠ .keyWait := by
  have hlate : j.phase.early = false := by
    cases he : j.phase.early with
    | false => rfl
    | true => exact absurd (h.early he).1 ht
  exact ⟨hlate, fun hk => by rw [hk] at hlate; cases hlate⟩

/-- A job in a stage without an exchange, with no request waiting, has nothing in progress. -/
theorem State.SiteInv.freeOfStage (h : s.SiteInv) {i : SiteNo} {j : Job} (hj : (s.site i).job = some j)
    (hs : j.engine.stage.idleWait = true) (hw : s.arb.waiting[i] = none) (hk : j.phase ≠ .keyWait) : s.FreeSite i := by
  have o := (h.sites i).job j hj
  have hx : (s.site i).port.exch = none := by
    cases hx : (s.site i).port.exch with
    | none => rfl
    | some x => have := o.exchange (by simp [hx]); rw [hs] at this; cases this
  refine h.free hj hx hw ?_ hk
  cases hd : s.arb.inFlight[i] with
  | none => rfl
  | some d => obtain ⟨x, -, hx', -⟩ := o.inFlight d hd; rw [hx] at hx'; cases hx'

/-- Nobody waits in another stage than GRANT_WAIT (R111). -/
theorem State.JobOk.waits_none {i : SiteNo} {j : Job} (h : s.JobOk i j) (hs : j.engine.stage ≠ .grantWait) :
    s.arb.waiting[i] = none := by
  cases hd : s.arb.waiting[i] with
  | none => rfl
  | some d => exact absurd (h.waiting d hd).2.2.1 hs

theorem execSettleTimerExpiry_keepsSites (h : s.SiteInv) (i : SiteNo) : KeepsSites (execSettleTimerExpiry i s) := by
  unfold execSettleTimerExpiry
  split
  · exact keepsSites_fault _
  · next j hj =>
    split
    · exact keepsSites_fault _
    · next n hn =>
      have o := (h.sites i).job j hj
      have hs : j.engine.stage = .settling := o.settle (by simp [hn])
      obtain ⟨hlate, hk⟩ := o.running fun e => by rw [e] at hn; cases hn
      have hfree := h.freeOfStage hj (by rw [hs]; rfl) (o.waits_none (by rw [hs]; simp)) hk
      exact keepsSites_next ((h.rest i).performRunning hfree (onSettle_running _ hlate)).finishLift

theorem execOpenTimerExpiry_keepsSites (h : s.SiteInv) (i : SiteNo) : KeepsSites (execOpenTimerExpiry i s) := by
  unfold execOpenTimerExpiry
  split
  · exact keepsSites_fault _
  · next j hj =>
    split
    · exact keepsSites_fault _
    · next n hn =>
      split
      · next m hm =>
        obtain ⟨hlate, hk⟩ := ((h.sites i).job j hj).running fun e => by rw [e] at hn; cases hn
        obtain ⟨hsite, hw, -⟩ := withdraw_self s i
        have hwith := h.withdraw i
        have hj' : ((s.withdraw i).site i).job = some j := by rw [hsite]; exact hj
        unfold Job.onOpenExpiry at hm
        split at hm
        case h_1 hs =>
          obtain rfl := Option.some.inj hm
          refine keepsSites_next ((hwith.rest i).performRunning (hwith.freeOfStage hj' (by rw [hs]; rfl) hw hk)
            (closeRow_running _ hlate (settle_none ((h.sites i).job j hj).settle (by rw [hs]; simp))))
        case h_2 hs | h_3 hs =>
          obtain rfl := Option.some.inj hm
          exact keepsSites_next (hwith.retime hj' rfl rfl rfl rfl fun e => by rw [e] at hs; cases hs)
        all_goals cases hm
      · exact keepsSites_fault _

theorem execRestTimerExpiry_keepsSites (h : s.SiteInv) (i : SiteNo) : KeepsSites (execRestTimerExpiry i s) := by
  unfold execRestTimerExpiry
  split
  · exact keepsSites_fault _
  · next j hj =>
    split
    · exact keepsSites_fault _
    · next n hn =>
      have o := (h.sites i).job j hj
      obtain ⟨hlate, hk⟩ := o.running fun e => by rw [e] at hn; cases hn
      unfold Job.onRest
      split
      · next hs =>
        exact keepsSites_next ((h.rest i).performRunning
          (h.freeOfStage hj (by rw [hs]; rfl) (o.waits_none (by rw [hs]; simp)) hk)
          (openAgain_running hlate (settle_none o.settle (by rw [hs]; simp))))
      · exact keepsSites_next (h.retime hj rfl rfl rfl rfl fun e => by rw [e] at hn; cases hn)

theorem dieCommand_keepsSites (h : s.SiteInv) (i : SiteNo) (code : Byte) (act : Die → DieFrame → Die × DieAnswer) :
    KeepsSites (s.dieCommand i code act) := by
  unfold State.dieCommand
  split
  · exact keepsSites_next (h.setDie i _)
  · exact keepsSites_fault _

theorem execCommandFrameSent_keepsSites (h : s.SiteInv) (i : SiteNo) (ddo : Wire) :
    KeepsSites (execCommandFrameSent i ddo s) := by
  simp only [execCommandFrameSent]
  split
  · exact keepsSites_fault _
  · next x hx =>
    split
    · exact keepsSites_fault _
    · exact keepsSites_next ((h.sameCmd (y := { x with timer := some x.deadline }) hx rfl).setDie i _)

/-- Every command keeps the ties of sites, arbiter and keys; CLEAR RECORDS with the Issue Log's account, by which the sites that
wait for a slot may be admitted. -/
theorem exec_keepsSites (c : Instr) (hl : s.LogInv) (h : s.SiteInv) : KeepsSites (exec c s) := by
  have hd := h.dropFront
  cases c with
  | controlLinkByteReceived b stopHigh => exact execControlLinkByteReceived_keepsSites h b stopHigh
  | gapTimerExpiry => exact execGapTimerExpiry_keepsSites h
  | frameLastByteSent => exact execFrameLastByteSent_keepsSites h
  | heldStatusReply =>
    refine takeFrame_keepsSites _ _ fun f => ?_
    unfold State.doHeldStatus
    split
    · exact hd.reply _ _ _
    · exact hd
  | badRequest => exact takeFrame_keepsSites _ (fun s f => s.reply f .badRequest []) fun f => hd.reply f _ _
  | identify => exact takeRequest_keepsSites h _ _ (fun s f => s.reply f .ok s.identifyFields) fun f => hd.reply f _ _
  | status => exact takeRequest_keepsSites h _ _ (fun s f => s.reply f .ok s.statusFields) fun f => hd.reply f _ _
  | readRecords => exact takeRequest_keepsSites h _ _ State.doReadRecords fun f => hd.reply f _ _
  | configure => exact takeRequest_keepsSites h _ _ _ fun f => hd.doConfigure f
  | setEnables => exact takeRequest_keepsSites h _ _ _ fun f => hd.doSetEnables f
  | touchdown => exact takeRequest_keepsSites h _ _ _ fun f => hd.doTouchdown f
  | liftoff => exact takeRequest_keepsSites h _ _ _ fun f => hd.doLiftoff f
  | resetUnit => exact takeRequest_keepsSites h _ _ _ fun f => hd.congr rfl rfl (fun _ _ => rfl) rfl rfl rfl rfl rfl
  | loadKeys => exact takeRequest_keepsSites h _ _ _ fun f => hd.doLoadKeys f
  | discardKeys => exact takeRequest_keepsSites h _ _ _ fun f => hd.doDiscardKeys f
  | provision => exact takeRequest_keepsSites h _ _ _ fun f => hd.doProvision f
  | cancel => exact takeRequest_keepsSites h _ _ _ fun f => hd.doCancel f
  | clearRecords => exact takeRequest_keepsSites h _ _ _ fun f => hd.doClearRecords hl.dropFront f
  | readEvents => exact takeRequest_keepsSites h _ _ _ fun f => hd.doReadEvents f
  | powerOn | resetLineAsserted => exact keepsSites_next (blocksReset_siteInv _ _ _)
  | resetReleased => exact execResetReleased_keepsSites h
  | contactSensed i => exact execContactSensed_keepsSites h i
  | contactDropped i => exact execContactDropped_keepsSites h i
  | debounceExpiry i => exact execDebounceExpiry_keepsSites h i
  | seatTimeoutExpiry i => exact execSeatTimeoutExpiry_keepsSites h i
  | dieSupplyAsserted i => exact execDieSupplyAsserted_keepsSites h i
  | dieSupplyDeasserted i => exact execDieSupplyDeasserted_keepsSites h i
  | pumpFaultAsserted => exact execPumpFaultAsserted_keepsSites h
  | pumpFaultDeasserted => exact execPumpFaultDeasserted_keepsSites h
  | pumpHoldExpiry => exact execPumpHoldExpiry_keepsSites h
  | dieResponseComplete i ddi openLeft => exact execDieResponseComplete_keepsSites h i ddi openLeft
  | dieResponseDeadlineExpiry i openLeft => exact execDieResponseDeadlineExpiry_keepsSites h i openLeft
  | settleTimerExpiry i => exact execSettleTimerExpiry_keepsSites h i
  | openTimerExpiry i => exact execOpenTimerExpiry_keepsSites h i
  | restTimerExpiry i => exact execRestTimerExpiry_keepsSites h i
  | diePowerOn i cells => exact keepsSites_next (h.setDie i _)
  | reset i | closeAll i | enterProvisioning i | sense i | openRow i | pulse i a b | closeRow i | reload i | readShadow i =>
    exact dieCommand_keepsSites h i _ _
  | commandFrameSent i ddo => exact execCommandFrameSent_keepsSites h i ddo

end Commands

/-- Settles O43: the command in front keeps the invariant by `exec_keepsSites`, which does not read the queue of commands. -/
theorem stepKeepsSiteInvariant : Obligations.StepKeepsSiteInvariant := by
  unfold Obligations.StepKeepsSiteInvariant
  intro s t hl h hstep
  unfold step at hstep
  split at hstep
  · obtain rfl := Host.Outcome.next.inj hstep
    exact h
  · next c rest _ =>
    have hrest : ({ s with pending := rest } : State).SiteInv := h.congr rfl rfl (fun _ _ => rfl) rfl rfl rfl rfl rfl
    exact exec_keepsSites c (s := { s with pending := rest }) ⟨hl.room, hl.account, hl.waiters⟩ hrest t hstep

end Sys2Proof.Machine
end

section
/-!
SUPPORT. The frames of the die ports (R65, R68, R179): a frame passes its check when its bytes, the check byte included, fold to 0;
a change of one byte changes what they fold to.
-/
namespace Sys2Proof.Machine

/-! ### The check byte -/

theorem foldl_xor_eq (a : Byte) (bs : List Byte) : bs.foldl (· ^^^ ·) a = a ^^^ bs.foldl (· ^^^ ·) 0 := by
  induction bs generalizing a with
  | nil => simp
  | cons b bs ih => simp only [List.foldl_cons]; rw [ih, ih (0 ^^^ b), show (0 : Byte) ^^^ b = b from BitVec.zero_xor, BitVec.xor_assoc]

/-- A byte replaced changes the fold of the bytes by what it differs from the byte it replaces. -/
theorem foldl_xor_set (a b : Byte) (bs : List Byte) (k : Nat) (hk : k < bs.length) :
    (bs.set k b).foldl (· ^^^ ·) a = bs.foldl (· ^^^ ·) a ^^^ (bs[k] ^^^ b) := by
  induction bs generalizing a k with
  | nil => simp at hk
  | cons c bs ih =>
    cases k with
    | zero =>
      simp only [List.set_cons_zero, List.foldl_cons, List.getElem_cons_zero]
      rw [foldl_xor_eq, foldl_xor_eq (a ^^^ c)]
      have hc : c ^^^ (c ^^^ b) = b := by rw [← BitVec.xor_assoc, BitVec.xor_self, BitVec.zero_xor]
      calc a ^^^ b ^^^ bs.foldl (· ^^^ ·) 0 = a ^^^ (c ^^^ (c ^^^ b)) ^^^ bs.foldl (· ^^^ ·) 0 := by rw [hc]
        _ = a ^^^ c ^^^ bs.foldl (· ^^^ ·) 0 ^^^ (c ^^^ b) := by ac_rfl
    | succ k => exact ih (a ^^^ c) k (by simpa using hk)

/-- The bytes of a frame or response, its check byte included, fold to 0 (R65). -/
theorem dieCheck_sealed (body : List Byte) : dieCheck (body ++ [dieCheck body]) = 0 := by
  rw [dieCheck, List.foldl_append]
  exact BitVec.xor_self

/-- With one byte changed they do not. -/
theorem dieCheck_sealed_set (body : List Byte) {k : Nat} {b : Byte} (hk : k < body.length + 1)
    (hb : (body ++ [dieCheck body])[k]? ≠ some b) : dieCheck ((body ++ [dieCheck body]).set k b) ≠ 0 := by
  have hlen : k < (body ++ [dieCheck body]).length := by simpa using hk
  intro h0
  have hfold := foldl_xor_set 0x3C b _ k hlen
  rw [← dieCheck, ← dieCheck, h0, dieCheck_sealed] at hfold
  have hsame := BitVec.xor_eq_zero_iff.mp (hfold.trans BitVec.zero_xor).symm
  exact hb (by rw [List.getElem?_eq_getElem hlen, hsame])

theorem readDieFrame_of_check {bs : List Byte} (h : dieCheck bs ≠ 0) : readDieFrame bs = none := by
  unfold readDieFrame
  split
  · next code row a0 a1 a2 a3 check =>
    refine if_neg fun hc => h ?_
    rw [hc]
    exact dieCheck_sealed [code, row, a0, a1, a2, a3]
  · rfl

theorem readResponse_of_check {bs : List Byte} (h : dieCheck bs ≠ 0) : readResponse bs = .lost := by
  unfold readResponse
  split
  · next st d0 d1 d2 d3 check =>
    refine if_pos fun hc => h ?_
    rw [hc]
    exact dieCheck_sealed [st, d0, d1, d2, d3]
  · rfl

/-! ### Commands and their frames -/

theorem length_wordBytes (w : BitVec 32) : (wordBytes w).length = 4 := length_bytesLE 4 _

/-- A die reads back the command that was sent (R65, R75). -/
theorem readDieFrame_frame (c : DieCmd) :
    readDieFrame c.frame = some { code := c.fields.1, row := c.fields.2.1, arg := c.fields.2.2 } := by
  have hword := (eq_wordOf_iff c.fields.2.2 _ _ _ _).mpr (wordBytes_eq _)
  rw [DieCmd.frame, wordBytes_eq]
  simp only [List.cons_append, List.nil_append, readDieFrame, if_true]
  rw [← hword]

theorem regionRowOf_byte (r : RegionRow) : regionRowOf (BitVec.ofNat 8 r.val) = some r := by
  have hr : (BitVec.ofNat 8 r.val).toNat = r.val := by rw [BitVec.toNat_ofNat]; omega
  simp only [regionRowOf, hr, r.isLt, dite_true]

/-- The command that a frame's code, row byte and argument spell (R65). -/
def commandOf (f : DieFrame) : Option DieCmd :=
  if f.code = 0x01 then some .reset
  else if f.code = 0x02 then some .closeAll
  else if f.code = 0x03 then some (.enterProvisioning (f.arg.setWidth 16))
  else if f.code = 0x10 then (regionRowOf f.row).map (.sense · (if f.arg = 0 then .normal else .high))
  else if f.code = 0x11 then (regionRowOf f.row).map .openRow
  else if f.code = 0x12 then some (.pulse f.arg)
  else if f.code = 0x13 then (regionRowOf f.row).map .closeRow
  else if f.code = 0x20 then some .reload
  else if h : f.arg.toNat < 12 then some (.readShadow ⟨f.arg.toNat, h⟩)
  else none

/-- The frame that a die reads of a command spells it. -/
theorem commandOf_fields (c : DieCmd) : commandOf { code := c.fields.1, row := c.fields.2.1, arg := c.fields.2.2 } = some c := by
  cases c with
  | reset | closeAll | reload | pulse m => rfl
  | enterProvisioning w =>
    have hw : (w.setWidth 32).setWidth 16 = w := BitVec.eq_of_toNat_eq (by simp only [BitVec.toNat_setWidth]; omega)
    exact congrArg (fun w => some (DieCmd.enterProvisioning w)) hw
  | sense r m =>
    cases m
    · exact congrArg (Option.map (DieCmd.sense · .normal)) (regionRowOf_byte r)
    · exact congrArg (Option.map (DieCmd.sense · .high)) (regionRowOf_byte r)
  | openRow r => exact congrArg (Option.map DieCmd.openRow) (regionRowOf_byte r)
  | closeRow r => exact congrArg (Option.map DieCmd.closeRow) (regionRowOf_byte r)
  | readShadow w =>
    have hw : (BitVec.ofNat 32 w.val).toNat = w.val := by rw [BitVec.toNat_ofNat]; omega
    have hlt : (BitVec.ofNat 32 w.val).toNat < 12 := hw.trans_lt w.isLt
    have hread : (⟨_, hlt⟩ : Fin 12) = w := Fin.ext hw
    calc _ = some (DieCmd.readShadow ⟨_, hlt⟩) := dif_pos hlt
      _ = some (.readShadow w) := by rw [hread]

/-- Two commands never have the same frame, since a die reads each back. -/
theorem DieCmd.frame_inj {c c' : DieCmd} (h : c.frame = c'.frame) : c = c' := by
  have hread := (readDieFrame_frame c).symm.trans ((congrArg readDieFrame h).trans (readDieFrame_frame c'))
  exact Option.some.inj ((commandOf_fields c).symm.trans
    ((congrArg commandOf (Option.some.inj hread)).trans (commandOf_fields c')))

theorem frame_of_fields {c : DieCmd} {code row a : Byte} {w : BitVec 32} (h : c.fields = (code, row, w))
    (hw : wordBytes w = [a, 0, 0, 0]) : c.frame = [code, row, a, 0, 0, 0, code ^^^ row ^^^ a ^^^ 0x3C] := by
  have hcheck : dieCheck [code, row, a, 0, 0, 0] = code ^^^ row ^^^ a ^^^ 0x3C := by
    simp only [dieCheck, List.foldl_cons, List.foldl_nil]
    calc 0x3C ^^^ code ^^^ row ^^^ a ^^^ 0 ^^^ 0 ^^^ 0 = 0x3C ^^^ code ^^^ row ^^^ a := by simp
      _ = code ^^^ row ^^^ a ^^^ 0x3C := by ac_rfl
  simp only [DieCmd.frame, h, hw]
  rw [hcheck]
  rfl

theorem frame_take (c : DieCmd) : c.frame.take 6 = c.fields.1 :: c.fields.2.1 :: wordBytes c.fields.2.2 := by
  rw [DieCmd.frame]
  exact List.take_left' (by simp [length_wordBytes])

theorem readResponse_refused (data : BitVec 32) : readResponse (responseBytes 0xE2 data) = .refused := by
  rw [responseBytes, wordBytes_eq]
  simp only [List.cons_append, List.nil_append, readResponse, ne_eq, not_true_eq_false, if_false]
  rfl

/-- The bytes of a word of sixteen bits. -/
theorem wordBytes_of_lt {w : BitVec 32} (h : w.toNat < 65536) :
    wordBytes w = [BitVec.ofNat 8 w.toNat, BitVec.ofNat 8 (w.toNat / 256), 0, 0] := by
  rw [wordBytes_eq, Nat.div_eq_of_lt h, Nat.div_eq_of_lt (by omega : w.toNat < 16777216)]
  rfl

/-- Settles O47: the check byte is the exclusive or of the bytes before it and 0x3C, so a frame passes exactly when all its bytes
fold to 0; injectivity is the reading back. -/
theorem diePortFramesRoundTrip : Obligations.DiePortFramesRoundTrip := by
  unfold Obligations.DiePortFramesRoundTrip
  refine ⟨?_, ?_, ?_, ?_, ?_, fun _ _ => DieCmd.frame_inj, readDieFrame_frame, ?_, ?_, ?_⟩
  · simp only [List.forall_mem_cons, List.not_mem_nil, false_imp_iff, implies_true, and_true]
    exact ⟨⟨frame_of_fields rfl rfl, fun _ => rfl⟩, ⟨frame_of_fields rfl rfl, fun _ => rfl⟩,
      frame_of_fields rfl rfl, fun _ => rfl⟩
  · intro r
    simp only [List.forall_mem_cons, List.not_mem_nil, false_imp_iff, implies_true, and_true]
    exact ⟨⟨frame_of_fields rfl rfl, fun _ => rfl⟩, ⟨frame_of_fields rfl rfl, fun _ => rfl⟩,
      ⟨frame_of_fields rfl rfl, fun _ => rfl⟩, frame_of_fields rfl rfl, fun _ => rfl⟩
  · intro w c
    refine ⟨?_, rfl⟩
    have hw : ((w.setWidth 32 : BitVec 32)).toNat = w.toNat := by rw [BitVec.toNat_setWidth]; omega
    have hword : wordBytes (w.setWidth 32) = bytesLE 2 w.toNat ++ [0, 0] := by
      rw [wordBytes_of_lt (by omega), hw]
      simp [bytesLE, List.range_succ]
    exact (frame_take _).trans (congrArg ([0x03, 0] ++ ·) hword)
  · exact fun m c => ⟨frame_take _, rfl⟩
  · intro w c
    refine ⟨?_, rfl⟩
    have hw : (BitVec.ofNat 32 w.val).toNat = w.val := by rw [BitVec.toNat_ofNat]; omega
    have hword : wordBytes (BitVec.ofNat 32 w.val) = [BitVec.ofNat 8 w.val, 0, 0, 0] := by
      rw [wordBytes_of_lt (by omega), hw, Nat.div_eq_of_lt (by omega)]
      rfl
    exact (frame_take _).trans (congrArg ([0x21, 0] ++ ·) hword)
  · intro c k b hk hb
    exact readDieFrame_of_check (dieCheck_sealed_set _ (by simpa [length_wordBytes] using hk) hb)
  · exact fun data => ⟨readResponse_done data, readResponse_refused data⟩
  · intro st data k b hk hb
    exact readResponse_of_check (dieCheck_sealed_set _ (by simpa [length_wordBytes] using hk) hb)

end Sys2Proof.Machine
end

section
/-!
SUPPORT. The end of a command frame (R66, R75) and the bytes of a response as the K16 gathers them (R66, R67).
-/
namespace Sys2Proof.Machine

/-! ### The end of a command frame -/

theorem setDie_self (s : State) (i : SiteNo) : s.setDie i (s.die i) = s := by
  simp [State.setDie, State.die, Fin.getElem_fin]

/-- COMMAND_FRAME_SENT with a frame whose deadline does not yet run (R66). -/
theorem exec_commandFrameSent {s : State} {i : SiteNo} {x : Exchange} (ddo : Wire) (hx : (s.site i).port.exch = some x)
    (hm : x.timer = none) : exec (.commandFrameSent i ddo) s = .next
      ((s.setExch i (some { x with timer := some x.deadline })).setDie i ((s.die i).receive (arrives ddo x.cmd.frame))) := by
  simp only [exec, execCommandFrameSent, hx, hm, die_setExch]

theorem DieCmd.code_mem (c : DieCmd) : c.fields.1 ∈ dieCodes := by
  cases c with
  | sense r m => cases m <;> exact List.mem_of_elem_eq_true rfl
  | _ => exact List.mem_of_elem_eq_true rfl

theorem receive_of_none {d : Die} {bs : List Byte} (h : readDieFrame bs = none) : d.receive bs = d := by
  simp only [Die.receive, h]

theorem receive_of_some {d : Die} {bs : List Byte} {f : DieFrame} (h : readDieFrame bs = some f) :
    d.receive bs = Die.answerUnknown (d.held ++ [{ frame := f, live := true }]) d := by
  simp only [Die.receive, h]

/-- A frame that comes behind one of a known code is held (R75). -/
theorem receive_held {d : Die} {bs : List Byte} {f : DieFrame} (h : readDieFrame bs = some f)
    (hd : ∀ g ∈ d.held.head?, g.Known) (hf : d.held = [] → f.code ∈ dieCodes) :
    d.receive bs = { d with held := d.held ++ [{ frame := f, live := true }] } := by
  rw [receive_of_some h]
  refine answerUnknown_known _ _ fun g hg => ?_
  cases hh : d.held with
  | nil =>
    rw [hh] at hg
    obtain rfl := Option.some.inj hg
    exact hf hh
  | cons a l =>
    rw [hh] at hg hd
    exact hd g hg

/-- A frame of an unknown code that a die takes with no other held is answered REFUSED (R75). -/
theorem receive_unknown {d : Die} {bs : List Byte} {f : DieFrame} (h : readDieFrame bs = some f) (hf : f.code ∉ dieCodes)
    (hd : d.held = []) : d.receive bs = { d with response := some (responseBytes 0xE2 0) } := by
  rw [receive_of_some h, hd, List.nil_append, Die.answerUnknown, if_neg hf, answerUnknown_refused, Die.answerUnknown, ← hd]

/-- Settles O46: the die reads back the frame that was sent, by `readDieFrame_frame`. -/
theorem commandFrameReachesTheDie : Obligations.CommandFrameReachesTheDie := by
  unfold Obligations.CommandFrameReachesTheDie
  intro s i x hx hm hd
  refine ⟨?_, fun bs hbs => ?_, fun bs f hbs hf => ⟨fun hnil => ?_, fun hne => ?_⟩⟩
  · rw [exec_commandFrameSent _ hx hm, arrives, receive_held (readDieFrame_frame x.cmd) hd fun _ => x.cmd.code_mem]
  · rw [exec_commandFrameSent _ hx hm, arrives, receive_of_none hbs]
    exact congrArg _ (setDie_self (s.setExch i _) i)
  · rw [exec_commandFrameSent _ hx hm, arrives, receive_unknown hbs hf hnil]
  · rw [exec_commandFrameSent _ hx hm, arrives, receive_held hbs hd fun hnil => absurd hnil hne]

/-! ### The bytes of a response -/

/-- Fill before the first byte that is not 0x00 is passed over (R67). -/
theorem takeDdi_fill (n : Nat) (bs : List Byte) : takeDdi [] (List.replicate n 0 ++ bs) = takeDdi [] bs := by
  induction n with
  | zero => rfl
  | succ n ih => exact ih

/-- Bytes after the sixth are not sampled (R67). -/
theorem takeDdi_full {held : List Byte} (h : 6 ≤ held.length) (bs : List Byte) : takeDdi held bs = held := by
  cases bs with
  | nil => rfl
  | cons b bs => exact if_pos h

theorem takeDdi_more {bs : List Byte} (more : List Byte) (held : List Byte) (h : (held ++ bs).length = 6)
    (h0 : (held ++ bs).head? ≠ some 0) : takeDdi held (bs ++ more) = held ++ bs := by
  induction bs generalizing held with
  | nil => rw [List.append_nil] at h ⊢; exact takeDdi_full h.ge more
  | cons b bs ih =>
    have hl : held.length < 6 := by simp at h; omega
    have hfill : ¬ (held.isEmpty && b = 0) = true := by
      cases held with
      | nil => simpa using h0
      | cons a l => simp
    have hstep : held ++ b :: bs = held ++ [b] ++ bs := by simp
    rw [hstep] at h h0 ⊢
    rw [List.cons_append, takeDdi, if_neg hl.not_ge, if_neg hfill]
    exact ih _ h h0

/-- Settles O48. -/
theorem responseBytesAreGathered : Obligations.ResponseBytesAreGathered := by
  unfold Obligations.ResponseBytesAreGathered
  refine ⟨fun n bs more hl h0 => ?_, fun s i x n m left bs hx hm hr hl h0 => ?_, fun s i ddi left hx => ?_⟩
  · rw [List.append_assoc, takeDdi_fill]
    exact takeDdi_more more [] hl h0
  · have htake : takeDdi x.rx (List.replicate n 0 ++ bs) = bs := by
      rw [hr, takeDdi_fill]
      exact takeDdi_all [] bs hl.le h0
    simp only [exec, execDieResponseComplete, hx, hm, arrives, htake, hl, if_true]
  · simp only [exec, execDieResponseComplete]
    split
    · rfl
    · next x hx' => rw [hx x hx']

end Sys2Proof.Machine
end

section
/-!
SUPPORT. A failed attempt and the last failure of an exchange (R66, R69, R71, R59), in the words of the statements.
-/
namespace Sys2Proof.Machine

/-! ### Retries -/

theorem retries_first {x : Exchange} {e : Ending} (he : e = .refused ∨ e = .lost) (ha : x.attempt = 1) (hr : x.retry = true) :
    x.retries e = true := by
  rcases he with rfl | rfl <;> simp [Exchange.retries, ha, hr]

theorem retries_last {x : Exchange} (e : Ending) (h : x.attempt ≠ 1 ∨ x.retry = false) : x.retries e = false := by
  cases e with
  | done data => rfl
  | refused | lost => rcases h with h | h <;> simp [Exchange.retries, h]

/-! ### What the job does with a failure -/

/-- The last failure of an exchange that is no PULSE ends a job outside ENDING (R71). -/
theorem onExchange_failed {cfg : Params} {cmd : DieCmd} {j : Job} {e : Ending} {o : JobOutcome}
    (he : e = .refused ∧ o = .dieRefused ∨ e = .lost ∧ o = .linkLost) (hc : cmd.isPulse = false) (hp : j.phase ≠ .ending) :
    j.onExchange cfg cmd e = (j, .finish o) := by
  rcases he with ⟨rfl, rfl⟩ | ⟨rfl, rfl⟩
  · exact onExchange_refused hp
  · simp only [Job.onExchange, if_neg hp, hc, Bool.false_eq_true, if_false]

/-- In ENDING an exchange's ending is not used: with the row open it is closed, else the job ends (R57, R59). -/
theorem onExchange_ending (cfg : Params) (cmd : DieCmd) {j : Job} (e : Ending) (hp : j.phase = .ending) :
    j.onExchange cfg cmd e =
      if j.engine.rowOpen = true then (j.lastClose, .send (.closeRow j.engine.regionRow) false)
      else (j, .finish (if j.pendingEnd = some .pumpTimeout then .pumpTimeout else .aborted)) := by
  rw [← abortOutcome_eq]
  exact if_pos hp

/-- A job end at the end of an exchange, in the terms of the state before the event, with LINK declared by LINK_LOST (R55, R71,
R130). -/
theorem selectionOver_finish (s : State) (i : SiteNo) (j : Job) (o : JobOutcome) :
    let t := (((s.selectionOver i).siteWith i j none).perform i (j, .finish o)).finishLift
    s.JobEnded t i j o ∧ (s.selectionOver i).OnlyEnds t i ∧
      (t.smon i).flags = (if o = .linkLost then { (s.smon i).flags with link := true } else (s.smon i).flags) ∧
      (t.smon i).cond.link = (if o = .linkLost then true else (s.smon i).cond.link) := by
  generalize hu : (s.selectionOver i).siteWith i j none = u
  have husite : u.site i = { s.site i with job := some j, port := { (s.site i).port with exch := none } } := by
    rw [← hu, siteWith_site]; rfl
  have hself : u.setJob i (some j) = u := setJob_self u i j (by rw [husite])
  have hothers : ∀ k, k ≠ i → u.site k = (s.selectionOver i).site k := fun k hk => by rw [← hu]; exact site_setSite_ne _ _ hk
  obtain ⟨hended, hflags, hlink⟩ :=
    jobEnded_finish s u i j j o husite (by rw [← hu]; rfl) (by rw [← hu]; rfl) (by rw [← hu]; rfl)
  have honly : (s.selectionOver i).OnlyEnds (u.endJob i o).finishLift i :=
    onlyEnds_endJob _ u i j o (by rw [husite]) hothers (by rw [husite]; rfl) (by rw [← hu]; rfl) (by rw [← hu]; rfl)
      (by rw [← hu]; rfl) (by rw [← hu]; rfl)
  refine ⟨hended, ?_, hflags, hlink⟩
  show (s.selectionOver i).OnlyEnds ((u.setJob i (some j)).endJob i o).finishLift i
  rw [hself]
  exact honly

/-- Settles O49: the event ends the attempt by `exec_endsAttempt`; a retry keeps the job, and of the last failure `onExchange`
says what follows. -/
theorem failedAttemptRetriesOnceThenEndsTheJob : Obligations.FailedAttemptRetriesOnceThenEndsTheJob := by
  unfold Obligations.FailedAttemptRetriesOnceThenEndsTheJob
  intro s i j j1 x m left c e hj hx hm hends hj1
  replace hj1 : j.noteOpenLeft left = j1 := hj1.symm
  have hexec := exec_endsAttempt s i x m left c e hx hm hends
  refine ⟨fun he ha hr => ?_, fun o he hlast hpulse hphase => ?_, fun hphase hretry hwait => ?_⟩
  · rw [hexec, attemptEnded_retried s i j x left e hj (retries_first he ha hr), hr, hj1,
      finishLift_active _ i (siteWith_active _ i j1 _)]
    rfl
  · obtain ⟨v, hended, hv, -⟩ := attemptEnded_ended s i j x left e hj (retries_last e hlast) (.inr hpulse)
    rw [hended, hv hpulse, onExchange_failed (j := j.noteOpenLeft left) he hpulse hphase] at hexec
    obtain ⟨hjob, honly, hflags, hlink⟩ := selectionOver_finish s i (j.noteOpenLeft left) o
    exact ⟨_, hexec, hjob.congr rfl, honly, hflags, hlink⟩
  · obtain ⟨v, hended, hv, hgrants, hsite, hframe, -⟩ :=
      attemptEnded_ended s i j x left e hj (retries_last e (.inr hretry)) (.inl hwait)
    rw [hj1] at hended hv hgrants hsite
    have hphase1 : j1.phase = .ending := by rw [← hj1]; exact hphase
    have hopen1 : j1.engine.rowOpen = j.engine.rowOpen := by rw [← hj1]; rfl
    have hregion : j1.engine.regionRow = j.engine.regionRow := by rw [← hj1]; rfl
    have hpending : j1.pendingEnd = j.pendingEnd := by rw [← hj1]; rfl
    rw [hended, onExchange_ending _ _ _ hphase1, hopen1, hregion, hpending] at hexec
    refine ⟨v, _, hexec, hv, hgrants, fun hopen => ?_, fun hclosed => ?_⟩
    · have hcfg : v.cfg = s.cfg := by rw [hframe]; rfl
      rw [if_pos hopen, perform_send, finishLift_active _ i (siteWith_active _ i _ _), hcfg]
    · rw [if_neg (by rw [hclosed]; decide)]
      obtain ⟨hjob, honly, hflags, hlink⟩ := perform_finish (v := v) (i := i) (j := j1)
        (o := if j.pendingEnd = some .pumpTimeout then .pumpTimeout else .aborted) (by rw [hsite]) (by rw [hsite])
        (by split <;> decide)
      have hmon : v.mon = s.mon := by rw [hframe]; rfl
      exact ⟨hjob, honly, hflags.trans (by rw [State.smon, hmon]; rfl), hlink.trans (by rw [State.smon, hmon]; rfl)⟩

end Sys2Proof.Machine
end

section
/-!
SUPPORT. The commands of a conforming die (R74 to R82): what each does, an equation per command, and the answer it gives.
-/
namespace Sys2Proof.Machine

/-! ### The frames behind the one carried out (R75) -/

/-- What a command does at a die does not turn on the frames that the die holds. -/
def HeldFree (act : Die → DieFrame → Die × DieAnswer) : Prop :=
  ∀ (d : Die) (f : DieFrame) (l : List HeldFrame), act { d with held := l } f = ({ (act d f).1 with held := l }, (act d f).2)

theorem heldFree_doReset : HeldFree Die.doReset := fun _ _ _ => rfl

theorem heldFree_doCloseAll : HeldFree Die.doCloseAll := fun _ _ _ => rfl

theorem heldFree_doEnter : HeldFree Die.doEnter := fun d f l => by
  simp only [Die.doEnter]; split <;> rfl

theorem heldFree_doReadShadow : HeldFree Die.doReadShadow := fun d f l => by
  simp only [Die.doReadShadow]; split <;> rfl

theorem heldFree_doSense : HeldFree Die.doSense := by
  rintro ⟨cells, mode, openRow, width, shadow, loaded, held, response⟩ f l
  cases mode with
  | normal => rfl
  | provisioning =>
    simp only [Die.doSense]
    cases regionRowOf f.row with
    | none => rfl
    | some r =>
      cases marginOf f with
      | none => rfl
      | some m => dsimp only; split <;> rfl

theorem heldFree_doOpenRow : HeldFree Die.doOpenRow := by
  rintro ⟨cells, mode, openRow, width, shadow, loaded, held, response⟩ f l
  cases mode with
  | normal => rfl
  | provisioning =>
    simp only [Die.doOpenRow]
    cases regionRowOf f.row with
    | none => rfl
    | some r => cases openRow <;> rfl

theorem heldFree_doPulse (toFull toWeak : Row) : HeldFree (Die.doPulse toFull toWeak) := by
  rintro ⟨cells, mode, openRow, width, shadow, loaded, held, response⟩ f l
  cases mode with
  | normal => rfl
  | provisioning => cases openRow <;> rfl

theorem heldFree_doCloseRow : HeldFree Die.doCloseRow := by
  rintro ⟨cells, mode, openRow, width, shadow, loaded, held, response⟩ f l
  cases mode with
  | normal => rfl
  | provisioning =>
    simp only [Die.doCloseRow]
    cases regionRowOf f.row with
    | none => rfl
    | some r => dsimp only; split <;> rfl

theorem heldFree_doReload : HeldFree Die.doReload := by
  rintro ⟨cells, mode, openRow, width, shadow, loaded, held, response⟩ f l
  cases mode with
  | normal => rfl
  | provisioning => cases openRow <;> rfl

/-- Each die command is an act of the die that does not turn on the frames it holds. -/
theorem exec_dieCommand {c : Instr} {i : SiteNo} {toFull toWeak : Row}
    (hc : c ∈ ([.reset i, .closeAll i, .enterProvisioning i, .sense i, .openRow i, .pulse i toFull toWeak, .closeRow i, .reload i,
      .readShadow i] : List Instr)) :
    ∃ code act, HeldFree act ∧ ∀ s, exec c s = s.dieCommand i code act := by
  simp only [List.mem_cons, List.not_mem_nil, or_false] at hc
  rcases hc with rfl | rfl | rfl | rfl | rfl | rfl | rfl | rfl | rfl
  · exact ⟨_, _, heldFree_doReset, fun _ => rfl⟩
  · exact ⟨_, _, heldFree_doCloseAll, fun _ => rfl⟩
  · exact ⟨_, _, heldFree_doEnter, fun _ => rfl⟩
  · exact ⟨_, _, heldFree_doSense, fun _ => rfl⟩
  · exact ⟨_, _, heldFree_doOpenRow, fun _ => rfl⟩
  · exact ⟨_, _, heldFree_doPulse toFull toWeak, fun _ => rfl⟩
  · exact ⟨_, _, heldFree_doCloseRow, fun _ => rfl⟩
  · exact ⟨_, _, heldFree_doReload, fun _ => rfl⟩
  · exact ⟨_, _, heldFree_doReadShadow, fun _ => rfl⟩

theorem answer_held (d : Die) (l : List HeldFrame) (live : Bool) (a : DieAnswer) :
    ({ d with held := l } : Die).answer live a = { d.answer live a with held := l } := by cases live <;> rfl

/-- The frames that a die goes on with take the place of those it held. -/
theorem answerUnknown_held (l l' : List HeldFrame) (d : Die) :
    Die.answerUnknown l { d with held := l' } = Die.answerUnknown l d := by
  induction l generalizing d with
  | nil => rfl
  | cons a l ih =>
    unfold Die.answerUnknown
    split
    · rfl
    · rw [answer_held]; exact ih _

/-- A frame of an unknown code is answered REFUSED, and the die goes on with the frames behind it (R75). -/
theorem answerUnknown_unknown {u : HeldFrame} (hu : ¬ u.Known) (l : List HeldFrame) (d : Die) :
    Die.answerUnknown (u :: l) d =
      if u.live = true then { Die.answerUnknown l d with response := some (responseBytes 0xE2 0) } else Die.answerUnknown l d := by
  rw [Die.answerUnknown, if_neg (show u.frame.code ∉ dieCodes from hu)]
  cases u.live with
  | false => rfl
  | true => exact answerUnknown_refused l d

theorem dieCommand_eq {s : State} {i : SiteNo} {code : Byte} {act : Die → DieFrame → Die × DieAnswer} {h : HeldFrame}
    {rest : List HeldFrame} (hh : (s.die i).held = h :: rest) :
    s.dieCommand i code act =
      if h.frame.code = code then
        .next (s.setDie i (Die.answerUnknown rest ((act (s.die i) h.frame).1.answer h.live (act (s.die i) h.frame).2)))
      else .fault .dieHoldsNoSuchFrame := by
  by_cases hc : h.frame.code = code <;> simp [State.dieCommand, Die.carryOut, hh, hc]

theorem setDie_setDie (s : State) (i : SiteNo) (d d' : Die) : (s.setDie i d).setDie i d' = s.setDie i d' := by
  simp [State.setDie]

/-- A command carried out with a frame of an unknown code behind it: as without that frame, and the die answers it REFUSED. -/
theorem dieCommand_unknown {s t : State} {i : SiteNo} {d : Die} {code : Byte} {act : Die → DieFrame → Die × DieAnswer}
    {h u : HeldFrame} {more : List HeldFrame} (hact : HeldFree act) (hd : s.die i = { d with held := h :: u :: more })
    (hu : ¬ u.Known) (ht : (s.setDie i { d with held := h :: more }).dieCommand i code act = .next t) :
    s.dieCommand i code act =
      .next (if u.live then t.setDie i { t.die i with response := some (responseBytes 0xE2 0) } else t) := by
  rw [dieCommand_eq (by rw [die_setDie]), die_setDie, hact, answer_held, answerUnknown_held] at ht
  split at ht
  · next hcode =>
    obtain rfl := Host.Outcome.next.inj ht
    rw [dieCommand_eq (by rw [hd]), if_pos hcode, hd, hact, answer_held, answerUnknown_held, answerUnknown_unknown hu,
      die_setDie]
    simp only [setDie_setDie]
    cases u.live <;> rfl
  · cases ht

/-! ### The answer to a command -/

section Answers

variable {s : State} {i : SiteNo} {d d' : Die} {f : DieFrame} {live : Bool} {more : List HeldFrame}
  {act : Die → DieFrame → Die × DieAnswer} {code : Byte} {data : BitVec 32}

theorem dieCommand_done (hd : s.die i = d) (hh : d.held = { frame := f, live := live } :: more)
    (hk : ∀ h ∈ more.head?, h.Known) (hf : f.code = code) (hact : act d f = (d', .done data)) :
    s.dieCommand i code act = s.dieAnswered i live more d' 0xD1 data := by
  rw [← hf, dieCommand_carried s i d f live more act hd hh hk, hact]
  rfl

theorem dieCommand_refused (hd : s.die i = d) (hh : d.held = { frame := f, live := live } :: more)
    (hk : ∀ h ∈ more.head?, h.Known) (hf : f.code = code) (hact : act d f = (d, .refused)) :
    s.dieCommand i code act = s.dieAnswered i live more d 0xE2 0 := by
  rw [← hf, dieCommand_carried s i d f live more act hd hh hk, hact]
  rfl

/-- A command done under a condition and refused without it. -/
theorem dieCommand_ite {p : Prop} [Decidable p] (hd : s.die i = d) (hh : d.held = { frame := f, live := live } :: more)
    (hk : ∀ h ∈ more.head?, h.Known) (hf : f.code = code) (hact : act d f = if p then (d', .done data) else (d, .refused)) :
    s.dieCommand i code act = if p then s.dieAnswered i live more d' 0xD1 data else s.dieAnswered i live more d 0xE2 0 := by
  split
  · next hp => exact dieCommand_done hd hh hk hf (hact.trans (if_pos hp))
  · next hp => exact dieCommand_refused hd hh hk hf (hact.trans (if_neg hp))

end Answers

/-! ### Each command -/

section Commands

variable (d : Die) {f : DieFrame}

theorem doEnter_eq (f : DieFrame) : d.doEnter f =
    if 5 ≤ f.arg.toNat % 65536 ∧ f.arg.toNat % 65536 ≤ 500
    then ({ d with mode := .provisioning, width := some (f.arg.toNat % 65536) }, .done 0) else (d, .refused) := by
  simp [Die.doEnter, BitVec.toNat_setWidth]

theorem doOpenRow_eq {r : RegionRow} (hr : regionRowOf f.row = some r) : d.doOpenRow f =
    if d.mode = .provisioning ∧ d.openRow = none then ({ d with openRow := some r }, .done 0) else (d, .refused) := by
  rw [Die.doOpenRow, hr]
  cases d.mode <;> cases d.openRow <;> simp

theorem doCloseRow_eq {r : RegionRow} (hr : regionRowOf f.row = some r) : d.doCloseRow f =
    if d.mode = .provisioning ∧ (d.openRow = none ∨ d.openRow = some r) then ({ d with openRow := none }, .done 0)
    else (d, .refused) := by
  rw [Die.doCloseRow, hr]
  cases d.mode <;> simp

/-- The low byte of a word as a number. -/
theorem setWidth_byte_eq (w : BitVec 32) (n : Nat) (hn : n < 256) :
    (w.setWidth 8 : Byte) = BitVec.ofNat 8 n ↔ w.toNat % 256 = n := by
  rw [← BitVec.toNat_inj, BitVec.toNat_setWidth, BitVec.toNat_ofNat, Nat.mod_eq_of_lt hn]

theorem marginOf_eq (f : DieFrame) : marginOf f =
    if f.arg.toNat % 256 = 0 then some .normal else if f.arg.toNat % 256 = 1 then some .high else none := by
  have h0 := setWidth_byte_eq f.arg 0 (by decide)
  have h1 := setWidth_byte_eq f.arg 1 (by decide)
  simp only [marginOf, ← h0, ← h1]
  rfl

theorem doSense_eq {r : RegionRow} (hr : regionRowOf f.row = some r) : d.doSense f =
    if d.mode = .provisioning ∧ (d.openRow = none ∨ d.openRow = some r) ∧ f.arg.toNat % 256 ≤ 1
    then (d, .done (if f.arg.toNat % 256 = 0 then d.cells[r].full ||| d.cells[r].weak else d.cells[r].full))
    else (d, .refused) := by
  rw [Die.doSense, hr, marginOf_eq]
  cases d.mode with
  | normal => simp
  | provisioning =>
    by_cases h0 : f.arg.toNat % 256 = 0
    · simp [h0, readCells, Die.rowCells]
    · by_cases h1 : f.arg.toNat % 256 = 1
      · simp [h1, readCells, Die.rowCells]
      · simp [h0, h1, show ¬ f.arg.toNat % 256 ≤ 1 by omega]

theorem doReadShadow_eq (f : DieFrame) : d.doReadShadow f =
    if d.mode = .provisioning ∧ d.loaded = true ∧ f.arg.toNat % 256 < 12
    then (d, .done (wordOf (byteAt d.shadow (4 * (f.arg.toNat % 256))) (byteAt d.shadow (4 * (f.arg.toNat % 256) + 1))
      (byteAt d.shadow (4 * (f.arg.toNat % 256) + 2)) (byteAt d.shadow (4 * (f.arg.toNat % 256) + 3))))
    else (d, .refused) := by
  simp [Die.doReadShadow, BitVec.toNat_setWidth, and_assoc]

/-- No region row has a number above 19 (R75): SENSE, OPEN ROW and CLOSE ROW of one are refused. -/
theorem row_refused (hr : 19 < f.row.toNat) :
    d.doSense f = (d, .refused) ∧ d.doOpenRow f = (d, .refused) ∧ d.doCloseRow f = (d, .refused) := by
  have hnone : regionRowOf f.row = none := dif_neg (by omega)
  rw [Die.doSense, Die.doOpenRow, Die.doCloseRow, hnone]
  cases d.mode <;> exact ⟨rfl, rfl, rfl⟩

end Commands

end Sys2Proof.Machine
end

section
/-!
SUPPORT. RELOAD at a conforming die (R81) in the words of the statements, and what the commands of a die come to (R74 to R82).
-/
namespace Sys2Proof.Machine

/-! ### PULSE (R80) -/

theorem doPulse_none (d : Die) (toFull toWeak : Row) (f : DieFrame) (ho : d.openRow = none) :
    d.doPulse toFull toWeak f = (d, .refused) := by
  rw [Die.doPulse, ho]
  cases d.mode <;> rfl

theorem doPulse_some (d : Die) (toFull toWeak : Row) (f : DieFrame) {r : RegionRow} (ho : d.openRow = some r) :
    d.doPulse toFull toWeak f = if d.mode = .provisioning then (d.setRow r {
        full := d.cells[r].full ||| (f.arg &&& toFull)
        weak := (d.cells[r].weak ||| (f.arg &&& toWeak)) &&& ~~~(d.cells[r].full ||| (f.arg &&& toFull)) }, .done 0)
      else (d, .refused) := by
  rw [Die.doPulse, ho]
  cases d.mode <;> rfl

/-! ### RELOAD (R81) -/

/-- The lowest spare whose entry names a row. -/
theorem spareOf_eq (data : BitVec 24) (k : Fin 16) : spareOf data k =
    if entryAt data 0 = k.val + 1 then some 0 else if entryAt data 1 = k.val + 1 then some 1
    else if entryAt data 2 = k.val + 1 then some 2 else none := by
  simp only [spareOf, List.find?, lockEntry_eq]
  by_cases h0 : entryAt data 0 = k.val + 1
  · simp [h0]
  · by_cases h1 : entryAt data 1 = k.val + 1
    · simp [h0, h1]
    · by_cases h2 : entryAt data 2 = k.val + 1 <;> simp [h0, h1, h2]

theorem spareOf_lowest {data : BitVec 24} {k : Fin 16} {e : Fin 3} (he : entryAt data e = k.val + 1)
    (hlow : ∀ e' : Fin 3, e' < e → entryAt data e' ≠ k.val + 1) : spareOf data k = some e := by
  rw [spareOf_eq]
  match e with
  | 0 => rw [if_pos he]
  | 1 => rw [if_neg (hlow 0 (by decide)), if_pos he]
  | 2 => rw [if_neg (hlow 0 (by decide)), if_neg (hlow 1 (by decide)), if_pos he]

theorem spareOf_none {data : BitVec 24} {k : Fin 16} (h : ∀ e : Fin 3, entryAt data e ≠ k.val + 1) : spareOf data k = none := by
  rw [spareOf_eq, if_neg (h 0), if_neg (h 1), if_neg (h 2)]

theorem spareRow_ne_ownRow (e : Fin 3) (k : Fin 16) : spareRow e ≠ ownRow k := by
  intro h
  have := congrArg Fin.val h
  simp only [spareRow, ownRow] at this
  omega

/-- Where RELOAD reads an image row, by the map that the die takes from its lock row. -/
theorem ReadAt.spareFor {d : Die} {k : Fin 16} {r : RegionRow}
    (h : ReadAt (lockReadData (readCells d.cells[(19 : RegionRow)] .normal)) k r) :
    (∃ e, d.spareFor k = some e ∧ r = spareRow e) ∨ (d.spareFor k = none ∧ r = ownRow k) := by
  have hlock : d.lockData = lockReadData (readCells d.cells[(19 : RegionRow)] .normal) := validLockData_eq _
  rw [← hlock] at h
  unfold Die.spareFor
  rcases h with ⟨data, e, hdata, he, hlow, hr⟩ | ⟨hnone, hr⟩
  · rw [hdata]
    exact .inl ⟨e, spareOf_lowest he hlow, hr⟩
  · refine .inr ⟨?_, hr⟩
    cases hdata : d.lockData with
    | none => rfl
    | some data => exact spareOf_none (hnone data hdata)

section ReadAt

variable {d : Die} {k : Fin 16} {r : RegionRow}

theorem ReadAt.imageRead (h : ReadAt (lockReadData (readCells d.cells[(19 : RegionRow)] .normal)) k r) :
    d.imageRead k = readCells d.cells[r] .normal := by
  unfold Die.imageRead
  rcases h.spareFor with ⟨e, he, rfl⟩ | ⟨hnone, rfl⟩
  · rw [he]; rfl
  · rw [hnone]; rfl

theorem ReadAt.relocated (h : ReadAt (lockReadData (readCells d.cells[(19 : RegionRow)] .normal)) k r) :
    (d.spareFor k).isSome = decide (r ≠ ownRow k) := by
  rcases h.spareFor with ⟨e, he, rfl⟩ | ⟨hnone, rfl⟩
  · rw [he, decide_eq_true (spareRow_ne_ownRow e k)]; rfl
  · simp [hnone]

end ReadAt

theorem shadowRow_eq (d : Die) (k : Fin 16) : d.shadowRow k = bytesLE 3 (reloadedData (d.imageRead k)).toNat := by
  simp only [Die.shadowRow, reloadedData]
  cases decodeRow (d.imageRead k) <;> rfl

/-- RELOAD with no row open: the shadow it loads and the counts it reports, given where each image row is read (R81). -/
theorem doReload_eq (d : Die) (f : DieFrame) {lock : Row} {at' : Fin 16 → RegionRow} (hm : d.mode = .provisioning)
    (ho : d.openRow = none) (hlock : lock = readCells d.cells[(19 : RegionRow)] .normal)
    (hat : ∀ k, ReadAt (lockReadData lock) k (at' k)) : d.doReload f =
      ({ d with
          loaded := true
          shadow := allSites.flatMap (fun k => bytesLE 3 (reloadedData (readCells d.cells[at' k] .normal)).toNat) },
        .done (wordOf
          (BitVec.ofNat 8 ((decodeRow lock).isCorrected.toNat
            + allSites.countP (fun k => (decodeRow (readCells d.cells[at' k] .normal)).isCorrected)))
          (BitVec.ofNat 8 (allSites.countP (fun k => decide (at' k ≠ ownRow k))))
          (if (lockReadData lock).isSome then 1 else 0) 0)) := by
  subst hlock
  have hshadow : d.shadowRow = fun k => bytesLE 3 (reloadedData (readCells d.cells[at' k] .normal)).toNat :=
    funext fun k => by rw [shadowRow_eq, (hat k).imageRead]
  have hcorrected : d.correctedCount = (decodeRow (readCells d.cells[(19 : RegionRow)] .normal)).isCorrected.toNat
      + allSites.countP (fun k => (decodeRow (readCells d.cells[at' k] .normal)).isCorrected) :=
    congrArg _ (congrArg (allSites.countP ·) (funext fun k => by rw [(hat k).imageRead]))
  have hrelocated : d.relocatedCount = allSites.countP (fun k => decide (at' k ≠ ownRow k)) :=
    congrArg (allSites.countP ·) (funext fun k => (hat k).relocated)
  have hvalid : d.lockData = lockReadData (readCells d.cells[(19 : RegionRow)] .normal) := validLockData_eq _
  rw [Die.doReload, hm, ho, hshadow, hcorrected, hrelocated, hvalid]

theorem doReload_refused (d : Die) (f : DieFrame) (h : d.mode = .normal ∨ d.openRow ≠ none) : d.doReload f = (d, .refused) := by
  rw [Die.doReload]
  cases hm : d.mode with
  | normal => rfl
  | provisioning =>
    cases ho : d.openRow with
    | none => rw [hm, ho] at h; simp at h
    | some r => rfl

/-- Settles O55: each command goes by the equation of its act and the answer lemmas. -/
theorem dieCarriesOutItsCommands : Obligations.DieCarriesOutItsCommands := by
  unfold Obligations.DieCarriesOutItsCommands
  refine ⟨fun s i cells => rfl, fun s i d c h u more t toFull toWeak hd hu hc ht => ?_, fun s i d f live more hd hh hk => ?_⟩
  · obtain ⟨code, act, hact, hexec⟩ := exec_dieCommand hc
    rw [hexec] at ht ⊢
    exact dieCommand_unknown hact hd hu ht
  · have hrow : ∀ r : RegionRow, f.row = BitVec.ofNat 8 r.val → regionRowOf f.row = some r := fun r hr => by
      rw [hr, regionRowOf_byte]
    refine ⟨fun hf => ?_, fun hf => ?_, fun hf => ?_, fun hf r hr => ?_, fun hf r hr => ?_, fun hf toFull toWeak => ?_,
      fun hf r hr => ?_, ⟨fun hf hr => ?_, fun hf hr => ?_, fun hf hr => ?_⟩, fun hf hno => ?_,
      fun hf hm ho lock at' hlock hat => ?_, fun hf => ?_⟩
    · exact dieCommand_done (act := Die.doReset) hd hh hk hf rfl
    · exact dieCommand_done (act := Die.doCloseAll) hd hh hk hf rfl
    · exact dieCommand_ite hd hh hk hf (doEnter_eq d f)
    · exact dieCommand_ite hd hh hk hf (doSense_eq d (hrow r hr))
    · exact dieCommand_ite hd hh hk hf (doOpenRow_eq d (hrow r hr))
    · cases ho : d.openRow with
      | none => exact dieCommand_refused hd hh hk hf (doPulse_none d toFull toWeak f ho)
      | some r => exact dieCommand_ite hd hh hk hf (doPulse_some d toFull toWeak f ho)
    · exact dieCommand_ite hd hh hk hf (doCloseRow_eq d (hrow r hr))
    · exact dieCommand_refused hd hh hk hf (row_refused d hr).1
    · exact dieCommand_refused hd hh hk hf (row_refused d hr).2.1
    · exact dieCommand_refused hd hh hk hf (row_refused d hr).2.2
    · exact dieCommand_refused hd hh hk hf (doReload_refused d f hno)
    · exact dieCommand_done hd hh hk hf (doReload_eq d f hm ho hlock hat)
    · exact dieCommand_ite hd hh hk hf (doReadShadow_eq d f)

end Sys2Proof.Machine
end

section
/-!
SUPPORT. RELOAD of a region that holds an image (R12, R14, R17, R53, R81): the map read back from the lock word, and the image from
its rows.
-/
namespace Sys2Proof.Machine

/-! ### The lock word read back (R10, R16) -/

/-- A map entry moved to its place in the lock word's data loses nothing. -/
theorem toNat_entry_shiftLeft (b : BitVec 5) {k : Nat} (h : k ≤ 18) : (b.setWidth 24 <<< k).toNat = b.toNat <<< k := by
  have hb : b.toNat < 2 ^ 5 := b.isLt
  have hk : 2 ^ k ≤ 2 ^ 18 := Nat.pow_le_pow_right (by decide) h
  have hlt : b.toNat <<< k < 2 ^ 24 := by
    rw [Nat.shiftLeft_eq]
    exact (Nat.mul_lt_mul_of_lt_of_le hb hk (by decide)).trans_le (by decide)
  rw [BitVec.toNat_shiftLeft, BitVec.toNat_setWidth, Nat.mod_eq_of_lt (by omega : b.toNat < 2 ^ 24), Nat.mod_eq_of_lt hlt]

/-- The lock word's data as a number: its five parts stand side by side (R10). -/
theorem toNat_lockData (m : RelocMap) : (lockData m).toNat =
    0xC3 + 2 ^ 8 * m[0].toNat + 2 ^ 13 * m[1].toNat + 2 ^ 18 * m[2].toNat + 2 ^ 23 := by
  have h0 : m[0].toNat < 2 ^ 5 := m[0].isLt
  have h1 : m[1].toNat < 2 ^ 5 := m[1].isLt
  have h2 : m[2].toNat < 2 ^ 5 := m[2].isLt
  have hmark : ((0xC3 : Nat) : BitVec 24).toNat = 0xC3 := rfl
  have hflag : (1#24 <<< 23).toNat = 1 <<< 23 := rfl
  rw [lockData, BitVec.toNat_or, BitVec.toNat_or, BitVec.toNat_or, BitVec.toNat_or, toNat_entry_shiftLeft m[0] (by decide),
    toNat_entry_shiftLeft m[1] (by decide), toNat_entry_shiftLeft m[2] (by decide), hmark, hflag,
    or_shiftLeft_eq_add (k := 8) _ (by decide), or_shiftLeft_eq_add (k := 13) _ (by omega),
    or_shiftLeft_eq_add (k := 18) _ (by omega), or_shiftLeft_eq_add (k := 23) _ (by omega), Nat.mul_one]

/-- The entries read from a lock word's data are the map's (R10). -/
theorem entryAt_lockData (m : RelocMap) (e : Fin 3) : entryAt (lockData m) e = m[e].toNat := by
  have h0 := m[0].isLt
  have h1 := m[1].isLt
  have h2 := m[2].isLt
  rw [entryAt, toNat_lockData]
  match e with
  | 0 => show _ = m[0].toNat; simp only [Fin.val_zero]; omega
  | 1 => show _ = m[1].toNat; simp only [Fin.val_one]; omega
  | 2 => show _ = m[2].toNat; simp only [Fin.val_two]; omega

theorem lockReadData_lockWordOf (m : RelocMap) : lockReadData (lockWordOf m) = some (lockData m) := by
  rw [← validLockData_eq, validLockData, lockWordOf, decodeRow_rowWord]
  simp only [Decoded.data?, writtenMark, getLsbD_rowWord_mark, lockData_lockMark, lockData_complete, decide_true, Bool.and_self,
    if_true]

/-- Where the map of a lock word places an image row, RELOAD reads it (R12, R81). -/
theorem readAt_lockWord {m : RelocMap} {k : Fin 16} {r : RegionRow}
    (h : (∃ e : Fin 3, m[e].toNat = k.val + 1 ∧ (∀ e' : Fin 3, e' < e → m[e'].toNat ≠ k.val + 1) ∧ r = spareRow e) ∨
      ((∀ e : Fin 3, m[e].toNat ≠ k.val + 1) ∧ r = ownRow k)) : ReadAt (lockReadData (lockWordOf m)) k r := by
  rw [lockReadData_lockWordOf]
  rcases h with ⟨e, he, hlow, hr⟩ | ⟨hnone, hr⟩
  · exact .inl ⟨_, e, rfl, by rw [entryAt_lockData, he], fun e' hlt => by rw [entryAt_lockData]; exact hlow e' hlt, hr⟩
  · refine .inr ⟨fun data hdata e => ?_, hr⟩
    obtain rfl := Option.some.inj hdata
    rw [entryAt_lockData]
    exact hnone e

/-- A row is read at another place than its own exactly when an entry names it. -/
theorem place_ne_ownRow {m : RelocMap} {k : Fin 16} {r : RegionRow}
    (h : (∃ e : Fin 3, m[e].toNat = k.val + 1 ∧ (∀ e' : Fin 3, e' < e → m[e'].toNat ≠ k.val + 1) ∧ r = spareRow e) ∨
      ((∀ e : Fin 3, m[e].toNat ≠ k.val + 1) ∧ r = ownRow k)) : r ≠ ownRow k ↔ ∃ e : Fin 3, m[e].toNat = k.val + 1 := by
  rcases h with ⟨e, he, -, rfl⟩ | ⟨hnone, rfl⟩
  · exact ⟨fun _ => ⟨e, he⟩, fun _ => spareRow_ne_ownRow e k⟩
  · exact ⟨fun h => absurd rfl h, fun ⟨e, he⟩ => absurd he (hnone e)⟩

/-! ### The image rows read back (R14, R17) -/

/-- A read within one cell of a row word gives its data, and is corrected exactly when a cell differs. -/
theorem decode_within_one_cell {read : Row} {data : BitVec 24}
    (h : read = rowWord data ∨ ∃ a : Nat, a < 31 ∧ read = rowWord data ^^^ (1#32 <<< a)) :
    reloadedData read = data ∧ (decodeRow read).isCorrected = decide (read ≠ rowWord data) := by
  rcases h with rfl | ⟨a, ha, rfl⟩
  · simp [reloadedData, decodeRow_rowWord, Decoded.isCorrected]
  · have hne : rowWord data ^^^ (1#32 <<< a) ≠ rowWord data := fun he => by
      have hclean := decodeRow_rowWord_cell data ha
      rw [he, decodeRow_rowWord] at hclean
      cases hclean
    simp only [reloadedData, decodeRow_rowWord_cell data ha, Decoded.isCorrected]
    exact ⟨trivial, (decide_eq_true hne).symm⟩

theorem bytesLE_rowData (b0 b1 b2 : Byte) : bytesLE 3 (rowData b0 b1 b2).toNat = [b0, b1, b2] := by
  have h0 := b0.isLt
  have h1 := b1.isLt
  have h2 := b2.isLt
  simp only [bytesLE_succ, toNat_rowData]
  simp only [bytesLE, List.range_zero, List.map_nil, List.cons.injEq, and_true, ← BitVec.toNat_inj, BitVec.toNat_ofNat]
  omega

/-- The bytes of the image rows, in order, are the image's (R5). -/
theorem flatMap_imageRow (bytes : List Byte) (n : Nat) (h : 3 * n ≤ bytes.length) :
    (List.range n).flatMap (fun k => bytesLE 3 (imageRow bytes k).toNat) = bytes.take (3 * n) := by
  induction n with
  | zero => rfl
  | succ n ih =>
    rw [List.range_succ, List.flatMap_append, ih (by omega), List.flatMap_singleton, imageRow, bytesLE_rowData,
      show 3 * (n + 1) = 3 * n + 1 + 1 + 1 by ring]
    rw [List.take_succ_eq_append_getElem (by omega : 3 * n + 1 + 1 < bytes.length),
      List.take_succ_eq_append_getElem (by omega : 3 * n + 1 < bytes.length),
      List.take_succ_eq_append_getElem (by omega : 3 * n < bytes.length),
      List.getD_eq_getElem _ _ (by omega : 3 * n < bytes.length), List.getD_eq_getElem _ _ (by omega : 3 * n + 1 < bytes.length),
      List.getD_eq_getElem _ _ (by omega : 3 * n + 2 < bytes.length), List.append_assoc, List.append_assoc]
    rfl

theorem flatMap_image {bytes : List Byte} (h : bytes.length = 48) :
    allSites.flatMap (fun k => bytesLE 3 (imageRow bytes k.val).toNat) = bytes := by
  have hrows := flatMap_imageRow bytes 16 h.ge
  rw [List.take_of_length_le h.le] at hrows
  exact (List.flatMap_map Fin.val (fun k => bytesLE 3 (imageRow bytes k).toNat) allSites).symm.trans hrows

/-- Settles O59: the lock word gives back its map, each image row its data; the rest is RELOAD's own equation. -/
theorem reloadReadsBackTheImage : Obligations.ReloadReadsBackTheImage := by
  unfold Obligations.ReloadReadsBackTheImage
  intro s i f bytes m place hm ho hheld hf hlen hlock hplace hrows
  have hreload := doReload_eq (s.die i) f hm ho hlock.symm fun k => readAt_lockWord (hplace k)
  have hdata : ∀ k, reloadedData (readCells (s.die i).cells[place k] .normal) = imageRow bytes k.val := fun k =>
    (decode_within_one_cell (hrows k)).1
  have hcorrected : ∀ k, (decodeRow (readCells (s.die i).cells[place k] .normal)).isCorrected =
      decide (readCells (s.die i).cells[place k] .normal ≠ rowWord (imageRow bytes k.val)) := fun k =>
    (decode_within_one_cell (hrows k)).2
  have hrelocated : ∀ k, decide (place k ≠ ownRow k) = decide (∃ e : Fin 3, m[e].toNat = k.val + 1) := fun k =>
    decide_eq_decide.mpr (place_ne_ownRow (hplace k))
  have hclean : (decodeRow (lockWordOf m)).isCorrected = false := by rw [lockWordOf, decodeRow_rowWord]; rfl
  simp only [hdata, hcorrected, hrelocated, hclean, flatMap_image hlen, lockReadData_lockWordOf, Bool.toNat_false, Nat.zero_add,
    Option.isSome_some, if_true] at hreload
  have hexec : exec (.reload i) s = _ := dieCommand_done rfl hheld (by simp) hf hreload
  refine ⟨_, hexec, ?_⟩
  simp only [die_setDie, if_true, and_self]

end Sys2Proof.Machine
end

section
/-!
SUPPORT. The expiry of the Row Engine's settle, open and rest timers (R87, R88, R94 to R97), in the words of the statements.
-/
namespace Sys2Proof.Machine

/-! ### The settle timer (R87, R88, R96) -/

/-- A job at whose site the settle timer has run out: round 1 begins after a first opening, and the round goes on after a
reopening (R88, R96), with the settle time passed on the open timer too (log entry 9). -/
def Job.settled (cfg : Params) (j : Job) : Job :=
  { j with engine := { j.engine with
    settleTimer := none, openTimer := j.engine.openTimer.map (fun n => n - 10)
    round := if j.engine.round = 0 then 1 else j.engine.round
    chunks := if j.engine.round = 0 then splitChunks (min cfg.pumpCapacity 32) j.engine.target else j.engine.chunks } }

/-- In SETTLING the expiry leads to the guard on the front chunk. -/
theorem onSettle_settling (cfg : Params) {j : Job} (h : j.engine.stage = .settling) :
    j.onSettle cfg = Job.guardChunk cfg (j.settled cfg) := by
  by_cases hr : j.engine.round = 0
  · simp only [Job.onSettle, if_pos h, Job.beginRound, Job.settled, hr, if_true]
    rfl
  · simp only [Job.onSettle, if_pos h, Job.settled, if_neg hr]

theorem exec_settleTimerExpiry {s : State} {i : SiteNo} {j : Job} {a : Nat} (hj : (s.site i).job = some j)
    (ht : j.engine.settleTimer = some a) :
    exec (.settleTimerExpiry i) s = .next (s.perform i (j.onSettle s.cfg)).finishLift := by
  simp only [exec, execSettleTimerExpiry, hj, ht]

/-! ### The open timer (R94, R95) -/

theorem exec_openTimerExpiry {s : State} {i : SiteNo} {j : Job} {n : Nat} {m : Move} (hj : (s.site i).job = some j)
    (ht : j.engine.openTimer = some n) (hm : j.onOpenExpiry = some m) :
    exec (.openTimerExpiry i) s = .next ((s.withdraw i).perform i m) := by
  simp only [exec, execOpenTimerExpiry, hj, ht, hm]

/-- In GRANT_WAIT the row is closed (R94). -/
theorem onOpenExpiry_grantWait {j : Job} (h : j.engine.stage = .grantWait) :
    j.onOpenExpiry = some (j.closing .chunk, .send (.closeRow j.engine.regionRow) true) := by
  simp only [Job.onOpenExpiry, h]
  rfl

/-- In PULSING and SENSING the expired flag is set (R95). -/
theorem onOpenExpiry_runs {j : Job} (h : j.engine.stage = .pulsing ∨ j.engine.stage = .sensing) :
    j.onOpenExpiry = some ({ j with engine := { j.engine with openTimer := none, expired := true } }, .wait) := by
  rcases h with h | h <;> simp only [Job.onOpenExpiry, h]

/-- A withdrawal followed by a command at the site is the command at the site, with the withdrawal's grants after it: grants
pass by a site whose request has been withdrawn (R112, R115). -/
theorem siteWith_withdraw_grants (s : State) (i : SiteNo) (j : Job) (x : Option Exchange) {d : Nat}
    (hw : s.arb.waiting[i] = some d) : ((s.siteWith i j x).unwait i).Grants ((s.withdraw i).siteWith i j x) := by
  have hself := (withdraw_self s i).1
  have hgrants := (withdraw_grants s i hw).setSite i (by simp [State.unwait])
    { s.site i with job := some j, port := { (s.site i).port with exch := x } }
  simp only [State.siteWith, hself]
  exact hgrants

/-! ### The rest timer (R96) -/

theorem exec_restTimerExpiry {s : State} {i : SiteNo} {j : Job} {n : Nat} (hj : (s.site i).job = some j)
    (ht : j.engine.restTimer = some n) : exec (.restTimerExpiry i) s = .next (s.perform i j.onRest) := by
  simp only [exec, execRestTimerExpiry, hj, ht]

/-! ### The statement -/

/-- Settles O54: the settle expiry is the guard on the front chunk (`guardChunk_turns`); the open expiry a withdrawal, with its
grants, and the job's act; the rest expiry the job's act alone. -/
theorem rowEngineTimersAct : Obligations.RowEngineTimersAct := by
  unfold Obligations.RowEngineTimersAct
  intro s i j hj
  refine ⟨fun a j1 ha hstage hphase hx hw hj1 => ?_, fun n d hn hstage hw => ?_, fun n hn hw hstage => ?_,
    fun n hn => ⟨fun hstage => ?_, fun hstage => ?_⟩⟩
  · obtain rfl : j1 = j.settled s.cfg := hj1
    have hgoes := guardChunk_goesOn (s := s) (j := j.settled s.cfg) hphase hx hw
    rw [exec_settleTimerExpiry hj ha, onSettle_settling s.cfg hstage, finishLift_active _ i hgoes.active]
    exact ⟨_, rfl, guardChunk_turns s i (j.settled s.cfg) hphase hx hw⟩
  · refine ⟨_, exec_openTimerExpiry hj hn (onOpenExpiry_grantWait hstage), ?_⟩
    rw [perform_send, withdraw_cfg]
    exact siteWith_withdraw_grants s i _ _ hw
  · rw [exec_openTimerExpiry hj hn (onOpenExpiry_runs hstage), withdraw_none s i hw]
    rfl
  · rw [exec_restTimerExpiry hj hn, Job.onRest, if_pos hstage, Job.openAgain, perform_send]
    rfl
  · rw [exec_restTimerExpiry hj hn, Job.onRest, if_neg hstage]
    rfl

end Sys2Proof.Machine
end

section
/-!
SUPPORT. Cell sets, their chunks (R88) and the verify judgement (R99).
-/
namespace Sys2Proof.Machine

/-! ### The cells of a set -/

theorem mem_cellsOf {w : Row} {i : Nat} : i ∈ cellsOf w ↔ w.getLsbD i = true := by
  rw [cellsOf, List.mem_filter, List.mem_range, and_iff_right_iff_imp]
  exact BitVec.lt_of_getLsbD

theorem lt_of_mem_cellsOf {w : Row} {i : Nat} (h : i ∈ cellsOf w) : i < 32 := BitVec.lt_of_getLsbD (mem_cellsOf.mp h)

theorem cellsOf_ascending (w : Row) : (cellsOf w).Pairwise (· < ·) := List.pairwise_lt_range.filter _

theorem length_cellsOf (w : Row) : (cellsOf w).length = cellCount w := List.countP_eq_length_filter.symm

theorem cellsOf_zero : cellsOf 0 = [] := by decide

theorem getLsbD_cellBit {c : Nat} (hc : c < 32) (i : Nat) : (cellBit c).getLsbD i = true ↔ i = c := by
  simp [cellBit, BitVec.getLsbD_shiftLeft, BitVec.getLsbD_one]
  omega

/-- A cell above those of a set joins it at the end. -/
theorem cellsOf_or_cellBit {w : Row} {c : Nat} (hc : c < 32) (h : ∀ i ∈ cellsOf w, i < c) :
    cellsOf (w ||| cellBit c) = cellsOf w ++ [c] := by
  refine List.Pairwise.eq_of_mem_iff (cellsOf_ascending _) ?_ fun i => ?_
  · exact List.pairwise_append.mpr ⟨cellsOf_ascending w, List.pairwise_singleton _ _, by simpa using h⟩
  · simp only [List.mem_append, List.mem_singleton, mem_cellsOf, BitVec.getLsbD_or, Bool.or_eq_true, getLsbD_cellBit hc]

theorem cellsOf_cellBit {c : Nat} (hc : c < 32) : cellsOf (cellBit c) = [c] := by
  have h := cellsOf_or_cellBit (w := 0) hc (by rw [cellsOf_zero]; simp)
  rwa [cellsOf_zero, show (0 : Row) ||| cellBit c = cellBit c from BitVec.zero_or] at h

/-- A set of one cell is the set of that cell. -/
theorem cellCount_eq_one_iff {w : Row} : cellCount w = 1 ↔ ∃ c < 32, w = cellBit c := by
  constructor
  · intro h
    obtain ⟨c, hc⟩ := List.length_eq_one_iff.mp ((length_cellsOf w).trans h)
    have hlt : c < 32 := lt_of_mem_cellsOf (hc ▸ List.mem_singleton_self c)
    refine ⟨c, hlt, BitVec.eq_of_getLsbD_eq fun i _ => ?_⟩
    rw [Bool.eq_iff_iff, getLsbD_cellBit hlt, ← mem_cellsOf, hc, List.mem_singleton]
  · rintro ⟨c, hc, rfl⟩
    rw [← length_cellsOf, cellsOf_cellBit hc, List.length_singleton]

/-! ### Chunks (R88) -/

/-- What R88 says of chunks: together they hold the cells given, in order; none is empty or larger than l; all but the last hold
l cells. -/
structure ChunksOf (l : Nat) (cells : List Nat) (chunks : List Row) : Prop where
  cells : chunks.flatMap cellsOf = cells
  size : ∀ c ∈ chunks, 1 ≤ cellCount c ∧ cellCount c ≤ l
  full : ∀ c ∈ chunks.dropLast, cellCount c = l

theorem chunksOf_nil (l : Nat) : ChunksOf l [] [] := ⟨rfl, by simp, by simp⟩

theorem chunksOf_singleton {l : Nat} {c : Row} (hpos : 1 ≤ cellCount c) (hle : cellCount c ≤ l) :
    ChunksOf l (cellsOf c) [c] := ⟨by simp, by simpa using ⟨hpos, hle⟩, by simp⟩

/-- A full chunk ahead of others. -/
theorem ChunksOf.cons {l : Nat} {cells : List Nat} {c : Row} {chunks : List Row} (h : ChunksOf l cells chunks) (hl : 1 ≤ l)
    (hc : cellCount c = l) : ChunksOf l (cellsOf c ++ cells) (c :: chunks) := by
  refine ⟨by rw [List.flatMap_cons, h.cells], ?_, fun d hd => ?_⟩
  · simp only [List.forall_mem_cons]
    exact ⟨by omega, h.size⟩
  · cases chunks with
    | nil => simp at hd
    | cons d' ds =>
      rcases List.mem_cons.mp hd with rfl | hd
      · exact hc
      · exact h.full d hd

/-- The loop, with a chunk of at most l cells in hand and every cell left to place above those placed. -/
theorem chunkLoop_chunksOf {l : Nat} (hl : 1 ≤ l) (cells : List Nat) (cur : Row) (hle : cellCount cur ≤ l)
    (h : (cellsOf cur ++ cells).Pairwise (· < ·)) (hlt : ∀ c ∈ cells, c < 32) :
    ChunksOf l (cellsOf cur ++ cells) (chunkLoop l cells cur (cellCount cur)) := by
  induction cells generalizing cur with
  | nil =>
    rw [chunkLoop, List.append_nil]
    split
    · next h0 =>
      rw [List.length_eq_zero_iff.mp ((length_cellsOf cur).trans h0)]
      exact chunksOf_nil l
    · exact chunksOf_singleton (by omega) hle
  | cons c cs ih =>
    obtain ⟨hc, hcs⟩ := List.forall_mem_cons.mp hlt
    rw [chunkLoop]
    split
    · next hfull =>
      have hone : cellCount (cellBit c) = 1 := cellCount_eq_one_iff.mpr ⟨c, hc, rfl⟩
      have hrest := ih (cellBit c) (by omega) (by rw [cellsOf_cellBit hc]; exact (List.pairwise_append.mp h).2.1) hcs
      rw [hone, cellsOf_cellBit hc] at hrest
      exact hrest.cons hl hfull
    · have habove : ∀ i ∈ cellsOf cur, i < c := fun i hi => (List.pairwise_append.mp h).2.2 i hi c (by simp)
      have hor := cellsOf_or_cellBit hc habove
      have hcount : cellCount (cur ||| cellBit c) = cellCount cur + 1 := by
        rw [← length_cellsOf, hor, List.length_append, length_cellsOf, List.length_singleton]
      have happ : cellsOf (cur ||| cellBit c) ++ cs = cellsOf cur ++ c :: cs := by rw [hor, List.append_assoc]; rfl
      have hrest := ih (cur ||| cellBit c) (by omega) (by rw [happ]; exact h) hcs
      rwa [happ, hcount] at hrest

/-- The chunks of a set (R88). -/
theorem splitChunks_chunksOf {l : Nat} (hl : 1 ≤ l) (w : Row) : ChunksOf l (cellsOf w) (splitChunks l w) := by
  have h := chunkLoop_chunksOf hl (cellsOf w) 0 (by rw [← length_cellsOf, cellsOf_zero]; exact Nat.zero_le l)
    (by rw [cellsOf_zero]; exact cellsOf_ascending w) (fun _ => lt_of_mem_cellsOf)
  rwa [← length_cellsOf 0, cellsOf_zero] at h

/-! ### The verify judgement (R99) -/

theorem judgeRow_unwritten {word read : Row} (h : read.getLsbD 31 = false) : judgeRow word read = .failed := by
  rw [judgeRow, writtenMark, h, if_neg Bool.false_ne_true]

theorem judgeRow_written {word read : Row} (h : read.getLsbD 31 = true) : judgeRow word read =
    if word ^^^ read = 0 then .good else if cellCount (word ^^^ read) = 1 then .corrected else .failed := by
  rw [judgeRow, writtenMark, h, if_pos rfl]

theorem xor_eq_iff {a b c : Row} : a ^^^ b = c ↔ b = a ^^^ c := by
  constructor <;> rintro rfl <;> simp

theorem judgeRow_good_iff {word read : Row} (hw : word.getLsbD 31 = true) : judgeRow word read = .good ↔ read = word := by
  cases h : read.getLsbD 31 with
  | false =>
    rw [judgeRow_unwritten h]
    refine iff_of_false (by decide) fun he => ?_
    rw [he, hw] at h
    cases h
  | true =>
    rw [judgeRow_written h, ← show word ^^^ read = 0 ↔ read = word by rw [xor_eq_iff]; simp]
    split
    · next he => exact iff_of_true rfl he
    · next he => exact iff_of_false (by split <;> decide) he

/-- One cell other than W differs (R99). -/
theorem judgeRow_corrected_iff {word read : Row} (hw : word.getLsbD 31 = true) :
    judgeRow word read = .corrected ↔ ∃ k < 31, read = word ^^^ cellBit k := by
  cases h : read.getLsbD 31 with
  | false =>
    rw [judgeRow_unwritten h]
    refine iff_of_false (by decide) ?_
    rintro ⟨k, hk, rfl⟩
    have hbit : (cellBit k).getLsbD 31 = false := by
      rw [Bool.eq_false_iff, ne_eq, getLsbD_cellBit (by omega)]; omega
    rw [BitVec.getLsbD_xor, hw, hbit] at h
    cases h
  | true =>
    have hw31 : (word ^^^ read).getLsbD 31 = false := by rw [BitVec.getLsbD_xor, hw, h]; rfl
    have hone : cellCount (word ^^^ read) = 1 ↔ ∃ k < 31, read = word ^^^ cellBit k := by
      rw [cellCount_eq_one_iff]
      constructor
      · rintro ⟨k, hk, he⟩
        have hne : k ≠ 31 := fun e => by
          have := (getLsbD_cellBit hk 31).mpr e.symm
          rw [← he, hw31] at this
          cases this
        exact ⟨k, by omega, xor_eq_iff.mp he⟩
      · rintro ⟨k, hk, he⟩
        exact ⟨k, by omega, xor_eq_iff.mpr he⟩
    rw [judgeRow_written h, ← hone]
    split
    · next he => rw [he]; decide
    · split
      · next he => exact iff_of_true rfl he
      · next he => exact iff_of_false (by decide) he

end Sys2Proof.Machine
end

section
/-!
SUPPORT. Where a row attempt starts and what each DONE response leads to in PROGRAM and LOCK (R85 to R105), in the words of the
statements.
-/
namespace Sys2Proof.Machine

/-! ### The spares (R101 to R103) -/

/-- Spares in use and void spares are passed over (R101). -/
theorem trySpares_append_taken (k : Fin 16) (word : Row) {passed : List (Fin 3)} (spares : List (Fin 3)) {j : Job}
    (h : ∀ e ∈ passed, j.map[e] ≠ 0) : Job.trySpares k word (passed ++ spares) j = Job.trySpares k word spares j := by
  induction passed with
  | nil => rfl
  | cons e passed ih =>
    obtain ⟨he, hpassed⟩ := List.forall_mem_cons.mp h
    rw [List.cons_append, Job.trySpares, if_pos he, ih hpassed]

theorem trySpares_allTaken (k : Fin 16) (word : Row) {j : Job} (h : ∀ e : Fin 3, j.map[e] ≠ 0) :
    Job.trySpares k word allSpares j = (j, .finish .rowUnrepairable) :=
  trySpares_append_taken k word (passed := allSpares) [] fun e _ => h e

/-- The spares below one, that one, and the spares above it. -/
theorem allSpares_split (e : Fin 3) :
    allSpares = allSpares.take e ++ e :: allSpares.drop (e + 1) ∧ ∀ e' ∈ allSpares.take e, e' < e := by
  revert e; decide

section Spare

variable {j : Job} {e : Fin 3} (k : Fin 16) {word : Row} (hfree : j.map[e] = 0)
  (hlower : ∀ e' : Fin 3, e' < e → j.map[e'] ≠ 0)

include hfree hlower

/-- The attempt comes to the lowest free spare. -/
theorem trySpares_lowest : Job.trySpares k word allSpares j =
    if 2 ≤ j.conflictsAt (spareRow e) word then
      Job.trySpares k word (allSpares.drop (e + 1)) ((j.failAt (spareRow e)).setEntry e 31)
    else j.startAttempt (.spare k e) (spareRow e) word := by
  obtain ⟨hsplit, hbelow⟩ := allSpares_split e
  rw [hsplit, trySpares_append_taken k word _ fun e' he' => hlower e' (hbelow e' he'), ← hsplit, Job.trySpares,
    if_neg (not_not.mpr hfree)]

theorem trySpares_starts (hfew : j.conflictsAt (spareRow e) word ≤ 1) : Job.trySpares k word allSpares j =
    ({ j with engine := RowEngine.started (.spare k e) (spareRow e) word (j.snapRow (spareRow e)) },
      .send (firstCommand (spareRow e) word (j.snapRow (spareRow e))) true) := by
  rw [trySpares_lowest k hfree hlower, if_neg (by omega), startAttempt_eq]

/-- A spare with two or more conflict cells goes void, and the spares are tried again (R102). -/
theorem trySpares_void (hmany : 2 ≤ j.conflictsAt (spareRow e) word) :
    Job.trySpares k word allSpares j = Job.trySpares k word allSpares ((j.failAt (spareRow e)).setEntry e 31) := by
  obtain ⟨hsplit, hbelow⟩ := allSpares_split e
  have hvoid : ∀ e' ∈ allSpares.take e ++ [e], ((j.failAt (spareRow e)).setEntry e 31).map[e'] ≠ 0 := by
    intro e' he'
    rcases List.mem_append.mp he' with he' | he'
    · have hlt := hbelow e' he'
      have hne : e.val ≠ e'.val := fun h => absurd hlt (by rw [Fin.ext h]; exact lt_irrefl _)
      have hsame : (j.map.set e.val 31 e.isLt)[e'] = j.map[e'] := Vector.getElem_set_ne e.isLt e'.isLt hne
      rw [show ((j.failAt (spareRow e)).setEntry e 31).map[e'] = j.map[e'] from hsame]
      exact hlower e' hlt
    · obtain rfl := List.mem_singleton.mp he'
      have hself : (j.map.set e'.val 31 e'.isLt)[e'] = 31 := Vector.getElem_set_self e'.isLt
      rw [show ((j.failAt (spareRow e')).setEntry e' 31).map[e'] = 31 from hself]
      decide
  have hskip := trySpares_append_taken k word (allSpares.drop (e + 1)) hvoid
  rw [List.append_assoc, List.singleton_append, ← hsplit] at hskip
  rw [trySpares_lowest k hfree hlower, if_pos hmany, hskip]

end Spare

/-! ### The start at the own row and at the lock row (R85, R101, R105) -/

theorem imageWord_eq {j : Job} {im : Image} {k : Fin 16} {word : Row} (him : j.image = some im)
    (hword : im.words[k.val]? = some word) : j.imageWord k = word := by
  rw [Job.imageWord, him]
  simp only [List.getD_eq_getElem?_getD, hword, Option.getD_some]

theorem startImageRow_eq (j : Job) (k : Fin 16) : j.startImageRow k =
    if 2 ≤ j.conflictsAt (ownRow k) (j.imageWord k) then
      Job.trySpares k (j.imageWord k) allSpares (j.failAt (ownRow k))
    else ({ j with engine := RowEngine.started (.own k) (ownRow k) (j.imageWord k) (j.snapRow (ownRow k)) },
      .send (firstCommand (ownRow k) (j.imageWord k) (j.snapRow (ownRow k))) true) := by
  rw [← startAttempt_eq]
  rfl

theorem startLock_starts {j : Job} (hfew : j.conflictsAt lockRow (lockWordOf j.map) ≤ 1) : j.startLock =
    ({ j with
        phase := .lock, lockWord := some (lockWordOf j.map)
        engine := RowEngine.started .lock lockRow (lockWordOf j.map) (j.snapRow lockRow) },
      .send (firstCommand lockRow (lockWordOf j.map) (j.snapRow lockRow)) true) := by
  generalize hj1 : ({ j with phase := .lock, lockWord := some (lockWordOf j.map) } : Job) = j1
  have hfew1 : ¬ 2 ≤ j1.conflictsAt lockRow (lockWordOf j.map) := by
    rw [← hj1]; exact Nat.not_le.mpr (Nat.lt_succ_of_le hfew)
  rw [Job.startLock, hj1, if_neg hfew1, startAttempt_eq, ← hj1]
  rfl

/-! ### What follows an attempt that was judged (R100 to R105) -/

theorem placed_next {j : Job} {k k' : Fin 16} (h : k'.val = k.val + 1) : j.placed k = j.startImageRow k' := by
  rw [Job.placed, dif_pos (h ▸ k'.isLt)]
  exact congrArg j.startImageRow (Fin.ext h.symm)

theorem placed_last {j : Job} {k : Fin 16} (h : k.val = 15) : j.placed k = j.startLock := by
  rw [Job.placed, dif_neg (by omega)]

/-- An accepted attempt leaves the Row Engine IDLE and counts a CORRECTED row (R100). -/
theorem noteResult_accepted (j : Job) {r : RowResult} (h : r ≠ .failed) : j.noteResult r =
    { j with engine := RowEngine.idle, corrected := if r = .corrected then j.corrected + 1 else j.corrected } := by
  cases r with
  | good | corrected => rfl
  | failed => exact absurd rfl h

theorem attemptDone_own {j : Job} {k : Fin 16} (hp : j.engine.purpose = .own k) :
    j.attemptDone .failed = Job.trySpares k j.engine.word allSpares (j.failAt j.engine.regionRow) ∧
      ∀ r, r ≠ .failed → j.attemptDone r = (j.noteResult r).placed k :=
  ⟨by simp only [Job.attemptDone, hp]; rfl, fun r hr => by simp only [Job.attemptDone, hp]⟩

theorem attemptDone_spare {j : Job} {k : Fin 16} {e : Fin 3} (hp : j.engine.purpose = .spare k e) :
    j.attemptDone .failed =
        Job.trySpares k j.engine.word allSpares ((j.failAt j.engine.regionRow).setEntry e 31) ∧
      ∀ r, r ≠ .failed → j.attemptDone r = ((j.noteResult r).setEntry e (BitVec.ofNat 5 (k.val + 1))).placed k :=
  ⟨by simp only [Job.attemptDone, hp]; rfl, fun r hr => by simp only [Job.attemptDone, hp]⟩

theorem attemptDone_lock {j : Job} (hp : j.engine.purpose = .lock) :
    j.attemptDone .failed = (j.failAt j.engine.regionRow, .finish .lockFailed) ∧
      ∀ r, r ≠ .failed →
        j.attemptDone r = ({ j.noteResult r with phase := .shadowCheck, step := 0 }, .send .reload true) :=
  ⟨by simp only [Job.attemptDone, hp]; rfl, fun r hr => by simp only [Job.attemptDone, hp]⟩

/-! ### The stages at the DONE of their exchange -/

/-- Verify with the row open closes it first (R98). -/
theorem goVerify_open {j : Job} (h : j.engine.rowOpen = true) :
    j.goVerify = (j.closing .verify, .send (.closeRow j.engine.regionRow) true) := by
  rw [Job.goVerify, if_pos h]
  rfl

theorem goVerify_closed {j : Job} (h : j.engine.rowOpen = false) :
    j.goVerify = (j.verifying, .send (.sense j.engine.regionRow .normal) true) := by
  rw [Job.goVerify, h, if_neg Bool.false_ne_true]
  rfl

/-- With no target cell unblown, or no round left, the attempt goes to verify (R91). -/
theorem highSensed_verify {cfg : Params} {j : Job} {read : Row}
    (h : j.engine.target &&& ~~~read = 0 ∨ cfg.maxRounds ≤ j.engine.round) : Job.highSensed cfg j read = j.goVerify := by
  simp only [Job.highSensed]
  split
  · rfl
  · next hleft => rw [if_pos (h.resolve_left hleft)]

theorem highSensed_round {cfg : Params} {j : Job} {read : Row} (hleft : j.engine.target &&& ~~~read ≠ 0)
    (hround : j.engine.round < cfg.maxRounds) :
    Job.highSensed cfg j read = Job.guardChunk cfg (j.beginRound cfg (j.engine.target &&& ~~~read)) := by
  simp only [Job.highSensed, if_neg hleft, if_neg (Nat.not_le.mpr hround)]

/-- With chunks to do and reopenings left the row rests (R96). -/
theorem rowClosed_rests {j : Job} (ha : j.engine.afterClose = .chunk) (hr : j.engine.reopens < 4) :
    j.rowClosed = ({ j with engine := { j.engine with stage := .resting, restTimer := some 50 } }, .wait) := by
  simp only [Job.rowClosed, ha, Job.reopen, if_neg (Nat.not_le.mpr hr), Option.isSome_some, if_true]

/-- With none left the chunks are dropped, and the attempt goes to verify (R97). -/
theorem rowClosed_drops {j : Job} (ha : j.engine.afterClose = .chunk) (ho : j.engine.rowOpen = false)
    (hr : 4 ≤ j.engine.reopens) :
    j.rowClosed = (({ j with engine := { j.engine with chunks := [] } } : Job).verifying,
      .send (.sense j.engine.regionRow .normal) true) := by
  simp only [Job.rowClosed, ha, Job.reopen, if_pos hr]
  rw [goVerify_closed rfl, ← ho]
  rfl

/-! ### The event -/

/-- The machine after the DONE of an exchange of a row attempt: the job's move carried out, a lift left without a job
completed. -/
def State.afterDone (s : State) (i : SiteNo) (j : Job) (data : BitVec 32) : State :=
  (((s.selectionOver i).siteWith i j none).perform i (Job.attemptExchange s.cfg j data)).finishLift

/-- An event that ends an attempt with DONE (R66, R67) in PROGRAM or LOCK. -/
theorem exec_afterDone {s : State} {i : SiteNo} {j : Job} {x : Exchange} {m left : Nat} {c : Instr} {data : BitVec 32}
    (hj : (s.site i).job = some j) (hx : (s.site i).port.exch = some x) (hm : x.timer = some m)
    (hpulse : x.cmd.isPulse = false) (hp : j.phase = .program ∨ j.phase = .lock)
    (hends : endsAttempt c i left x.rx (.done data)) :
    exec c s = .next (s.afterDone i (j.noteOpenLeft left) data) := by
  obtain ⟨v, hended, hv, -⟩ := attemptEnded_ended s i j x left (.done data) hj rfl (.inr hpulse)
  have hmove : (j.noteOpenLeft left).onExchange s.cfg x.cmd (.done data) =
      Job.attemptExchange s.cfg (j.noteOpenLeft left) data := by
    have hp1 : (j.noteOpenLeft left).phase = .program ∨ (j.noteOpenLeft left).phase = .lock := hp
    rcases hp1 with h | h <;> rw [onExchange_done (by rw [h]; decide), Job.exchangeDone, h]
  rw [exec_endsAttempt s i x m left c _ hx hm hends, hended, hv hpulse, hmove]
  rfl

section Move

variable {s : State} {i : SiteNo} {j j' : Job} {data : BitVec 32}

theorem afterDone_send {cmd : DieCmd} (h : Job.attemptExchange s.cfg j data = (j', .send cmd true)) :
    s.afterDone i j data = s.goesTo i j' (some cmd) := by
  rw [State.afterDone, h]
  exact perform_next j j' cmd none

theorem afterDone_wait (h : Job.attemptExchange s.cfg j data = (j', .wait)) :
    s.afterDone i j data = s.goesTo i j' none := by
  rw [State.afterDone, h, perform_wait, siteWith_site, siteWith_siteWith, finishLift_active _ i (siteWith_active _ i _ _)]
  rfl

/-- The attempt turns to its front chunk by way of the guard (R93). -/
theorem afterDone_guard (h : Job.attemptExchange s.cfg j data = Job.guardChunk s.cfg j') (hp : j'.phase ≠ .ending)
    (hw : s.arb.waiting[i] = none) : (s.goesTo i j none).TurnsToChunk i j' (s.afterDone i j data) := by
  generalize hv : (s.selectionOver i).siteWith i j none = v
  have hx : (v.site i).port.exch = none := by rw [← hv, siteWith_site]
  have hvw : v.arb.waiting[i] = none := by rw [← hv]; exact hw
  have hcfg : s.cfg = v.cfg := by rw [← hv]; rfl
  have hgoes := guardChunk_goesOn (s := v) (j := j') hp hx hvw
  rw [State.afterDone, h, hv, hcfg, finishLift_active _ i hgoes.active, show s.goesTo i j none = v from hv]
  exact guardChunk_turns v i j' hp hx hvw

/-- The attempt is over, and the job moves on or ends. -/
theorem afterDone_movesOn {m : Move} (h : Job.attemptExchange s.cfg j data = m) :
    s.MovesOn i m (s.afterDone i j data) := by
  obtain ⟨j', a⟩ := m
  refine ⟨fun cmd ha => ?_, fun o ha => ?_⟩
  · obtain rfl : a = .send cmd true := ha
    exact afterDone_send h
  · obtain rfl : a = .finish o := ha
    rw [State.afterDone, h]
    exact jobEnded_finishLift_iff.mpr ((movesOn_doMove s i j (j', .finish o)).2 o rfl)

/-! ### The stages, one by one -/

theorem afterDone_opening (hstage : j.engine.stage = .opening) :
    s.afterDone i j data = s.goesTo i { j with engine := { j.engine with
      stage := .settling, openTimer := some s.cfg.rowOpenLimit, settleTimer := some 10 } } none := by
  refine afterDone_wait ?_
  simp only [Job.attemptExchange, hstage]
  rfl

/-- The HIGH-margin sense leaves nothing to do, or no round to do it in (R91). -/
theorem afterDone_sensed (hstage : j.engine.stage = .sensing)
    (hdone : j.engine.target &&& ~~~data = 0 ∨ s.cfg.maxRounds ≤ j.engine.round) :
    (j.engine.rowOpen = true →
      s.afterDone i j data = s.goesTo i (j.closing .verify) (some (.closeRow j.engine.regionRow))) ∧
    (j.engine.rowOpen = false →
      s.afterDone i j data = s.goesTo i j.verifying (some (.sense j.engine.regionRow .normal))) := by
  have hmove : Job.attemptExchange s.cfg j data = j.goVerify := by
    simp only [Job.attemptExchange, hstage, highSensed_verify hdone]
  exact ⟨fun hopen => afterDone_send (hmove.trans (goVerify_open hopen)),
    fun hclosed => afterDone_send (hmove.trans (goVerify_closed hclosed))⟩

/-- A new round begins with the target cells that read unblown (R91). -/
theorem afterDone_round (hstage : j.engine.stage = .sensing) (hleft : j.engine.target &&& ~~~data ≠ 0)
    (hround : j.engine.round < s.cfg.maxRounds) (hp : j.phase ≠ .ending) (hw : s.arb.waiting[i] = none) :
    (s.goesTo i j none).TurnsToChunk i (j.beginRound s.cfg (j.engine.target &&& ~~~data)) (s.afterDone i j data) := by
  refine afterDone_guard ?_ hp hw
  simp only [Job.attemptExchange, hstage]
  exact highSensed_round hleft hround

/-- CLOSE ROW is followed by what it was sent for (R95 to R98). -/
theorem afterDone_closed (hstage : j.engine.stage = .closing) (hclosed : j.engine.rowOpen = false) :
    (j.engine.afterClose = .verify →
      s.afterDone i j data = s.goesTo i j.verifying (some (.sense j.engine.regionRow .normal))) ∧
    (j.engine.afterClose = .sense → s.afterDone i j data =
      s.goesTo i { j with engine := { j.engine with stage := .sensing, restTimer := some 50 } }
        (some (.sense j.engine.regionRow .high))) ∧
    (j.engine.afterClose = .chunk →
      (j.engine.reopens < 4 → s.afterDone i j data =
        s.goesTo i { j with engine := { j.engine with stage := .resting, restTimer := some 50 } } none) ∧
      (4 ≤ j.engine.reopens → s.afterDone i j data =
        s.goesTo i ({ j with engine := { j.engine with chunks := [] } } : Job).verifying
          (some (.sense j.engine.regionRow .normal)))) := by
  have hmove : Job.attemptExchange s.cfg j data = j.rowClosed := by simp only [Job.attemptExchange, hstage]
  refine ⟨fun hafter => ?_, fun hafter => ?_, fun hafter => ⟨fun hfew => ?_, fun hmany => ?_⟩⟩
  · have hverify : j.rowClosed = j.goVerify := by simp only [Job.rowClosed, hafter]
    exact afterDone_send (hmove.trans (hverify.trans (goVerify_closed hclosed)))
  · have hsense : j.rowClosed =
        Job.senseHigh { j with engine := { j.engine with restTimer := some 50 } } := by
      simp only [Job.rowClosed, hafter]
    exact afterDone_send (hmove.trans hsense)
  · exact afterDone_wait (hmove.trans (rowClosed_rests hafter hfew))
  · exact afterDone_send (hmove.trans (rowClosed_drops hafter hclosed hmany))

/-- The verify sense accepts the row (R99): the next image row, LOCK, or RELOAD. -/
theorem afterDone_accepted {r : RowResult} {k : Fin 16} {accepted : Job} (hstage : j.engine.stage = .verifying)
    (hr : r = judgeRow j.engine.word data) (hne : r ≠ .failed) (hacc : accepted = j.noteResult r) :
    (∀ placed : Job, ((j.engine.purpose = .own k ∧ placed = accepted) ∨
        ∃ e, j.engine.purpose = .spare k e ∧
          placed = accepted.setEntry e (BitVec.ofNat 5 (k.val + 1))) →
      s.MovesOn i (placed.placed k) (s.afterDone i j data)) ∧
    (j.engine.purpose = .lock →
      s.afterDone i j data = s.goesTo i { accepted with phase := .shadowCheck, step := 0 } (some .reload)) := by
  have hmove : Job.attemptExchange s.cfg j data = j.attemptDone r := by simp only [Job.attemptExchange, hstage, hr]
  refine ⟨fun placed hplaced => afterDone_movesOn (hmove.trans ?_), fun hp => afterDone_send (hmove.trans ?_)⟩
  · rcases hplaced with ⟨hp, rfl⟩ | ⟨e, hp, rfl⟩
    · rw [hacc, (attemptDone_own hp).2 r hne]
    · rw [hacc, (attemptDone_spare hp).2 r hne]
  · rw [hacc, (attemptDone_lock hp).2 r hne]

/-- The verify sense finds the row failed (R99, R100): a spare, or the end LOCK_FAILED. -/
theorem afterDone_failed (hstage : j.engine.stage = .verifying) (hr : .failed = judgeRow j.engine.word data) :
    (∀ k, j.engine.purpose = .own k →
      s.MovesOn i (Job.trySpares k j.engine.word allSpares (j.failAt j.engine.regionRow)) (s.afterDone i j data)) ∧
    (∀ k e, j.engine.purpose = .spare k e →
      s.MovesOn i (Job.trySpares k j.engine.word allSpares ((j.failAt j.engine.regionRow).setEntry e 31))
        (s.afterDone i j data)) ∧
    (j.engine.purpose = .lock → s.JobEnded (s.afterDone i j data) i (j.failAt j.engine.regionRow) .lockFailed) := by
  have hmove : Job.attemptExchange s.cfg j data = j.attemptDone .failed := by
    simp only [Job.attemptExchange, hstage, ← hr]
  refine ⟨fun k hp => ?_, fun k e hp => ?_, fun hp => ?_⟩
  · exact afterDone_movesOn (hmove.trans (attemptDone_own hp).1)
  · exact afterDone_movesOn (hmove.trans (attemptDone_spare hp).1)
  · exact (afterDone_movesOn (hmove.trans (attemptDone_lock hp).1)).2 _ rfl

end Move

/-! ### The statement -/

/-- Settles O53: the chunks by the loop that fills them, the judgement by the cells that differ, the starts by equations; a DONE is
the job's move at its stage, carried out. -/
theorem rowAttemptRules : Obligations.RowAttemptRules := by
  unfold Obligations.RowAttemptRules
  refine ⟨fun l w hl => ?_, fun word read hw => ⟨judgeRow_good_iff hw, judgeRow_corrected_iff hw, judgeRow_unwritten⟩,
    fun j k word => ⟨trySpares_allTaken k word,
      fun e hfree hlower => ⟨trySpares_starts k hfree hlower, trySpares_void k hfree hlower⟩,
      fun im him hword => ?_, fun hword hfew => ?_⟩, ?_⟩
  · obtain ⟨hcells, hsize, hfull⟩ := splitChunks_chunksOf hl w
    exact ⟨hcells, hsize, hfull⟩
  · rw [startImageRow_eq, imageWord_eq him hword]
    exact ⟨fun hfew => if_neg (by omega), fun hmany => if_pos hmany⟩
  · subst hword
    exact startLock_starts hfew
  intro s i j j1 x m left c data hj hx hm hpulse hp hw hends hj1
  have hexec := exec_afterDone hj hx hm hpulse hp hends
  obtain rfl : j1 = j.noteOpenLeft left := hj1
  have hne : j.phase ≠ .ending := by rcases hp with h | h <;> rw [h] <;> decide
  simp only [hexec, Host.Outcome.next.injEq]
  refine ⟨fun hstage => ?opening, fun hstage => ⟨fun hdone => ?sensed, fun hleft hround => ?round⟩,
    fun hstage hclosed => ?closing, fun hstage => ?verifying⟩
  case opening => exact afterDone_opening (j := j.noteOpenLeft left) hstage
  case sensed => exact afterDone_sensed (j := j.noteOpenLeft left) hstage hdone
  case round => exact ⟨_, rfl, afterDone_round (j := j.noteOpenLeft left) hstage hleft hround hne hw⟩
  case closing => exact afterDone_closed (j := j.noteOpenLeft left) hstage hclosed
  case verifying =>
    refine ⟨_, rfl, fun r k accepted hr hacc => ⟨fun hfail => ?_, fun hgood => ?_⟩⟩
    · obtain ⟨hown, hspare, hlock⟩ := afterDone_failed (s := s) (i := i) (j := j.noteOpenLeft left) hstage (hfail ▸ hr)
      exact ⟨hown k, hspare k, fun hpurpose => (hlock hpurpose).congr rfl⟩
    · subst hacc
      obtain ⟨hplaced, hlock⟩ := afterDone_accepted (s := s) (i := i) (j := j.noteOpenLeft left) (k := k) hstage hr hgood
        (noteResult_accepted (j.noteOpenLeft left) hgood).symm
      refine ⟨fun placed h => ⟨fun k' hk' => ?_, fun hk => ?_⟩, hlock⟩
      · rw [← placed_next hk']
        exact hplaced placed h
      · rw [← placed_last hk]
        exact hplaced placed h

end Sys2Proof.Machine
end

section
/-!
SUPPORT. The programming supply (R112, R113, R117 to R119): what a chain of grants comes to at each site and for the units in
use, and the waiting jobs aborted at the hold timer's expiry (R57).
-/
namespace Sys2Proof.Machine

/-! ### Reports of a global condition -/

/-- A global report reads the monitor, the link and the global states, and nothing else of the machine (R150, R151, R153). -/
theorem latchGlobal_mon_link {s t : State} (g : GlobalFlag) (hm : t.mon = s.mon) (hl : t.link = s.link)
    (hg : t.globalStates = s.globalStates) :
    (t.latchGlobal g).mon = (s.latchGlobal g).mon ∧ (t.latchGlobal g).link = (s.latchGlobal g).link := by
  obtain ⟨hmont, hlinkt, -⟩ := latchGlobal_eq (s := t) (g := g) rfl
  obtain ⟨hmons, hlinks, -⟩ := latchGlobal_eq (s := s) (g := g) rfl
  have hstates : ∀ u : State, (u.latchGlobal g).globalStates = u.globalStates := fun u => by simp [State.globalStates]
  have henabled : (t.latchGlobal g).enabledFlag .global = (s.latchGlobal g).enabledFlag .global := by
    unfold State.enabledFlag
    rw [hmont, hmons, hm]
  have hnotice : (t.latchGlobal g).noticeOf .global = (s.latchGlobal g).noticeOf .global := by
    simp only [State.noticeOf, State.scopeBytes, hstates, hg, flags_latchGlobal, hm]
  exact ⟨by rw [hmont, hmons, hm, henabled], by rw [hlinkt, hlinks, hl, hm, henabled, hnotice]⟩

/-! ### A chain of grants (R112, R113) -/

/-- Only one waiting site is first in scan order. -/
theorem Arbiter.First.unique {a : Arbiter} {i k : SiteNo} {d e : Nat} (hi : a.First i) (hk : a.First k)
    (hwi : a.waiting[i] = some d) (hwk : a.waiting[k] = some e) : i = k := by
  rcases lt_trichotomy (i - a.pointer).val (k - a.pointer).val with hlt | heq | hgt
  · rw [hk i hlt] at hwi; cases hwi
  · exact sub_left_injective (Fin.ext heq)
  · rw [hi k hgt] at hwk; cases hwk

section Granted

variable (s : State) (i : SiteNo) (d : Nat)

theorem granted_waiting : (s.granted i d).arb.waiting[i] = none := Vector.getElem_set_self i.isLt

theorem granted_inFlight : (s.granted i d).arb.inFlight[i] = some d := Vector.getElem_set_self i.isLt

/-- One grant leaves every other site as it was. -/
theorem granted_other {k : SiteNo} (h : k ≠ i) :
    (s.granted i d).arb.waiting[k] = s.arb.waiting[k] ∧ (s.granted i d).arb.inFlight[k] = s.arb.inFlight[k] ∧
      (s.granted i d).site k = s.site k := by
  have hv : i.val ≠ k.val := fun e => h (Fin.ext e.symm)
  exact ⟨Vector.getElem_set_ne i.isLt k.isLt hv, Vector.getElem_set_ne i.isLt k.isLt hv, granted_site_ne s d h⟩

end Granted

namespace State.Grants

variable {s t : State}

/-- With PUMP clear the grants go on until the first waiter does not fit. -/
theorem stops (h : s.Grants t) (hp : s.arb.pump = false) {i : SiteNo} {d : Nat} (hw : t.arb.waiting[i] = some d)
    (hf : t.arb.First i) : t.cfg.pumpCapacity < t.arb.inUse + d := by
  induction h with
  | ends s hend =>
    rcases hend with hpump | hfull
    · rw [hp] at hpump; cases hpump
    · exact hfull i d hw hf
  | grants s t i' d' _ _ _ _ _ ih => exact ih hp hw hf

/-- With PUMP clear a first waiter that fits is granted. -/
theorem serves_first (h : s.Grants t) (hp : s.arb.pump = false) {i : SiteNo} {d : Nat} (hw : s.arb.waiting[i] = some d)
    (hf : s.arb.First i) (hfit : s.arb.inUse + d ≤ s.cfg.pumpCapacity) : t.arb.inFlight[i] = some d := by
  cases h with
  | ends _ hend =>
    rcases hend with hpump | hfull
    · rw [hp] at hpump; cases hpump
    · exact absurd (hfull i d hw hf) (Nat.not_lt.mpr hfit)
  | grants _ _ i' d' _ hw' hf' _ more =>
    obtain rfl : i' = i := hf'.unique hf hw' hw
    obtain rfl : d' = d := Option.some.inj (hw'.symm.trans hw)
    exact (more.other i' (granted_waiting s i' d')).2.2.trans (granted_inFlight s i' d')

/-- Grants never take the units in use past the capacity (R113). -/
theorem inUse_le (h : s.Grants t) (hle : s.arb.inUse ≤ s.cfg.pumpCapacity) : t.arb.inUse ≤ s.cfg.pumpCapacity := by
  induction h with
  | ends s _ => exact hle
  | grants s t i d _ _ _ hfit _ ih => exact ih hfit

/-- What grants come to at a site: nothing, or its request has left the waiting set, its units are in flight, and its PULSE is
sent (R90, R113). -/
theorem at_site (h : s.Grants t) (k : SiteNo) :
    (t.arb.waiting[k] = s.arb.waiting[k] ∧ t.arb.inFlight[k] = s.arb.inFlight[k] ∧ t.site k = s.site k) ∨
    (∃ d, s.arb.waiting[k] = some d ∧ t.arb.waiting[k] = none ∧ t.arb.inFlight[k] = some d ∧
      ∀ j, (s.site k).job = some j → t.site k = { s.site k with
        job := some j.onGrant.1
        port := { (s.site k).port with exch := some (newAttempt s.cfg j.onGrant.2 1 false) } }) := by
  induction h with
  | ends s _ => exact .inl ⟨rfl, rfl, rfl⟩
  | grants s t i d _ hw _ _ more ih =>
    by_cases e : k = i
    · subst e
      obtain ⟨hsite, hwait, hflight⟩ := more.other k (granted_waiting s k d)
      refine .inr ⟨d, hw, hwait, hflight.trans (granted_inFlight s k d), fun j hj => ?_⟩
      rw [hsite, granted_eq, grantOne_site s k d hj]
    · obtain ⟨hwait, hflight, hsite⟩ := granted_other s i d e
      rwa [hwait, hflight, hsite] at ih

end State.Grants

/-! ### The fault input (R117) -/

/-- Settles O41: outside reset a deassertion is the grant test from the state in which PUMP is clear and has latched, and a
grant test is a chain of grants. -/
theorem pumpFollowsItsInput : Obligations.PumpFollowsItsInput := by
  unfold Obligations.PumpFollowsItsInput
  refine ⟨fun s hr => ⟨if_pos hr, if_pos hr⟩, fun s hr => if_neg (by simp [State.setPumpPin, hr]), fun s hr => ?_⟩
  generalize hu : ({ s.setPumpPin false with
      arb := { s.arb with pump := false, holdTimer := none, timeoutInForce := false } } : State) = u
  have hexec : exec .pumpFaultDeasserted s = .next (u.latchGlobal .pump).grantTest := by
    rw [← hu]
    exact if_neg (by simp [State.setPumpPin, hr])
  have hgrants := grantTest_grants (u.latchGlobal .pump)
  refine ⟨_, hexec, hgrants, ?_⟩
  generalize (u.latchGlobal .pump).grantTest = t at hgrants ⊢
  have harb : (u.latchGlobal .pump).arb =
      { s.arb with pump := false, holdTimer := none, timeoutInForce := false } := by rw [latchGlobal_arb, ← hu]
  have hcfg : (u.latchGlobal .pump).cfg = s.cfg := by rw [latchGlobal_cfg, ← hu]; rfl
  have hsite : ∀ k, (u.latchGlobal .pump).site k = s.site k := fun k => by rw [site_latchGlobal, ← hu]; rfl
  have hclear : (u.latchGlobal .pump).arb.pump = false := by rw [harb]
  obtain ⟨hpump, htimeout, hhold⟩ := hgrants.supply
  obtain ⟨hmon, hlink⟩ := latchGlobal_mon_link (s := { s with arb := { s.arb with pump := false } }) (t := u) .pump
    (by rw [← hu]; rfl) (by rw [← hu]; rfl) (by rw [← hu]; rfl)
  refine ⟨hpump.trans hclear, hhold.trans (by rw [harb]), htimeout.trans (by rw [harb]), ?_, ?_, fun i => ?_,
    fun i d hw hf => hgrants.stops hclear hw hf, fun i d hw hf hfit => ?_, fun hle => ?_, ?_⟩
  · rw [← hmon, hgrants.frame]
  · rw [← hlink, hgrants.frame]
  · have hat := hgrants.at_site i
    rw [harb, hcfg, hsite] at hat
    exact hat
  · exact hgrants.serves_first hclear (by rw [harb]; exact hw) (by rw [harb]; exact hf) (by rw [harb, hcfg]; exact hfit)
  · rw [← hcfg]
    exact hgrants.inUse_le (by rw [harb, hcfg]; exact hle)
  · rw [hgrants.frame]
    simp only [latchGlobal_log, latchGlobal_ks, latchGlobal_td, latchGlobal_cfg, latchGlobal_dies, ← hu]
    exact ⟨rfl, rfl, rfl, rfl, rfl⟩

/-! ### The hold timer's expiry (R57, R119) -/

/-- With no request of the site waiting, an orderly abort leaves the arbiter and the other sites alone. -/
theorem abort_other {s : State} {i : SiteNo} (p : PendingEnd) (hw : s.arb.waiting[i] = none) :
    (s.abort i p).arb = s.arb ∧ ∀ k, k ≠ i → (s.abort i p).site k = s.site k := by
  unfold State.abort
  split
  · exact ⟨rfl, fun _ _ => rfl⟩
  · split
    · exact ⟨rfl, fun _ _ => rfl⟩
    · simp only [withdraw_none s i hw]
      exact ⟨by rw [doMove_arb, setExch_arb],
        fun k hk => (doMove_site_ne _ _ hk).trans (site_setExch_ne _ _ hk)⟩

section Waiters

variable (a : Arbiter) {s : State}

theorem abortWaiter_other (i : SiteNo) (hw : ∀ k : SiteNo, s.arb.waiting[k] = none) :
    (State.abortWaiter a s i).arb = s.arb ∧ ∀ k, k ≠ i → (State.abortWaiter a s i).site k = s.site k := by
  unfold State.abortWaiter
  split
  · exact abort_other _ (hw i)
  · exact ⟨rfl, fun _ _ => rfl⟩

theorem abortWaiter_cfg (s : State) (i : SiteNo) : (State.abortWaiter a s i).cfg = s.cfg := by
  unfold State.abortWaiter
  split
  · exact abort_cfg _ _ _
  · rfl

theorem abortWaiter_endsLogged (s : State) (i : SiteNo) : s.EndsLogged (State.abortWaiter a s i) := by
  unfold State.abortWaiter
  split
  · exact .abort _ _ _
  · exact .refl _

/-- With the waiting set empty, the aborts of some sites leave the arbiter and the sites not among them alone. -/
theorem foldl_abortWaiter_other (l : List SiteNo) (hw : ∀ k : SiteNo, s.arb.waiting[k] = none) :
    (l.foldl (State.abortWaiter a) s).arb = s.arb ∧ ∀ k ∉ l, (l.foldl (State.abortWaiter a) s).site k = s.site k := by
  induction l generalizing s with
  | nil => exact ⟨rfl, fun _ _ => rfl⟩
  | cons i l ih =>
    obtain ⟨harb, hsite⟩ := abortWaiter_other a i hw
    obtain ⟨hrest, hother⟩ := ih (by rw [harb]; exact hw)
    refine ⟨hrest.trans harb, fun k hk => ?_⟩
    exact (hother k (List.not_mem_of_not_mem_cons hk)).trans (hsite k (List.ne_of_not_mem_cons hk))

/-- The aborts of all waiting sites come, at one site, to its own abort: from a machine that has this site, the arbiter and the
parameters as they were, and with the records it logs kept. -/
theorem forSites_abortWaiter_at (i : SiteNo) (hw : ∀ k : SiteNo, s.arb.waiting[k] = none) :
    ∃ u : State, u.site i = s.site i ∧ u.arb = s.arb ∧ u.cfg = s.cfg ∧
      (forSites (State.abortWaiter a) s).site i = (State.abortWaiter a u i).site i ∧
      (State.abortWaiter a u i).log.records ⊆ (forSites (State.abortWaiter a) s).log.records := by
  obtain ⟨before, after, hall⟩ := List.append_of_mem (mem_allSites i)
  have hnodup : (before ++ i :: after).Nodup := hall ▸ allSites_ascending.imp ne_of_lt
  have hbefore : i ∉ before := fun h => (List.disjoint_of_nodup_append hnodup) h List.mem_cons_self
  have hafter : i ∉ after := (List.nodup_cons.mp hnodup.of_append_right).1
  obtain ⟨harb, hsite⟩ := foldl_abortWaiter_other a before hw
  have hcfg := foldl_keeps State.cfg (State.abortWaiter a) (abortWaiter_cfg a) before s
  have hfold : forSites (State.abortWaiter a) s =
      after.foldl (State.abortWaiter a) (State.abortWaiter a (before.foldl (State.abortWaiter a) s) i) := by
    rw [forSites, hall, List.foldl_append, List.foldl_cons]
  refine ⟨before.foldl (State.abortWaiter a) s, hsite i hbefore, harb, hcfg, ?_, ?_⟩
  · rw [hfold]
    refine (foldl_abortWaiter_other a after ?_).2 i hafter
    rw [(abortWaiter_other a i (by rw [harb]; exact hw)).1, harb]
    exact hw
  · obtain ⟨new, hrecords, -⟩ := State.EndsLogged.foldl (abortWaiter_endsLogged a) after
      (State.abortWaiter a (before.foldl (State.abortWaiter a) s) i)
    rw [hfold, hrecords]
    exact List.subset_append_left _ _

end Waiters

/-- Settles O42: the aborts meet an empty waiting set, so each touches its own site alone; the job of a waiting request has no
exchange in progress, and its abort goes by its row. -/
theorem pumpHoldExpiryAbortsWaiters : Obligations.PumpHoldExpiryAbortsWaiters := by
  unfold Obligations.PumpHoldExpiryAbortsWaiters
  intro s n hn hinv
  generalize hs1 : s.setArb { s.arb with
    holdTimer := none, timeoutInForce := true, waiting := Vector.replicate 16 none } = s1
  have hexec : exec .pumpHoldExpiry s = .next (forSites (State.abortWaiter s.arb) s1).finishLift := by
    simp only [exec, execPumpHoldExpiry, hn, hs1]
  have hnone : ∀ k : SiteNo, s1.arb.waiting[k] = none := fun k => by rw [← hs1]; simp
  refine ⟨_, hexec, ?_, fun i => ?_⟩
  · rw [finishLift_arb, forSites, (foldl_abortWaiter_other s.arb allSites hnone).1, ← hs1]
    rfl
  obtain ⟨u, husite, huarb, hucfg, hsite, hrecords⟩ := forSites_abortWaiter_at s.arb i hnone
  obtain ⟨hjob, hport, -⟩ := finishLift_keeps (forSites (State.abortWaiter s.arb) s1) i
  have hus : u.site i = s.site i := by rw [husite, ← hs1]; rfl
  have huw : u.arb.waiting[i] = none := by rw [huarb]; exact hnone i
  rw [hjob, hport, hsite, finishLift_log]
  refine ⟨fun hw => ?_, fun d j hw hj hp => ?_⟩
  · rw [show State.abortWaiter s.arb u i = u from if_neg (by simp [hw]), hus]
    exact ⟨rfl, rfl⟩
  have habort : State.abortWaiter s.arb u i = u.abort i .pumpTimeout := if_pos (by simp [hw])
  have huj : (u.site i).job = some j := by rw [hus, hj]
  have hux : (u.site i).port.exch = none := by rw [hus]; exact (((hinv.sites i).job j hj).waiting d hw).1
  rw [habort] at hrecords ⊢
  refine ⟨fun ho => ?_, fun ho => ?_⟩
  · have hcfg : u.cfg = s.cfg := by rw [hucfg, ← hs1]; rfl
    rw [abort_rowOpen .pumpTimeout huj hp hux ho, withdraw_none u i huw, siteWith_site, hus, hcfg]
    exact ⟨rfl, rfl⟩
  · rw [abort_rowClosed .pumpTimeout huj hp hux ho huw] at hrecords ⊢
    generalize hv : u.setJob i (some (j.aborting .pumpTimeout)) = v
    obtain ⟨hgone, hlog, -⟩ := endJob_all v i (j.aborting .pumpTimeout) .pumpTimeout (by rw [← hv, site_setJob])
    have hends : u.doMove i (j.aborting .pumpTimeout, .finish PendingEnd.pumpTimeout.outcome) = v.endJob i .pumpTimeout := by
      rw [← hv]; rfl
    rw [hends, hlog] at hrecords
    rw [hends, hgone]
    exact ⟨rfl, v.lastRecord i (j.aborting .pumpTimeout) .pumpTimeout,
      hrecords (List.mem_append_right _ (List.mem_singleton_self _)), rfl, rfl, rfl⟩

end Sys2Proof.Machine
end

section
/-!
SUPPORT. What a command does to a lift (R126, R130, R131): each job end of a lift is counted, no job begins in one, and liftoff
completion is the last act of every command that can end a job. Here the operations that end jobs, and the completion.
-/
namespace Sys2Proof.Machine
open State (SameJobs EndsLogged)

/-! ### Job ends counted (R130) -/

/-- From one state to a later one no lift began or was completed, and in a lift each record appended has been counted. -/
structure State.EndsCounted (s t : State) : Prop where
  number : t.td.number = s.td.number
  deferred : t.td.deferred = s.td.deferred
  lifting : t.td.state.lifting = s.td.state.lifting
  count : s.td.state.lifting = true →
    t.td.liftCount + s.log.records.length = s.td.liftCount + t.log.records.length

namespace State.EndsCounted

variable {s t u : State}

theorem quiet (htd : t.td = s.td) (hr : t.log.records = s.log.records) : s.EndsCounted t :=
  ⟨by rw [htd], by rw [htd], by rw [htd], fun _ => by rw [htd, hr]⟩

theorem refl (s : State) : s.EndsCounted s := quiet rfl rfl

theorem trans (h : s.EndsCounted t) (g : t.EndsCounted u) : s.EndsCounted u where
  number := g.number.trans h.number
  deferred := g.deferred.trans h.deferred
  lifting := g.lifting.trans h.lifting
  count hl := by
    have hfirst := h.count hl
    have hthen := g.count (h.lifting.trans hl)
    omega

/-- What an operation counts it counts also from a state that differs in neither lift nor records. -/
theorem after (h : t.EndsCounted u) (htd : t.td = s.td) (hr : t.log.records = s.log.records) : s.EndsCounted u :=
  (quiet htd hr).trans h

/-- What an operation counts stays counted where neither lift nor records change. -/
theorem before (h : s.EndsCounted t) (htd : u.td = t.td) (hr : u.log.records = t.log.records) : s.EndsCounted u :=
  h.trans (quiet htd hr)

theorem foldl {α : Type} {f : State → α → State} (h : ∀ (s : State) (a : α), s.EndsCounted (f s a)) (l : List α)
    (s : State) : s.EndsCounted (l.foldl f s) := foldl_inv (fun t => s.EndsCounted t) f (fun t a ht => ht.trans (h t a)) l s (.refl s)

theorem setKs (s : State) (k : KeyStore) : s.EndsCounted (s.setKs k) := quiet rfl rfl

theorem evalPoolLow (s : State) : s.EndsCounted s.evalPoolLow := quiet (by simp) (by simp)

theorem endJob (s : State) (i : SiteNo) (o : JobOutcome) : s.EndsCounted (s.endJob i o) := by
  refine ⟨endJob_td_number s i o, endJob_td_deferred s i o, by rw [endJob_td_state], fun hl => ?_⟩
  cases hj : (s.site i).job with
  | none => unfold State.endJob; rw [hj]
  | some j =>
    obtain ⟨-, hlog, -⟩ := endJob_all s i j o hj
    rw [endJob_td s i j o hj, hlog, Touchdown.countEnd, if_pos hl]
    simp only [IssueLog.append, List.length_append, List.length_singleton]
    omega

theorem doMove (s : State) (i : SiteNo) (m : Move) : s.EndsCounted (s.doMove i m) := by
  unfold State.doMove
  cases m.2 with
  | finish o => exact (endJob (s.setJob i (some m.1)) i o).after rfl rfl
  | send | wait | request | bind => exact quiet rfl rfl

theorem abort (s : State) (i : SiteNo) (p : PendingEnd) : s.EndsCounted (s.abort i p) := by
  unfold State.abort
  split
  · exact .refl s
  · split
    · exact .refl s
    · exact (doMove ((s.withdraw i).setExch i _) i _).after (by simp) (by simp)

theorem request (s : State) (i : SiteNo) (d : Nat) : s.EndsCounted (s.request i d) := by
  unfold State.request
  split
  · exact abort s i _
  · exact quiet (by simp) (by simp)

theorem giveKey (s : State) (i : SiteNo) (key : Key) : s.EndsCounted (s.giveKey i key) := by
  unfold State.giveKey
  split
  · exact .refl s
  · exact doMove _ _ _

theorem bindRequest (s : State) (i : SiteNo) : s.EndsCounted (s.bindRequest i) := by
  unfold State.bindRequest
  split
  · exact ((setKs s _).trans (giveKey _ _ _)).trans (evalPoolLow _)
  · exact quiet (by simp) (by simp)

theorem perform (s : State) (i : SiteNo) (m : Move) : s.EndsCounted (s.perform i m) := by
  unfold State.perform
  split
  · exact (request (s.setJob i (some m.1)) i _).after rfl rfl
  · exact (bindRequest (s.setJob i (some m.1)) i).after rfl rfl
  · exact doMove s i m

theorem driveCut (s : State) (i : SiteNo) (o : JobOutcome) : s.EndsCounted (s.driveCut i o) := by
  unfold State.driveCut
  split
  · exact .refl s
  · exact (endJob ((((s.setPort i _).deselect i).withdraw i).release i) i _).after (by simp) (by simp)

theorem exchangeEnded (s : State) (i : SiteNo) (c : DieCmd) (e : Ending) : s.EndsCounted (s.exchangeEnded i c e) := by
  have hfree : s.EndsCounted (if c.isPulse then (s.setExch i none).release i else s.setExch i none) := by
    split <;> exact quiet (by simp) (by simp)
  unfold State.exchangeEnded
  dsimp only
  split
  · exact hfree.trans (perform _ _ _)
  · exact hfree

theorem attemptEnded (s : State) (i : SiteNo) (x : Exchange) (e : Ending) : s.EndsCounted (s.attemptEnded i x e) := by
  unfold State.attemptEnded
  dsimp only
  split
  · exact quiet rfl rfl
  · exact (exchangeEnded (s.deselect i) i _ _).after rfl rfl

theorem handOut (l : List SiteNo) (s : State) : s.EndsCounted (State.handOut l s) := by
  induction l generalizing s with
  | nil => exact .refl s
  | cons i l ih =>
    cases hfree : s.ks.free with
    | nil => rw [handOut_noKey _ hfree]; exact .refl s
    | cons key rest =>
      rw [handOut_cons i l hfree]
      exact ((setKs s _).trans (giveKey _ _ _)).trans (ih _)

end State.EndsCounted

/-! ### Liftoff completion (R131) -/

/-- While a job is active, or outside LIFTING, no lift completes. -/
theorem finishLift_waits {s : State} (h : s.td.state.lifting = true → s.anyActive = true) : s.finishLift = s := by
  unfold State.finishLift
  rw [if_neg]
  intro hdone
  obtain ⟨hlift, hidle⟩ := Bool.and_eq_true_iff.mp hdone
  rw [h hlift] at hidle
  cases hidle

/-- A lift whose last job has ended is completed. -/
theorem finishLift_completes {s : State} (hl : s.td.state.lifting = true) (ha : s.anyActive = false) :
    s.finishLift = s.completeLift := by
  unfold State.finishLift
  rw [hl, ha]
  rfl

theorem active_finishLift (s : State) (i : SiteNo) : s.finishLift.active i = s.active i := by
  simp only [State.active, (finishLift_keeps s i).1]

theorem anyActive_finishLift (s : State) : s.finishLift.anyActive = s.anyActive := by
  simp only [State.anyActive, funext (active_finishLift s)]

/-- Liftoff completion places the deferred reply that is owed, and nothing else (R131). -/
theorem completeLift_link {s : State} {tag : BitVec 6} (h : s.td.deferred = some tag) :
    s.completeLift.link = { s.link with outq := s.link.outq ++ [deferredReply tag s.td] } := by
  have hsites := foldl_keeps (fun u : State => u.link) State.liftSite (fun u i => liftSite_link u i) allSites
    (s.setTd { s.td with state := .clear, deferred := none, liftCount := 0 })
  have hlink : (forSites State.liftSite (s.setTd { s.td with state := .clear, deferred := none, liftCount := 0 })).link
    = s.link := hsites
  unfold State.completeLift
  simp only [h, push_link, hlink]

/-- With a deferred reply owed exactly in a lift, liftoff completion leaves a lift only while some job is active. -/
theorem liftInv_finishLift {s : State} (h : s.td.deferred.isSome = s.td.state.lifting) : s.finishLift.LiftInv := by
  by_cases hdone : s.td.state.lifting = true ∧ s.anyActive = false
  · rw [finishLift_completes hdone.1 hdone.2]
    exact ⟨fun hl => (by rw [completeLift_td] at hl; cases hl), by rw [completeLift_td]; rfl⟩
  · have hactive : s.td.state.lifting = true → s.anyActive = true := fun hl => by
      simpa using fun ha => hdone ⟨hl, ha⟩
    rw [finishLift_waits hactive]
    exact ⟨hactive, h⟩

/-! ### What a command does to a lift -/

/-- Touchdown Control stands, and in a lift no job has begun or ended. -/
structure State.LiftStays (s t : State) : Prop where
  td : t.td = s.td
  active : s.td.state.lifting = true → ∀ i, t.active i = s.active i

/-- What a command does to a lift: nothing, no job beginning or ending in one; or jobs end, and the lift is completed when the
last has; or it opens a touchdown; or it begins a lift. -/
inductive State.LiftStep (s t : State) : Prop
  | stays (h : s.LiftStays t)
  | ends (u : State) (logged : s.EndsLogged u) (counted : s.EndsCounted u) (done : t = u.finishLift)
  | opens (clear : s.td.state = .clear) (opened : t.td.state = .opened) (deferred : t.td.deferred = s.td.deferred)
  | begins (u : State) (opened : s.td.state = .opened) (lifting : u.td.state.lifting = true)
      (owed : u.td.deferred.isSome = true) (done : t = u.finishLift)

theorem State.SameJobs.active {s t : State} (h : s.SameJobs t) (i : SiteNo) : t.active i = s.active i := by
  rw [active_eq_identAt, active_eq_identAt, h.ident]

theorem State.SameJobs.liftStays {s t : State} (h : s.SameJobs t) (htd : t.td = s.td) : s.LiftStays t :=
  ⟨htd, fun _ => h.active⟩

theorem State.SameJobs.liftStep {s t : State} (h : s.SameJobs t) (htd : t.td = s.td) : s.LiftStep t :=
  .stays (h.liftStays htd)

theorem State.LiftStays.trans {s t u : State} (h : s.LiftStays t) (g : t.LiftStays u) : s.LiftStays u :=
  ⟨g.td.trans h.td, fun hl i => (g.active (by rw [h.td]; exact hl) i).trans (h.active hl i)⟩

/-- What a command does to a lift it does also from a state that differs in neither jobs nor lift. -/
theorem State.LiftStep.after {s t u : State} (h : t.LiftStep u) (hj : s.SameJobs t) (htd : t.td = s.td) : s.LiftStep u := by
  cases h with
  | stays g => exact .stays ((hj.liftStays htd).trans g)
  | ends v hlogged hcounted hdone =>
    exact .ends v (hj.endsLogged.trans hlogged) (hcounted.after htd hj.records) hdone
  | opens hc ho hd => exact .opens (by rw [← htd]; exact hc) ho (by rw [hd, htd])
  | begins v ho hl hd hdone => exact .begins v (by rw [← htd]; exact ho) hl hd hdone

/-- No site is admitted in a lift (R47). -/
theorem readyToAdmit_lifting {s : State} (h : s.td.state.lifting = true) (i : SiteNo) : s.readyToAdmit i = false := by
  cases hr : s.readyToAdmit i with
  | false => rfl
  | true => rw [(State.readyToAdmit_spec hr).1] at h; cases h

theorem testAdmission_lifting {s : State} (h : s.td.state.lifting = true) (i : SiteNo) : s.testAdmission i = s := by
  unfold State.testAdmission
  rw [readyToAdmit_lifting h]
  rfl

theorem liftStays_testAdmission (s : State) (i : SiteNo) : s.LiftStays (s.testAdmission i) :=
  ⟨testAdmission_td s i, fun hl _ => by rw [testAdmission_lifting hl]⟩

end Sys2Proof.Machine
end

section
/-!
SUPPORT. What a command does to a lift, over the requests and over every command (R126, R129, R130, R131).
-/
namespace Sys2Proof.Machine
open State (SameJobs EndsLogged)

/-! ### Requests -/

theorem liftStep_reply (s : State) (f : InFrame) (st : Status) (fields : List Byte) : s.LiftStep (s.reply f st fields) :=
  (sameJobs_reply s f st fields).liftStep rfl

theorem liftStep_doConfigure (s : State) (f : InFrame) : s.LiftStep (s.doConfigure f) := by
  refine (sameJobs_doConfigure s f).liftStep ?_
  have hentries := fun es => foldl_keeps State.td State.applyEntry applyEntry_td es s
  unfold State.doConfigure
  (repeat' split) <;> simp [hentries]

theorem liftStep_doSetEnables (s : State) (f : InFrame) : s.LiftStep (s.doSetEnables f) := by
  refine (sameJobs_doSetEnables s f).liftStep ?_
  have hload := foldl_keeps State.td (State.loadEnables f.payload) (fun _ _ => rfl) allSites s
  have htest := fun u => foldl_keeps State.td State.throttle throttle_td allScopes u
  unfold State.doSetEnables
  simp [htest, forSites, hload]

theorem liftStep_doReadEvents (s : State) (f : InFrame) : s.LiftStep (s.doReadEvents f) := by
  refine (sameJobs_doReadEvents s f).liftStep ?_
  unfold State.doReadEvents
  split
  · rfl
  · next sc _ => cases sc <;> rfl

theorem startSeating_td (s : State) (i : SiteNo) : (s.startSeating i).td = s.td := by
  simp only [State.startSeating]; (repeat' split) <;> rfl

theorem sampleDieSupply_td (s : State) (i : SiteNo) : (s.sampleDieSupply i).td = s.td := by
  unfold State.sampleDieSupply; split <;> simp

/-- The steps of TOUCHDOWN after the first leave Touchdown Control as that set it. -/
theorem openTouchdown_td (s : State) :
    s.openTouchdown.td = { s.td with state := .opened, number := nextNumber s.td.number } := by
  unfold State.openTouchdown forSites
  dsimp only
  rw [foldl_keeps State.td State.testAdmission testAdmission_td, foldl_keeps State.td State.sampleDieSupply sampleDieSupply_td,
    foldl_keeps State.td _ (fun u i => setCond_td u i .link false), foldl_keeps State.td State.startSeating startSeating_td]
  rfl

theorem liftStep_doTouchdown (s : State) (f : InFrame) : s.LiftStep (s.doTouchdown f) := by
  unfold State.doTouchdown
  split
  · next hclear => exact .opens hclear (by simp [openTouchdown_td]) (by simp [openTouchdown_td])
  · exact liftStep_reply s f _ _

theorem endsCounted_abortAll (s : State) : s.EndsCounted s.abortAll :=
  State.EndsCounted.foldl (f := fun s i => s.abort i .aborted) (fun s i => .abort s i _) allSites s

theorem endsCounted_mergeLift (s : State) (toAbort : Bool) : s.EndsCounted (s.mergeLift toAbort) := by
  unfold State.mergeLift
  split
  · next h =>
    have hdrain : s.td.state = .liftingDrain := by simpa using (Bool.and_eq_true_iff.mp h).2
    have hup : s.EndsCounted (s.setTd { s.td with state := .liftingAbort }) :=
      ⟨rfl, rfl, by rw [hdrain]; rfl, fun _ => rfl⟩
    exact hup.trans (endsCounted_abortAll _)
  · exact .refl s

/-- A LIFTOFF taken in OPEN begins a lift with a deferred reply owed (R126). -/
theorem beginLift_td (s : State) (tag : BitVec 6) (toAbort : Bool) :
    (s.beginLift tag toAbort).td.state.lifting = true ∧ (s.beginLift tag toAbort).td.deferred = some tag := by
  unfold State.beginLift
  cases toAbort with
  | false => exact ⟨rfl, rfl⟩
  | true =>
    generalize hw : (s.setTd { s.td with state := .liftingAbort, deferred := some tag, liftCount := 0 }).setLog
      { s.log with slotWaiters := Vector.replicate 16 false } = w
    have hcounted := endsCounted_abortAll w
    have hbegun : w.td.state.lifting = true ∧ w.td.deferred = some tag := by rw [← hw]; exact ⟨rfl, rfl⟩
    simp only [if_true, hw]
    exact ⟨hcounted.lifting.trans hbegun.1, hcounted.deferred.trans hbegun.2⟩

theorem liftStep_doLiftoff (s : State) (f : InFrame) : s.LiftStep (s.doLiftoff f) := by
  unfold State.doLiftoff
  split
  · exact liftStep_reply s f _ _
  · next toAbort _ =>
    split
    case h_1 => exact liftStep_reply s f _ _
    case h_2 hopen =>
      obtain ⟨hl, hd⟩ := beginLift_td s f.tag toAbort
      exact .begins _ hopen hl (by rw [hd]; rfl) rfl
    all_goals
      exact .ends ((s.mergeLift toAbort).reply f _ _)
        ((endsLogged_mergeLift s toAbort).trans (sameJobs_reply _ f _ _).endsLogged)
        ((endsCounted_mergeLift s toAbort).before rfl rfl) rfl

theorem liftStep_doLoadKeys (s : State) (f : InFrame) : s.LiftStep (s.doLoadKeys f) := by
  simp only [State.doLoadKeys]
  split
  · exact liftStep_reply s f _ _
  · split
    · exact liftStep_reply s f _ _
    · generalize keysOf _ _ = keys
      have hlogged : s.EndsLogged (s.acceptKeys keys) :=
        ((sameJobs_setKs s _).endsLogged.trans (.handOut _ _)).trans (sameJobs_evalPoolLow _).endsLogged
      have hcounted : s.EndsCounted (s.acceptKeys keys) :=
        ((State.EndsCounted.setKs s _).trans (.handOut _ _)).trans (.evalPoolLow _)
      exact .ends ((s.acceptKeys keys).reply f _ _) (hlogged.trans (sameJobs_reply _ f _ _).endsLogged)
        (hcounted.before rfl rfl) rfl

theorem liftStep_doDiscardKeys (s : State) (f : InFrame) : s.LiftStep (s.doDiscardKeys f) :=
  (sameJobs_doDiscardKeys s f).liftStep (by simp [State.doDiscardKeys])

theorem liftStays_postJob (s : State) (i : SiteNo) (p : Posting) : s.LiftStays (s.postJob i p) := by
  have hqueue : s.LiftStays (s.setSite i { s.site i with queue := (s.site i).queue ++ [p] }) :=
    State.SameJobs.liftStays (.setSite s i { s.site i with queue := (s.site i).queue ++ [p] } rfl) rfl
  simp only [State.postJob]
  split
  · exact hqueue.trans (liftStays_testAdmission _ i)
  · exact hqueue

theorem liftStep_doProvision (s : State) (f : InFrame) : s.LiftStep (s.doProvision f) := by
  simp only [State.doProvision]
  split
  · exact liftStep_reply s f _ _
  · next i _ =>
    split
    · exact liftStep_reply s f _ _
    · split
      · exact liftStep_reply s f _ _
      · exact .stays ((liftStays_postJob s i _).trans ((sameJobs_reply _ f _ _).liftStays rfl))

/-- A freed slot is handed out in OPEN alone (R138). -/
theorem handSlot_td (s : State) (i : SiteNo) : (s.handSlot i).td = s.td := by
  unfold State.handSlot; split <;> simp

theorem liftStep_doClearRecords (s : State) (f : InFrame) : s.LiftStep (s.doClearRecords f) := by
  have hslots := fun u => foldl_keeps State.td State.handSlot handSlot_td allSites u
  refine .stays ⟨?_, fun hl i => ?_⟩
  · simp only [State.doClearRecords, reply_td, evalLogHigh_td]
    split
    · exact hslots _
    · rfl
  · have hopen : ¬ s.td.state = .opened := fun h => by rw [h] at hl; cases hl
    simp only [State.doClearRecords, State.active, site_reply, site_evalLogHigh]
    split
    · next h => exact absurd h hopen
    · rfl

theorem liftStep_doCancel (s : State) (f : InFrame) : s.LiftStep (s.doCancel f) := by
  unfold State.doCancel
  split
  · next i queued takeActive _ _ =>
    have hdrop : s.SameJobs (if queued then s.dropQueue i else s) := by
      split
      · exact sameJobs_dropQueue s i
      · exact .refl s
    have htd : (if queued then s.dropQueue i else s).td = s.td := by split <;> rfl
    unfold State.cancelSite
    dsimp only
    refine .after ?_ hdrop htd
    generalize (if queued then s.dropQueue i else s) = u
    cases takeActive with
    | true =>
      exact .ends ((u.abort i .aborted).reply f _ _) ((EndsLogged.abort u i _).trans (sameJobs_reply _ f _ _).endsLogged)
        ((State.EndsCounted.abort u i _).before rfl rfl) rfl
    | false => exact .ends (u.reply f _ _) (sameJobs_reply u f _ _).endsLogged (.quiet rfl rfl) rfl
  · exact liftStep_reply s f _ _

/-! ### Every command -/

/-- A step's answer in which a lift is served. -/
def ServesLift (s : State) (r : StepResult) : Prop := ∀ t, r = .next t → s.LiftStep t

theorem servesLift_next {s t : State} (h : s.LiftStep t) : ServesLift s (.next t) := by rintro _ ⟨⟩; exact h

theorem servesLift_same {s t : State} (h : s.SameJobs t) (htd : t.td = s.td) : ServesLift s (.next t) :=
  servesLift_next (h.liftStep htd)

theorem servesLift_fault (s : State) (f : Fault) : ServesLift s (.fault f) := by rintro _ ⟨⟩

theorem takeFrame_servesLift (s : State) (is : InFrame → Bool) (act : State → InFrame → State)
    (h : ∀ (s : State) (f : InFrame), s.LiftStep (act s f)) : ServesLift s (s.takeFrame is act) := by
  unfold State.takeFrame
  split
  · exact servesLift_fault s _
  · split
    · exact servesLift_fault s _
    · split
      · exact servesLift_next ((h s.dropFront _).after (.of_sites (fun _ => rfl) rfl) rfl)
      · exact servesLift_fault s _

theorem takeRequest_servesLift (s : State) (kind : Byte) (ok : List Byte → Bool) (act : State → InFrame → State)
    (h : ∀ (s : State) (f : InFrame), s.LiftStep (act s f)) : ServesLift s (s.takeRequest kind ok act) := by
  apply takeFrame_servesLift
  intro s f
  split
  · exact h s f
  · exact liftStep_reply s f _ _

theorem execControlLinkByteReceived_servesLift (b : Byte) (stopHigh : Bool) (s : State) :
    ServesLift s (execControlLinkByteReceived b stopHigh s) := by
  unfold execControlLinkByteReceived
  (repeat' split) <;> exact servesLift_same (.of_sites (site_of_sites (by simp)) (by simp)) (by simp)

theorem execGapTimerExpiry_servesLift (s : State) : ServesLift s (execGapTimerExpiry s) := by
  unfold execGapTimerExpiry
  split
  · exact servesLift_same (.of_sites (fun _ => rfl) rfl) rfl
  · exact servesLift_fault s _

theorem execFrameLastByteSent_servesLift (s : State) (h : s.resetsAt .frameLastByteSent = false) :
    ServesLift s (execFrameLastByteSent s) := by
  unfold execFrameLastByteSent
  split
  · exact servesLift_fault s _
  · next f rest hq =>
    have hsource : ¬ f.source = .resetReply := by simpa [State.resetsAt, hq] using h
    rw [if_neg hsource]
    exact servesLift_same (.of_sites (fun _ => rfl) rfl) rfl

theorem execResetReleased_servesLift (s : State) : ServesLift s (execResetReleased s) := by
  unfold execResetReleased
  split
  · exact servesLift_same (.of_sites (fun _ => rfl) rfl) rfl
  · exact servesLift_fault s _

/-! #### Site inputs and seat timers -/

theorem execContactSensed_servesLift (i : SiteNo) (s : State) : ServesLift s (execContactSensed i s) := by
  simp only [execContactSensed]
  split
  · exact servesLift_same ((sameJobs_setContactPin s i _).trans (.setSite _ i _ rfl)) rfl
  all_goals exact servesLift_same (sameJobs_setContactPin s i _) rfl

/-- A condition declared and the drive cut that follows, with the lift that this may complete. -/
theorem liftStep_lossOf (s : State) (i : SiteNo) (c : SiteCond) (o : JobOutcome) :
    s.LiftStep (((s.changeCond i c true).setSlotWaiter i false).driveCut i o).finishLift := by
  have hdeclared : s.SameJobs ((s.changeCond i c true).setSlotWaiter i false) :=
    (sameJobs_changeCond s i c true).trans (.of_sites (fun _ => rfl) rfl)
  exact .ends _ (hdeclared.endsLogged.trans (.driveCut _ i o))
    ((State.EndsCounted.driveCut _ i o).after (by simp) (by simp)) rfl

theorem execContactDropped_servesLift (i : SiteNo) (s : State) : ServesLift s (execContactDropped i s) := by
  have hpin := sameJobs_setContactPin s i false
  simp only [execContactDropped]
  split
  case h_1 => exact servesLift_same (hpin.trans (.setSite _ i _ rfl)) rfl
  case h_2 => exact servesLift_next ((liftStep_lossOf _ i _ _).after (hpin.trans (.setSite _ i _ rfl)) rfl)
  all_goals exact servesLift_same hpin rfl

theorem liftStep_seat (s : State) (i : SiteNo) : s.LiftStep (s.seat i) := by
  have hseated : s.SameJobs (s.setSite i { s.site i with posture := .seated, debounce := none, seatTimeout := none }) :=
    .setSite s i _ rfl
  unfold State.seat
  dsimp only
  split
  · exact .stays (((hseated.trans (sameJobs_changeCond _ _ _ _)).liftStays (by simp)).trans (liftStays_testAdmission _ i))
  · exact .stays ((hseated.liftStays rfl).trans (liftStays_testAdmission _ i))

theorem execDebounceExpiry_servesLift (i : SiteNo) (s : State) : ServesLift s (execDebounceExpiry i s) := by
  unfold execDebounceExpiry
  split
  · exact servesLift_fault s _
  · split
    · exact servesLift_next (liftStep_seat s i)
    · exact servesLift_same (.setSite s i _ rfl) rfl

theorem execSeatTimeoutExpiry_servesLift (i : SiteNo) (s : State) : ServesLift s (execSeatTimeoutExpiry i s) := by
  have hstop : s.SameJobs (s.setSite i { s.site i with seatTimeout := none }) := .setSite s i _ rfl
  simp only [execSeatTimeoutExpiry]
  split
  · exact servesLift_fault s _
  · split
    case h_1 | h_2 => exact servesLift_same (hstop.trans (sameJobs_changeCond _ _ _ _)) (by simp)
    all_goals exact servesLift_same hstop rfl

theorem execDieSupplyAsserted_servesLift (i : SiteNo) (s : State) : ServesLift s (execDieSupplyAsserted i s) := by
  have hpin := sameJobs_setOverLimitPin s i true
  simp only [execDieSupplyAsserted]
  split
  · exact servesLift_next ((liftStep_lossOf _ i _ _).after hpin rfl)
  · exact servesLift_same hpin rfl

theorem execDieSupplyDeasserted_servesLift (i : SiteNo) (s : State) : ServesLift s (execDieSupplyDeasserted i s) := by
  have hpin := sameJobs_setOverLimitPin s i false
  simp only [execDieSupplyDeasserted]
  split
  · exact servesLift_next
      (.stays (((hpin.trans (sameJobs_changeCond _ i _ _)).liftStays (by simp)).trans (liftStays_testAdmission _ i)))
  · exact servesLift_same hpin rfl

/-! #### The programming supply -/

theorem execPumpFaultAsserted_servesLift (s : State) : ServesLift s (execPumpFaultAsserted s) := by
  have hpin : s.SameJobs (s.setPumpPin true) := .of_sites (fun _ => rfl) rfl
  simp only [execPumpFaultAsserted]
  split
  · exact servesLift_same hpin rfl
  · exact servesLift_same ((hpin.trans (sameJobs_setArb _ _)).trans (sameJobs_latchGlobal _ _)) (by simp)

theorem execPumpFaultDeasserted_servesLift (s : State) : ServesLift s (execPumpFaultDeasserted s) := by
  have hpin : s.SameJobs (s.setPumpPin false) := .of_sites (fun _ => rfl) rfl
  simp only [execPumpFaultDeasserted]
  split
  · exact servesLift_same hpin rfl
  · exact servesLift_same
      (((hpin.trans (sameJobs_setArb _ _)).trans (sameJobs_latchGlobal _ _)).trans (sameJobs_grantTest _)) (by simp)

theorem endsCounted_abortWaiter (a : Arbiter) (s : State) (i : SiteNo) : s.EndsCounted (State.abortWaiter a s i) := by
  unfold State.abortWaiter
  split
  · exact .abort s i _
  · exact .refl s

theorem execPumpHoldExpiry_servesLift (s : State) : ServesLift s (execPumpHoldExpiry s) := by
  unfold execPumpHoldExpiry
  split
  · exact servesLift_fault s _
  · exact servesLift_next (.ends _
      ((sameJobs_setArb s _).endsLogged.trans (EndsLogged.foldl (abortWaiter_endsLogged s.arb) allSites _))
      ((State.EndsCounted.foldl (endsCounted_abortWaiter s.arb) allSites _).after (by rfl) (by rfl)) rfl)

/-! #### Die ports and the Row Engines' timers -/

theorem liftStep_attemptEnded (s : State) (i : SiteNo) (left : Nat) (x : Exchange) (e : Ending) :
    s.LiftStep ((s.noteOpenLeft i left).attemptEnded i x e).finishLift :=
  .ends _ ((sameJobs_noteOpenLeft s i left).endsLogged.trans (.attemptEnded _ i x e))
    ((State.EndsCounted.attemptEnded _ i x e).after (by simp) (by simp)) rfl

theorem execDieResponseComplete_servesLift (i : SiteNo) (ddi : Wire) (openLeft : Nat) (s : State) :
    ServesLift s (execDieResponseComplete i ddi openLeft s) := by
  simp only [execDieResponseComplete]
  split
  · exact servesLift_same (.refl s) rfl
  · split
    · exact servesLift_same (.refl s) rfl
    · split
      · exact servesLift_same (.setPort s i _) rfl
      · exact servesLift_next (liftStep_attemptEnded s i openLeft _ _)

theorem execDieResponseDeadlineExpiry_servesLift (i : SiteNo) (openLeft : Nat) (s : State) :
    ServesLift s (execDieResponseDeadlineExpiry i openLeft s) := by
  unfold execDieResponseDeadlineExpiry
  split
  · exact servesLift_fault s _
  · split
    · exact servesLift_fault s _
    · exact servesLift_next (liftStep_attemptEnded s i openLeft _ _)

theorem execSettleTimerExpiry_servesLift (i : SiteNo) (s : State) : ServesLift s (execSettleTimerExpiry i s) := by
  unfold execSettleTimerExpiry
  split
  · exact servesLift_fault s _
  · next j hj =>
    split
    · exact servesLift_fault s _
    · exact servesLift_next (.ends _ (.perform hj _ (ident_onSettle _ j)) (.perform s i _) rfl)

/-- A move that waits or sends a command ends no job. -/
theorem active_perform_goesOn {s : State} {i : SiteNo} {m : Move} (h : s.active i = true)
    (hm : m.2 = .wait ∨ ∃ c retry, m.2 = .send c retry) (k : SiteNo) : (s.perform i m).active k = s.active k := by
  obtain ⟨j, act⟩ := m
  rcases hm with rfl | ⟨c, retry, rfl⟩
  · rw [perform_wait]; exact active_siteWith _ _ h k
  · rw [perform_send]; exact active_siteWith _ _ h k

/-- Neither the open timer's nor the rest timer's expiry ends a job: the job waits or sends a command. -/
theorem onOpenExpiry_goesOn {j : Job} {m : Move} (h : j.onOpenExpiry = some m) :
    m.2 = .wait ∨ ∃ c retry, m.2 = .send c retry := by
  unfold Job.onOpenExpiry at h
  split at h <;> cases h
  · exact .inr ⟨_, _, rfl⟩
  · exact .inl rfl
  · exact .inl rfl

theorem onRest_goesOn (j : Job) : j.onRest.2 = .wait ∨ ∃ c retry, j.onRest.2 = .send c retry := by
  unfold Job.onRest
  split
  · exact .inr ⟨_, _, rfl⟩
  · exact .inl rfl

/-- Such a move does nothing to a lift. -/
theorem liftStep_goesOn {s : State} {i : SiteNo} {m : Move} (h : s.active i = true)
    (hm : m.2 = .wait ∨ ∃ c retry, m.2 = .send c retry) : s.LiftStep (s.perform i m) := by
  refine .stays ⟨?_, fun _ => active_perform_goesOn h hm⟩
  obtain ⟨j, act⟩ := m
  rcases hm with rfl | ⟨c, retry, rfl⟩
  · rw [perform_wait]; rfl
  · rw [perform_send]; rfl

theorem execOpenTimerExpiry_servesLift (i : SiteNo) (s : State) : ServesLift s (execOpenTimerExpiry i s) := by
  unfold execOpenTimerExpiry
  split
  · exact servesLift_fault s _
  · next j hj =>
    split
    · exact servesLift_fault s _
    · split
      · next m hm =>
        have hactive : (s.withdraw i).active i = true := by rw [State.active, (withdraw_self s i).1, hj]; rfl
        exact servesLift_next
          ((liftStep_goesOn hactive (onOpenExpiry_goesOn hm)).after (sameJobs_withdraw s i) (withdraw_td s i))
      · exact servesLift_fault s _

theorem execRestTimerExpiry_servesLift (i : SiteNo) (s : State) : ServesLift s (execRestTimerExpiry i s) := by
  unfold execRestTimerExpiry
  split
  · exact servesLift_fault s _
  · next j hj =>
    split
    · exact servesLift_fault s _
    · exact servesLift_next (liftStep_goesOn (by rw [State.active, hj]; rfl) (onRest_goesOn j))

theorem dieCommand_servesLift (s : State) (i : SiteNo) (code : Byte) (act : Die → DieFrame → Die × DieAnswer) :
    ServesLift s (s.dieCommand i code act) := by
  unfold State.dieCommand
  split
  · exact servesLift_same (.of_sites (fun _ => rfl) rfl) rfl
  · exact servesLift_fault s _

theorem execCommandFrameSent_servesLift (i : SiteNo) (ddo : Wire) (s : State) :
    ServesLift s (execCommandFrameSent i ddo s) := by
  simp only [execCommandFrameSent]
  split
  · exact servesLift_fault s _
  · split
    · exact servesLift_fault s _
    · exact servesLift_same ((SameJobs.setPort s i _).trans (.of_sites (fun _ => rfl) rfl)) rfl

/-- Outside a unit reset each command serves a lift. -/
theorem exec_servesLift (c : Instr) (s : State) (hreset : s.resetsAt c = false) : ServesLift s (exec c s) := by
  cases c with
  | controlLinkByteReceived b stopHigh => exact execControlLinkByteReceived_servesLift b stopHigh s
  | gapTimerExpiry => exact execGapTimerExpiry_servesLift s
  | frameLastByteSent => exact execFrameLastByteSent_servesLift s hreset
  | heldStatusReply =>
    refine takeFrame_servesLift s _ _ fun s f => ?_
    unfold State.doHeldStatus
    split
    · exact liftStep_reply s f _ _
    · exact (SameJobs.refl s).liftStep rfl
  | badRequest => exact takeFrame_servesLift s _ _ fun s f => liftStep_reply s f _ _
  | identify => exact takeRequest_servesLift s _ _ _ fun s f => liftStep_reply s f _ _
  | status => exact takeRequest_servesLift s _ _ _ fun s f => liftStep_reply s f _ _
  | configure => exact takeRequest_servesLift s _ _ _ liftStep_doConfigure
  | setEnables => exact takeRequest_servesLift s _ _ _ liftStep_doSetEnables
  | touchdown => exact takeRequest_servesLift s _ _ _ liftStep_doTouchdown
  | liftoff => exact takeRequest_servesLift s _ _ _ liftStep_doLiftoff
  | resetUnit =>
    exact takeRequest_servesLift s _ _ _ fun s f => State.SameJobs.liftStep (.of_sites (s := s) (fun _ => rfl) rfl) rfl
  | loadKeys => exact takeRequest_servesLift s _ _ _ liftStep_doLoadKeys
  | discardKeys => exact takeRequest_servesLift s _ _ _ liftStep_doDiscardKeys
  | provision => exact takeRequest_servesLift s _ _ _ liftStep_doProvision
  | cancel => exact takeRequest_servesLift s _ _ _ liftStep_doCancel
  | readRecords => exact takeRequest_servesLift s _ _ _ fun s f => liftStep_reply s f _ _
  | clearRecords => exact takeRequest_servesLift s _ _ _ liftStep_doClearRecords
  | readEvents => exact takeRequest_servesLift s _ _ _ liftStep_doReadEvents
  | powerOn | resetLineAsserted => cases hreset
  | resetReleased => exact execResetReleased_servesLift s
  | contactSensed i => exact execContactSensed_servesLift i s
  | contactDropped i => exact execContactDropped_servesLift i s
  | debounceExpiry i => exact execDebounceExpiry_servesLift i s
  | seatTimeoutExpiry i => exact execSeatTimeoutExpiry_servesLift i s
  | dieSupplyAsserted i => exact execDieSupplyAsserted_servesLift i s
  | dieSupplyDeasserted i => exact execDieSupplyDeasserted_servesLift i s
  | pumpFaultAsserted => exact execPumpFaultAsserted_servesLift s
  | pumpFaultDeasserted => exact execPumpFaultDeasserted_servesLift s
  | pumpHoldExpiry => exact execPumpHoldExpiry_servesLift s
  | dieResponseComplete i ddi openLeft => exact execDieResponseComplete_servesLift i ddi openLeft s
  | dieResponseDeadlineExpiry i openLeft => exact execDieResponseDeadlineExpiry_servesLift i openLeft s
  | settleTimerExpiry i => exact execSettleTimerExpiry_servesLift i s
  | openTimerExpiry i => exact execOpenTimerExpiry_servesLift i s
  | restTimerExpiry i => exact execRestTimerExpiry_servesLift i s
  | diePowerOn i cells => exact servesLift_same (.of_sites (fun _ => rfl) rfl) rfl
  | reset i | closeAll i | enterProvisioning i | sense i | openRow i | pulse i a b | closeRow i | reload i | readShadow i =>
    exact dieCommand_servesLift s i _ _
  | commandFrameSent i ddo => exact execCommandFrameSent_servesLift i ddo s

/-! ### The statements -/

/-- While the jobs that end are logged, none begins. -/
theorem State.EndsLogged.stillActive {s t : State} (h : s.EndsLogged t) {i : SiteNo} (hi : t.active i = true) :
    s.active i = true := by
  obtain ⟨-, -, -, -, hkept⟩ := h
  rw [active_eq_identAt] at hi ⊢
  rcases hkept i with hsame | hgone
  · rwa [hsame] at hi
  · rw [hgone] at hi; cases hi

/-- In a lift the count rises by the jobs that end (R130). -/
theorem State.EndsCounted.liftCount {s t : State} (h : s.EndsCounted t) (g : s.EndsLogged t)
    (hl : s.td.state.lifting = true) :
    t.td.liftCount + allSites.countP t.active = s.td.liftCount + allSites.countP s.active := by
  obtain ⟨new, hrec, hcount, -, -⟩ := g
  have hcounted := h.count hl
  rw [hrec, List.length_append] at hcounted
  omega

theorem countP_active_of_idle {s : State} (h : s.anyActive = false) : allSites.countP s.active = 0 :=
  List.countP_eq_zero.mpr fun i _ hi => by simp [State.active, noJob_of_not_anyActive h i] at hi

theorem State.LiftStep.liftInv {s t : State} (h : s.LiftStep t) (hs : s.LiftInv) : t.LiftInv := by
  cases h with
  | stays g =>
    obtain ⟨htd, hact⟩ := g
    refine ⟨fun hl => ?_, by rw [htd]; exact hs.deferred⟩
    rw [htd] at hl
    rw [State.anyActive, funext (hact hl)]
    exact hs.active hl
  | ends u hlogged hcounted hdone =>
    rw [hdone]
    exact liftInv_finishLift (by rw [hcounted.deferred, hcounted.lifting]; exact hs.deferred)
  | opens hclear hopened hdeferred =>
    refine ⟨fun hl => (by rw [hopened] at hl; cases hl), ?_⟩
    rw [hdeferred, hs.deferred, hclear, hopened]
    rfl
  | begins u hopened hl howed hdone =>
    rw [hdone]
    exact liftInv_finishLift (howed.trans hl.symm)

/-- After a unit reset no lift is on and no reply is owed (R123, R174). -/
theorem liftInv_afterReset {s : State} (h : s.td = Touchdown.afterReset) : s.LiftInv :=
  ⟨fun hl => (by rw [h] at hl; cases hl), by rw [h]; rfl⟩

theorem exec_resets {c : Instr} {s t : State} (hexec : exec c s = .next t) (hreset : s.resetsAt c = true) :
    t.td = Touchdown.afterReset := by
  unfold State.resetsAt at hreset
  split at hreset
  · cases hexec; rfl
  · cases hexec; rfl
  · split at hreset
    · next f rest hq =>
      have hsent : exec .frameLastByteSent s = .next ((s.frameSent f rest).blocksReset .request false).leaveReset := by
        simp only [exec, execFrameLastByteSent, hq]
        exact if_pos (by simpa using hreset)
      rw [hsent] at hexec
      cases hexec
      rfl
    · cases hreset
  · cases hreset

/-- Settles O22: a unit reset ends every lift, and any other command serves it (`exec_servesLift`). -/
theorem stepKeepsLiftOpenOnlyWithJobs : Obligations.StepKeepsLiftOpenOnlyWithJobs := by
  unfold Obligations.StepKeepsLiftOpenOnlyWithJobs
  intro s t hs hstep
  unfold step at hstep
  split at hstep
  · cases hstep; exact hs
  · next c rest _ =>
    have hfed : State.LiftInv { s with pending := rest } := ⟨hs.active, hs.deferred⟩
    cases hreset : State.resetsAt { s with pending := rest } c with
    | true => exact liftInv_afterReset (exec_resets hstep hreset)
    | false => exact (exec_servesLift c _ hreset t hstep).liftInv hfed

/-- Settles O23: of what a command can do to a lift only its completion leads to CLEAR; with no job left, the count is that of all
the jobs that were active. -/
theorem liftCompletionSendsDeferredReply : Obligations.LiftCompletionSendsDeferredReply := by
  unfold Obligations.LiftCompletionSendsDeferredReply
  intro c s t tag hexec hreset hl howed hclear
  have hstill : s.td.state ≠ .clear := fun h => by rw [h] at hl; cases hl
  cases exec_servesLift c s hreset t hexec with
  | stays g => exact absurd (by rw [← g.td]; exact hclear) hstill
  | opens hwas _ _ => exact absurd hwas hstill
  | begins u hopened _ _ _ => rw [hopened] at hl; cases hl
  | ends u hlogged hcounted hdone =>
    have hul : u.td.state.lifting = true := hcounted.lifting.trans hl
    have hidle : u.anyActive = false := by
      cases hactive : u.anyActive with
      | false => rfl
      | true =>
        rw [hdone, finishLift_waits fun _ => hactive] at hclear
        rw [hclear] at hul
        cases hul
    have hcount : u.td.liftCount = s.td.liftCount + allSites.countP s.active := by
      have := hcounted.liftCount hlogged hl
      rwa [countP_active_of_idle hidle] at this
    rw [hdone, finishLift_completes hul hidle, completeLift_link (hcounted.deferred.trans howed), List.getLast?_concat,
      deferredReply, hcount, hcounted.number]
    rfl

end Sys2Proof.Machine
end

section
/-!
SUPPORT. The state that changes seldom: unit number, touchdown number, parameters, enables and high-water index (R2, R20, R123,
R152, R170). First the shared operations, none of which touches it, then the commands, each of which leaves alone what it does not own.
-/
namespace Sys2Proof.Machine

/-- The state that changes seldom. `enable` holds the two enables of each site scope (R152). -/
structure SlowState where
  unitNumber : BitVec 32
  number : BitVec 32
  cfg : Params
  enables : GlobalBits
  enable : SiteNo → Bool × SiteBits
  highWater : BitVec 32

def State.slow (s : State) : SlowState where
  unitNumber := s.unitNumber
  number := s.td.number
  cfg := s.cfg
  enables := s.mon.enables
  enable i := ((s.smon i).enable, (s.smon i).source)
  highWater := s.ks.highWater

/-! ### The shared operations -/

/-- What reports each change of a condition lets the enables stand. -/
theorem slow_of_reports {x : SiteCond → Prop} {s t : State} (h : s.Reports x t) (hu : t.unitNumber = s.unitNumber)
    (hn : t.td.number = s.td.number) (hc : t.cfg = s.cfg) (hk : t.ks.highWater = s.ks.highWater) : t.slow = s.slow := by
  obtain ⟨hsites, hglobal⟩ := h.enables
  simp [State.slow, hu, hn, hc, hk, hsites, hglobal]

/-- So does what leaves the monitor alone. -/
theorem slow_of_mon {s t : State} (hm : t.mon = s.mon) (hu : t.unitNumber = s.unitNumber)
    (hn : t.td.number = s.td.number) (hc : t.cfg = s.cfg) (hk : t.ks.highWater = s.ks.highWater) : t.slow = s.slow := by
  simp [State.slow, State.smon, hm, hu, hn, hc, hk]

/-- A site's monitor entry replaced by one with the same enables. -/
theorem slow_setSmon (s : State) (i : SiteNo) {m : SiteMon} (he : m.enable = (s.smon i).enable)
    (hs : m.source = (s.smon i).source) : (s.setSmon i m).slow = s.slow := by
  have hentry : ∀ k, ((s.setSmon i m).smon k).enable = (s.smon k).enable ∧
      ((s.setSmon i m).smon k).source = (s.smon k).source := fun k => by
    by_cases e : k = i
    · subst e; simp [he, hs]
    · simp [smon_setSmon_ne _ _ e]
  simp [State.slow, hentry]

section Operations

variable (s : State) (i : SiteNo)

@[simp] theorem slow_setSite (c : SiteCtl) : (s.setSite i c).slow = s.slow := rfl
@[simp] theorem slow_setExch (x : Option Exchange) : (s.setExch i x).slow = s.slow := rfl
@[simp] theorem slow_setDie (d : Die) : (s.setDie i d).slow = s.slow := rfl
@[simp] theorem slow_push (o : OutFrame) : (s.push o).slow = s.slow := rfl
@[simp] theorem slow_reply (f : InFrame) (st : Status) (p : List Byte) : (s.reply f st p).slow = s.slow := rfl
@[simp] theorem slow_setRx (r : Receiver) : (s.setRx r).slow = s.slow := rfl
@[simp] theorem slow_dropFront : s.dropFront.slow = s.slow := rfl
@[simp] theorem slow_setLog (l : IssueLog) : (s.setLog l).slow = s.slow := rfl
@[simp] theorem slow_setArb (a : Arbiter) : (s.setArb a).slow = s.slow := rfl
@[simp] theorem slow_setSlotWaiter (v : Bool) : (s.setSlotWaiter i v).slow = s.slow := rfl
@[simp] theorem slow_setContactPin (v : Bool) : (s.setContactPin i v).slow = s.slow := rfl
@[simp] theorem slow_setOverLimitPin (v : Bool) : (s.setOverLimitPin i v).slow = s.slow := rfl
@[simp] theorem slow_setPumpPin (v : Bool) : (s.setPumpPin v).slow = s.slow := rfl

@[simp] theorem slow_received (r : Receiver × Option InFrame) : (s.received r).slow = s.slow := by
  unfold State.received State.frameComplete; (repeat' split) <;> rfl

@[simp] theorem slow_setCond (c : SiteCond) (v : Bool) : (s.setCond i c v).slow = s.slow := slow_setSmon s i rfl rfl

@[simp] theorem slow_throttle (sc : Scope) : (s.throttle sc).slow = s.slow := by
  obtain ⟨hsites, hglobal, -⟩ := throttle_keeps s sc
  simp [State.slow, hsites, hglobal]

@[simp] theorem slow_latchGlobal (g : GlobalFlag) : (s.latchGlobal g).slow = s.slow := slow_throttle _ _

@[simp] theorem slow_changeCond (c : SiteCond) (v : Bool) : (s.changeCond i c v).slow = s.slow :=
  slow_of_reports (x := fun _ => True) (reports_changeCond s i c v) (by simp) (by simp) (by simp) (by simp)

@[simp] theorem slow_evalPoolLow : s.evalPoolLow.slow = s.slow :=
  slow_of_reports (x := fun _ => True) (reports_evalPoolLow s) (by simp) (by simp) (by simp) (by simp)

@[simp] theorem slow_evalPoolLowNew : s.evalPoolLowNew.slow = s.slow :=
  slow_of_reports (x := fun _ => True) (reports_evalPoolLowNew s) (by simp) (by simp) (by simp) (by simp)

@[simp] theorem slow_evalLogHigh : s.evalLogHigh.slow = s.slow :=
  slow_of_reports (x := fun _ => True) (reports_evalLogHigh s) (by simp) (by simp) (by simp) (by simp)

@[simp] theorem slow_grantTest : s.grantTest.slow = s.slow := slow_of_mon (by simp) (by simp) (by simp) (by simp) (by simp)

@[simp] theorem slow_withdraw : (s.withdraw i).slow = s.slow := slow_of_mon (by simp) (by simp) (by simp) (by simp) (by simp)

@[simp] theorem slow_abort (p : PendingEnd) : (s.abort i p).slow = s.slow :=
  slow_of_reports (x := fun _ => True) (reports_abort s i p) (by simp) (by simp) (by simp) (by simp)

@[simp] theorem slow_giveKey (k : Key) : (s.giveKey i k).slow = s.slow :=
  slow_of_reports (x := fun _ => True) (reports_giveKey s i k) (by simp) (by simp) (by simp) (by simp)

@[simp] theorem slow_perform (m : Move) : (s.perform i m).slow = s.slow :=
  slow_of_reports (x := fun _ => True) (reports_perform s i m) (by simp) (by simp) (by simp) (by simp)

@[simp] theorem slow_driveCut (o : JobOutcome) : (s.driveCut i o).slow = s.slow :=
  slow_of_reports (x := fun _ => True) (reports_driveCut s i o) (by simp) (by simp) (by simp) (by simp)

@[simp] theorem slow_noteOpenLeft (n : Nat) : (s.noteOpenLeft i n).slow = s.slow :=
  slow_of_mon (by simp) (by simp) (by simp) (by simp) (by simp)

@[simp] theorem slow_attemptEnded (x : Exchange) (e : Ending) : (s.attemptEnded i x e).slow = s.slow :=
  slow_of_reports (x := fun _ => True) (reports_attemptEnded s i x e) (by simp) (by simp) (by simp) (by simp)

@[simp] theorem slow_testAdmission : (s.testAdmission i).slow = s.slow :=
  slow_of_reports (x := fun _ => True) (reports_testAdmission s i) (by simp) (by simp) (by simp) (by simp)

@[simp] theorem slow_seat : (s.seat i).slow = s.slow :=
  slow_of_reports (x := fun _ => True) (reports_seat s i) (by simp) (by simp) (by simp) (by simp)

@[simp] theorem slow_handSlot : (s.handSlot i).slow = s.slow := by
  refine slow_of_reports (x := fun _ => True) (reports_handSlot s i) ?_ ?_ ?_ ?_ <;>
    (unfold State.handSlot; split <;> simp)

@[simp] theorem slow_finishLift : s.finishLift.slow = s.slow :=
  slow_of_reports (x := fun _ => True) (reports_finishLift s fun _ _ => ⟨trivial, trivial⟩)
    (by simp) (by simp) (by simp) (by simp)

/-- The Key Store replaced by one with the same high-water index. -/
theorem slow_setKs {k : KeyStore} (h : k.highWater = s.ks.highWater) : (s.setKs k).slow = s.slow := by
  simp only [State.slow, setKs_ks, h]
  rfl

/-- Hand-out moves keys (R25). -/
@[simp] theorem slow_handOut (l : List SiteNo) : (State.handOut l s).slow = s.slow := by
  induction l generalizing s with
  | nil => rfl
  | cons i l ih =>
    cases hfree : s.ks.free with
    | nil => rw [handOut_noKey _ hfree]
    | cons key rest => rw [handOut_cons i l hfree, ih, State.serve, slow_giveKey]; exact slow_setKs s rfl

end Operations

theorem slow_forSites {f : State → SiteNo → State} (h : ∀ s i, (f s i).slow = s.slow) (s : State) :
    (forSites f s).slow = s.slow := foldl_keeps State.slow f h allSites s

@[simp] theorem slow_abortAll (s : State) : s.abortAll.slow = s.slow := slow_forSites (fun s i => slow_abort s i _) s

/-! ### Requests -/

theorem slow_doReadEvents (s : State) (f : InFrame) : (s.doReadEvents f).slow = s.slow := by
  unfold State.doReadEvents
  split
  · rfl
  · next sc _ =>
    cases sc with
    | site i => exact slow_setSmon (s.reply f _ _) i rfl rfl
    | global => rfl

theorem slow_doLiftoff (s : State) (f : InFrame) : (s.doLiftoff f).slow = s.slow := by
  have hset : ∀ (d : Touchdown), d.number = s.td.number → (s.setTd d).slow = s.slow := fun d hd => by
    simp only [State.slow, setTd_td, hd]; rfl
  have hbegin : ∀ (tag : BitVec 6) (toAbort : Bool), (s.beginLift tag toAbort).slow = s.slow := fun tag toAbort => by
    unfold State.beginLift
    dsimp only
    split <;> simp [hset]
  have hmerge : ∀ (toAbort : Bool), (s.mergeLift toAbort).slow = s.slow := fun toAbort => by
    unfold State.mergeLift
    split <;> simp [hset]
  unfold State.doLiftoff
  (repeat' split) <;> simp [hbegin, hmerge]

theorem slow_doDiscardKeys (s : State) (f : InFrame) : (s.doDiscardKeys f).slow = s.slow := by
  unfold State.doDiscardKeys
  simp [slow_setKs]

theorem slow_postJob (s : State) (i : SiteNo) (p : Posting) : (s.postJob i p).slow = s.slow := by
  simp only [State.postJob]; split <;> simp

theorem slow_doProvision (s : State) (f : InFrame) : (s.doProvision f).slow = s.slow := by
  simp only [State.doProvision]; (repeat' split) <;> simp [slow_postJob]

theorem slow_doCancel (s : State) (f : InFrame) : (s.doCancel f).slow = s.slow := by
  simp only [State.doCancel, State.cancelSite, State.dropQueue]; (repeat' split) <;> simp

theorem slow_doClearRecords (s : State) (f : InFrame) : (s.doClearRecords f).slow = s.slow := by
  simp only [State.doClearRecords]; split <;> simp [slow_forSites slow_handSlot]

/-! ### The owners -/

/-- CONFIGURE changes the parameters alone (R170). -/
theorem slow_doConfigure (s : State) (f : InFrame) (c : Params) :
    { (s.doConfigure f).slow with cfg := c } = { s.slow with cfg := c } := by
  have henable : ∀ (before : SiteSet) (s : State) (i : SiteNo), (State.enableSite before s i).slow = s.slow :=
    fun before s i => by unfold State.enableSite; (repeat' split) <;> rfl
  have hentry : ∀ (s : State) (e : ParamId × Nat),
      { (s.applyEntry e).slow with cfg := c } = { s.slow with cfg := c } := fun s e => by
    obtain ⟨p, v⟩ := e
    cases p
    case sitesEnabled => simp only [State.applyEntry, slow_forSites (henable _)]; rfl
    case poolLowThreshold =>
      simp only [State.applyEntry]
      split
      · rfl
      · rw [slow_evalPoolLowNew]; rfl
    all_goals rfl
  have hentries := fun es => foldl_keeps (fun s : State => ({ s.slow with cfg := c } : SlowState)) State.applyEntry hentry es s
  unfold State.doConfigure
  split
  · rfl
  · (repeat' split) <;> simp only [slow_reply, hentries]

/-- SET ENABLES changes the enables alone (R152). -/
theorem slow_doSetEnables (s : State) (f : InFrame) (g : GlobalBits) (e : SiteNo → Bool × SiteBits) :
    { (s.doSetEnables f).slow with enables := g, enable := e } = { s.slow with enables := g, enable := e } := by
  have hone : ∀ (s : State) (i : SiteNo), { (State.loadEnables f.payload s i).slow with enables := g, enable := e } =
      { s.slow with enables := g, enable := e } := fun _ _ => rfl
  have hload : { (forSites (State.loadEnables f.payload) s).slow with enables := g, enable := e } =
      { s.slow with enables := g, enable := e } :=
    foldl_keeps (fun s : State => ({ s.slow with enables := g, enable := e } : SlowState)) _ hone allSites s
  have htest := fun u => foldl_keeps State.slow State.throttle slow_throttle allScopes u
  unfold State.doSetEnables
  dsimp only
  generalize forSites (State.loadEnables f.payload) s = s1 at hload ⊢
  rw [slow_reply, htest, ← hload]
  rfl

/-- TOUCHDOWN changes the touchdown number alone (R123, R124). -/
theorem slow_doTouchdown (s : State) (f : InFrame) (n : BitVec 32) :
    { (s.doTouchdown f).slow with number := n } = { s.slow with number := n } := by
  have hseat : ∀ (s : State) (i : SiteNo), (s.startSeating i).slow = s.slow := fun s i => by
    simp only [State.startSeating]; (repeat' split) <;> rfl
  have hsample : ∀ (s : State) (i : SiteNo), (s.sampleDieSupply i).slow = s.slow := fun s i => by
    unfold State.sampleDieSupply; split <;> simp
  unfold State.doTouchdown
  split
  · simp only [slow_reply, State.openTouchdown, slow_forSites slow_testAdmission, slow_forSites hsample,
      slow_forSites fun s i => slow_setCond s i .link false, slow_forSites hseat]
    rfl
  · rfl

/-- LOAD KEYS changes the high-water index alone (R20). -/
theorem slow_doLoadKeys (s : State) (f : InFrame) (w : BitVec 32) :
    { (s.doLoadKeys f).slow with highWater := w } = { s.slow with highWater := w } := by
  simp only [State.doLoadKeys]
  split
  · rfl
  · split
    · rfl
    · simp only [slow_finishLift, slow_reply, State.acceptKeys, slow_evalPoolLow, slow_handOut]
      rfl

/-! ### Every command -/

/-- What a command does not own of the state that changes seldom: its own part is blanked out. -/
def SlowState.but (x : SlowState) : Instr → SlowState
  | .touchdown => { x with number := 0 }
  | .configure => { x with cfg := Params.default }
  | .setEnables => { x with enables := GlobalBits.none, enable := fun _ => (false, SiteBits.none) }
  | .loadKeys => { x with highWater := 0 }
  | _ => x

theorem but_spec (x : SlowState) (c : Instr) :
    (x.but c).unitNumber = x.unitNumber ∧ (c ≠ .touchdown → (x.but c).number = x.number) ∧
      (c ≠ .configure → (x.but c).cfg = x.cfg) ∧
      (c ≠ .setEnables → (x.but c).enables = x.enables ∧ (x.but c).enable = x.enable) ∧
      (c ≠ .loadKeys → (x.but c).highWater = x.highWater) := by
  unfold SlowState.but
  split <;> simp_all

/-- An answer that leaves the state that changes seldom as it was, seen through a blanking. -/
def KeepsSlow (g : SlowState → SlowState) (s : State) (r : StepResult) : Prop := ∀ t, r = .next t → g t.slow = g s.slow

variable {g : SlowState → SlowState} {s : State}

@[simp] theorem keepsSlow_next (t : State) : KeepsSlow g s (.next t) ↔ g t.slow = g s.slow :=
  ⟨fun h => h t rfl, fun h => by rintro _ ⟨⟩; exact h⟩

@[simp] theorem keepsSlow_fault (f : Fault) : KeepsSlow g s (.fault f) := by rintro _ ⟨⟩

theorem takeFrame_keepsSlow (is : InFrame → Bool) (act : State → InFrame → State)
    (h : ∀ (s : State) (f : InFrame), g (act s f).slow = g s.slow) : KeepsSlow g s (s.takeFrame is act) := by
  unfold State.takeFrame
  split
  · simp
  · split
    · simp
    · split <;> simp [h]

theorem takeRequest_keepsSlow (kind : Byte) (ok : List Byte → Bool) (act : State → InFrame → State)
    (h : ∀ (s : State) (f : InFrame), g (act s f).slow = g s.slow) : KeepsSlow g s (s.takeRequest kind ok act) := by
  refine takeFrame_keepsSlow _ _ fun s f => ?_
  split
  · exact h s f
  · simp

/-- A request that touches nothing of it. -/
theorem takeRequest_slow (kind : Byte) (ok : List Byte → Bool) (act : State → InFrame → State)
    (h : ∀ (s : State) (f : InFrame), (act s f).slow = s.slow) : KeepsSlow id s (s.takeRequest kind ok act) :=
  takeRequest_keepsSlow kind ok act h

theorem dieCommand_slow (i : SiteNo) (code : Byte) (act : Die → DieFrame → Die × DieAnswer) :
    KeepsSlow id s (s.dieCommand i code act) := by
  unfold State.dieCommand
  split <;> simp

theorem execFrameLastByteSent_slow (h : s.resetsAt .frameLastByteSent = false) :
    KeepsSlow id s (execFrameLastByteSent s) := by
  unfold execFrameLastByteSent
  split
  · simp
  · next f rest hq =>
    have hsource : ¬ f.source = .resetReply := by simpa [State.resetsAt, hq] using h
    rw [if_neg hsource]
    exact (keepsSlow_next _).mpr rfl

theorem execPumpHoldExpiry_slow (s : State) : KeepsSlow id s (execPumpHoldExpiry s) := by
  have hwaiter : ∀ (s' : State) (i : SiteNo), (State.abortWaiter s.arb s' i).slow = s'.slow := fun s' i => by
    unfold State.abortWaiter; split <;> simp
  unfold execPumpHoldExpiry
  split <;> simp [slow_forSites hwaiter]

/-- Outside a unit reset each command leaves alone what it does not own. -/
theorem exec_keepsSlow (c : Instr) (s : State) (hreset : s.resetsAt c = false) : KeepsSlow (·.but c) s (exec c s) := by
  cases c with
  | touchdown => exact takeRequest_keepsSlow _ _ _ fun s f => slow_doTouchdown s f 0
  | configure => exact takeRequest_keepsSlow _ _ _ fun s f => slow_doConfigure s f _
  | setEnables => exact takeRequest_keepsSlow _ _ _ fun s f => slow_doSetEnables s f _ _
  | loadKeys => exact takeRequest_keepsSlow _ _ _ fun s f => slow_doLoadKeys s f 0
  | powerOn | resetLineAsserted => cases hreset
  | frameLastByteSent => exact execFrameLastByteSent_slow hreset
  | heldStatusReply =>
    refine takeFrame_keepsSlow (g := id) _ _ fun s f => ?_
    unfold State.doHeldStatus
    split <;> rfl
  | badRequest => exact takeFrame_keepsSlow (g := id) _ _ fun s f => slow_reply s f _ _
  | identify | status => exact takeRequest_slow _ _ _ fun s f => slow_reply s f _ _
  | readRecords | resetUnit => exact takeRequest_slow _ _ _ fun _ _ => rfl
  | liftoff => exact takeRequest_slow _ _ _ slow_doLiftoff
  | discardKeys => exact takeRequest_slow _ _ _ slow_doDiscardKeys
  | provision => exact takeRequest_slow _ _ _ slow_doProvision
  | cancel => exact takeRequest_slow _ _ _ slow_doCancel
  | clearRecords => exact takeRequest_slow _ _ _ slow_doClearRecords
  | readEvents => exact takeRequest_slow _ _ _ slow_doReadEvents
  | reset i | closeAll i | enterProvisioning i | sense i | openRow i | pulse i a b | closeRow i | reload i | readShadow i =>
    exact dieCommand_slow i _ _
  | pumpHoldExpiry => exact execPumpHoldExpiry_slow s
  | resetReleased => simp only [exec, execResetReleased, SlowState.but]; split <;> simp; rfl
  | controlLinkByteReceived b stopHigh =>
    simp only [exec, execControlLinkByteReceived, SlowState.but]; (repeat' split) <;> simp
  | gapTimerExpiry => simp only [exec, execGapTimerExpiry, SlowState.but]; split <;> simp
  | contactSensed i => simp only [exec, execContactSensed, SlowState.but]; split <;> simp
  | contactDropped i => simp only [exec, execContactDropped, SlowState.but]; split <;> simp
  | debounceExpiry i => simp only [exec, execDebounceExpiry, SlowState.but]; (repeat' split) <;> simp
  | seatTimeoutExpiry i => simp only [exec, execSeatTimeoutExpiry, SlowState.but]; (repeat' split) <;> simp
  | dieSupplyAsserted i => simp only [exec, execDieSupplyAsserted, SlowState.but]; split <;> simp
  | dieSupplyDeasserted i => simp only [exec, execDieSupplyDeasserted, SlowState.but]; split <;> simp
  | pumpFaultAsserted => simp only [exec, execPumpFaultAsserted, SlowState.but]; split <;> simp
  | pumpFaultDeasserted => simp only [exec, execPumpFaultDeasserted, SlowState.but]; split <;> simp
  | dieResponseComplete i ddi left => simp only [exec, execDieResponseComplete, SlowState.but]; (repeat' split) <;> simp
  | dieResponseDeadlineExpiry i left =>
    simp only [exec, execDieResponseDeadlineExpiry, SlowState.but]; (repeat' split) <;> simp
  | settleTimerExpiry i => simp only [exec, execSettleTimerExpiry, SlowState.but]; (repeat' split) <;> simp
  | openTimerExpiry i => simp only [exec, execOpenTimerExpiry, SlowState.but]; (repeat' split) <;> simp
  | restTimerExpiry i => simp only [exec, execRestTimerExpiry, SlowState.but]; (repeat' split) <;> simp
  | diePowerOn i cells => simp only [exec, execDiePowerOn, SlowState.but]; simp
  | commandFrameSent i ddo => simp only [exec, execCommandFrameSent, SlowState.but]; (repeat' split) <;> simp

/-! ### The statement -/

/-- A unit reset keeps the unit number (R174). -/
theorem exec_resets_unitNumber {c : Instr} {s t : State} (hexec : exec c s = .next t) (hreset : s.resetsAt c = true) :
    t.unitNumber = s.unitNumber := by
  unfold State.resetsAt at hreset
  split at hreset
  · cases hexec; rfl
  · cases hexec; rfl
  · simp only [exec, execFrameLastByteSent] at hexec
    split at hexec
    · cases hexec
    · split at hexec <;> cases hexec <;> rfl
  · cases hreset

/-- Settles O24: outside a unit reset by `exec_keepsSlow`, item by item. -/
theorem ownersOfSlowState : Obligations.OwnersOfSlowState := by
  unfold Obligations.OwnersOfSlowState
  intro c s t hexec
  cases hreset : s.resetsAt c with
  | true => exact ⟨exec_resets_unitNumber hexec hreset, fun h => by cases h⟩
  | false =>
    have hkept : t.slow.but c = s.slow.but c := exec_keepsSlow c s hreset t hexec
    obtain ⟨tunit, tnumber, tcfg, tenables, thigh⟩ := but_spec t.slow c
    obtain ⟨sunit, snumber, scfg, senables, shigh⟩ := but_spec s.slow c
    rw [hkept] at tunit tnumber tcfg tenables thigh
    refine ⟨tunit.symm.trans sunit, fun _ => ⟨fun hc => (tnumber hc).symm.trans (snumber hc),
      fun hc => (tcfg hc).symm.trans (scfg hc), fun hc => ?_, fun hc => (thigh hc).symm.trans (shigh hc)⟩⟩
    obtain ⟨hglobal, hsites⟩ := tenables hc
    obtain ⟨hglobal', hsites'⟩ := senables hc
    exact ⟨hglobal.symm.trans hglobal', fun i => Prod.mk.inj (congrFun (hsites.symm.trans hsites') i)⟩

end Sys2Proof.Machine
end

section
/-!
SUPPORT. What a touchdown's opening and a liftoff's completion do at every site (R41, R45, R124, R131, R132, R148): operations
that touch each site's controller and monitor entry alone and may place a frame for it, done at all sixteen.
-/
namespace Sys2Proof.Machine

/-! ### An operation done site by site -/

/-- The machine with the site controllers, the monitor's site entries and the output queue replaced. -/
def State.perSite (s : State) (v : Vector SiteCtl 16) (w : Vector SiteMon 16) (q : List OutFrame) : State :=
  { s with sites := v, mon := { s.mon with site := w }, link := { s.link with outq := q } }

/-- An operation that at a site replaces the controller and the monitor entry and places frames, each by what stands there. -/
def State.ActsAt (s : State) (f : State → SiteNo → State) (g : SiteNo → SiteCtl → SiteCtl)
    (h : SiteNo → SiteMon → SiteMon) (n : SiteNo → SiteMon → List OutFrame) : Prop :=
  ∀ v w q i, f (s.perSite v w q) i = s.perSite (v.set i.val (g i v[i]) i.isLt) (w.set i.val (h i w[i]) i.isLt) (q ++ n i w[i])

section ActsAt

variable {s : State} {f : State → SiteNo → State} {g : SiteNo → SiteCtl → SiteCtl} {h : SiteNo → SiteMon → SiteMon}
  {n : SiteNo → SiteMon → List OutFrame}

/-- A value set at one place, with a change made at other places behind it. -/
theorem ofFn_set {α : Type} (v : Vector α 16) (g : SiteNo → α → α) {i : SiteNo} {l : List SiteNo} (hi : i ∉ l) :
    (Vector.ofFn fun k : SiteNo =>
        if k ∈ l then g k (v.set i.val (g i v[i]) i.isLt)[k] else (v.set i.val (g i v[i]) i.isLt)[k]) =
      Vector.ofFn fun k : SiteNo => if k ∈ i :: l then g k v[k] else v[k] := by
  refine congrArg Vector.ofFn (funext fun k => ?_)
  by_cases e : k = i
  · subst e; simp [hi]
  · have hv : i.val ≠ k.val := fun h => e (Fin.ext h.symm)
    simp [e, Vector.getElem_set_ne i.isLt k.isLt hv]

/-- Done at the sites of a list, such an operation does at each what it does at one: no site is met twice. -/
theorem State.ActsAt.foldl (hf : s.ActsAt f g h n) {l : List SiteNo} (hl : l.Nodup) (v : Vector SiteCtl 16)
    (w : Vector SiteMon 16) (q : List OutFrame) : l.foldl f (s.perSite v w q) =
      s.perSite (Vector.ofFn fun k : SiteNo => if k ∈ l then g k v[k] else v[k])
        (Vector.ofFn fun k : SiteNo => if k ∈ l then h k w[k] else w[k]) (q ++ l.flatMap fun k => n k w[k]) := by
  induction l generalizing v w q with
  | nil => simp
  | cons i l ih =>
    obtain ⟨hi, hl⟩ := List.nodup_cons.mp hl
    have hframes : l.flatMap (fun k => n k (w.set i.val (h i w[i]) i.isLt)[k]) = l.flatMap fun k => n k w[k] :=
      List.flatMap_congr fun k hk => by
        have hv : i.val ≠ k.val := fun e => hi (by rwa [Fin.ext e])
        simp [Vector.getElem_set_ne i.isLt k.isLt hv]
    rw [List.foldl_cons, hf, ih hl, ofFn_set v g hi, ofFn_set w h hi, hframes, List.flatMap_cons, List.append_assoc]

theorem State.ActsAt.forSites (hf : s.ActsAt f g h n) (v : Vector SiteCtl 16) (w : Vector SiteMon 16) (q : List OutFrame) :
    forSites f (s.perSite v w q) = s.perSite (Vector.ofFn fun k => g k v[k]) (Vector.ofFn fun k => h k w[k])
      (q ++ allSites.flatMap fun k => n k w[k]) := by
  rw [Sys2Proof.Machine.forSites, hf.foldl allSites_nodup]
  simp [mem_allSites]

end ActsAt

@[simp] theorem perSite_site (s : State) (v : Vector SiteCtl 16) (w : Vector SiteMon 16) (q : List OutFrame) (i : SiteNo) :
    (s.perSite v w q).site i = v[i] := rfl

@[simp] theorem perSite_smon (s : State) (v : Vector SiteCtl 16) (w : Vector SiteMon 16) (q : List OutFrame) (i : SiteNo) :
    (s.perSite v w q).smon i = w[i] := rfl

theorem flatMap_nothing (l : List SiteNo) : (l.flatMap fun _ => ([] : List OutFrame)) = [] := by simp

/-! ### Liftoff completion (R45, R131, R132) -/

theorem liftSite_acts (s : State) : s.ActsAt State.liftSite
    (fun i c => if s.enabled i then { c with posture := .clear, debounce := none, seatTimeout := none } else c)
    (fun _ m => { m with cond := { m.cond with contact := false, dieSupply := false } }) (fun _ _ => []) := by
  intro v w q i
  unfold State.liftSite
  rw [show (s.perSite v w q).enabled i = s.enabled i from rfl]
  cases hon : s.enabled i <;>
    simp [hon, State.setCond, State.setSmon, State.smon, State.perSite, State.setSite, State.site, SiteBits.put, SiteCtl.liftDone]

/-- Liftoff completion without a job active (R131): every site's controller and monitor entry, the deferred reply, and Touchdown
Control in CLEAR. -/
theorem completeLift_eq {s : State} {tag : BitVec 6} (h : s.td.deferred = some tag) :
    s.completeLift = (s.setTd { s.td with state := .clear, deferred := none, liftCount := 0 }).perSite
      (Vector.ofFn fun i => if s.enabled i then
        { s.site i with posture := .clear, debounce := none, seatTimeout := none } else s.site i)
      (Vector.ofFn fun i => { s.smon i with cond := { (s.smon i).cond with contact := false, dieSupply := false } })
      (s.link.outq ++ [deferredReply tag s.td]) := by
  have hsites := (liftSite_acts (s.setTd { s.td with state := .clear, deferred := none, liftCount := 0 })).forSites
    s.sites s.mon.site s.link.outq
  rw [flatMap_nothing, List.append_nil] at hsites
  unfold State.completeLift
  simp only [h]
  exact congrArg (State.push · (deferredReply tag s.td)) hsites

/-! ### The opening of a touchdown (R41, R124, R132, R148) -/

/-- A site's controller after TOUCHDOWN (R41, R124). -/
def State.openedSite (s : State) (i : SiteNo) (c : SiteCtl) : SiteCtl :=
  if s.enabled i then
    { c with
      used := false
      seatTimeout := some s.cfg.seatTimeout
      posture := if s.pins.contact[i] then .seating else .unseated
      debounce := if s.pins.contact[i] then some s.cfg.seatDebounce else c.debounce }
  else c

theorem startSeating_acts (s : State) : s.ActsAt State.startSeating s.openedSite (fun _ m => m) (fun _ _ => []) := by
  intro v w q i
  unfold State.startSeating State.openedSite
  rw [show (s.perSite v w q).enabled i = s.enabled i from rfl, show (s.perSite v w q).pins = s.pins from rfl]
  cases s.enabled i
  · simp
  · cases s.pins.contact[i] <;> simp [State.perSite, State.setSite, State.site]

theorem clearLink_acts (s : State) : s.ActsAt (fun s i => s.setCond i .link false) (fun _ c => c)
    (fun _ m => { m with cond := { m.cond with link := false } }) (fun _ _ => []) := by
  intro v w q i
  simp [State.setCond, State.setSmon, State.smon, State.perSite, SiteBits.put]

/-- Whether a site scope has a latched flag that is enabled (R153). -/
def SiteMon.flagged (m : SiteMon) : Bool := m.enable && SiteBits.meet m.flags m.source

/-- The NOTICE of a site scope with what its monitor entry holds (R154, R178). -/
def SiteMon.notice (m : SiteMon) (i : SiteNo) : OutFrame :=
  { source := .notice, kind := 0xC0, tag := 0, payload := [BitVec.ofNat 8 i.val, m.flags.byte, m.cond.byte] }

theorem enabledFlag_site (s : State) (i : SiteNo) : s.enabledFlag (.site i) = (s.smon i).flagged := rfl

theorem noticeOf_site (s : State) (i : SiteNo) : s.noticeOf (.site i) = (s.smon i).notice i := rfl

/-- A monitor entry with DIE_SUPPLY declared and latched, and tested (R148, R151, R153). -/
def SiteMon.supplied (m : SiteMon) : SiteMon :=
  { m with
    cond := { m.cond with dieSupply := true }
    flags := { m.flags with dieSupply := true }
    pending := m.pending || (m.enable && SiteBits.meet { m.flags with dieSupply := true } m.source) }

theorem changeCond_perSite (s : State) (v : Vector SiteCtl 16) (w : Vector SiteMon 16) (q : List OutFrame) (i : SiteNo) :
    (s.perSite v w q).changeCond i .dieSupply true = s.perSite v (w.set i.val w[i].supplied i.isLt)
      (q ++ if !w[i].pending && w[i].supplied.flagged then [w[i].supplied.notice i] else []) := by
  generalize hm : ({ w[i] with
    cond := { w[i].cond with dieSupply := true }, flags := { w[i].flags with dieSupply := true } } : SiteMon) = m
  have hlatched : (s.perSite v w q).changeCond i .dieSupply true =
      (s.perSite v (w.set i.val m i.isLt) q).throttle (.site i) := by
    rw [← hm]
    simp [State.changeCond, State.setCond, State.latchSite, State.setSmon, State.smon, State.perSite, SiteBits.put]
  have hentry : (s.perSite v (w.set i.val m i.isLt) q).smon i = m := by simp
  have hflagged : w[i].supplied.flagged = m.flagged := by rw [← hm]; rfl
  have hnotice : w[i].supplied.notice i = m.notice i := by rw [← hm]; rfl
  have hpending : m.pending = w[i].pending := by rw [← hm]
  have hsupplied : w[i].supplied = { m with pending := m.pending || m.flagged } := by rw [← hm]; rfl
  rw [hlatched, State.throttle, show State.noticePending _ (.site i) = m.pending from congrArg SiteMon.pending hentry,
    enabledFlag_site, noticeOf_site, hentry, hflagged, hnotice, hsupplied, ← hpending]
  split
  · next hfire =>
    obtain ⟨hquiet, hflag⟩ := Bool.and_eq_true_iff.mp hfire
    rw [hflag, Bool.or_true]
    simp [State.setPending, State.setSmon, State.smon, State.push, State.perSite]
  · next hfire =>
    have hsame : (m.pending || m.flagged) = m.pending := by
      revert hfire
      cases m.pending <;> simp
    rw [hsame]
    simp

/-- A site's monitor entry after its over-limit input is sampled (R148). -/
def State.sampledMon (s : State) (i : SiteNo) (m : SiteMon) : SiteMon :=
  if s.enabled i && s.pins.overLimit[i] then m.supplied else m

theorem sampleDieSupply_acts (s : State) : s.ActsAt State.sampleDieSupply (fun _ c => c) s.sampledMon
    (fun i m => if s.enabled i && s.pins.overLimit[i] && !m.pending && (s.sampledMon i m).flagged
      then [(s.sampledMon i m).notice i] else []) := by
  intro v w q i
  unfold State.sampleDieSupply State.sampledMon
  rw [show (s.perSite v w q).enabled i = s.enabled i from rfl, show (s.perSite v w q).pins = s.pins from rfl]
  beta_reduce
  cases s.enabled i && s.pins.overLimit[i]
  · simp
  · simp [changeCond_perSite]

/-- A list of frames placed site by site, at most one a site. -/
theorem flatMap_single {α β : Type} (l : List α) (p : α → Bool) (x : α → β) :
    (l.flatMap fun a => if p a then [x a] else []) = (l.filter p).map x := by
  induction l with
  | nil => rfl
  | cons a l ih =>
    rw [List.flatMap_cons, ih, List.filter_cons]
    split <;> rfl

/-- A site's monitor entry after TOUCHDOWN (R124, R132, R148). -/
def State.openedMon (s : State) (i : SiteNo) : SiteMon :=
  s.sampledMon i { s.smon i with cond := { (s.smon i).cond with link := false } }

/-- Steps 3 to 5 of TOUCHDOWN (R124): every site's controller and monitor entry, and the notices. -/
theorem openSites_eq (s : State) :
    forSites State.sampleDieSupply (forSites (fun s i => s.setCond i .link false) (forSites State.startSeating s)) =
      s.perSite (Vector.ofFn fun i => s.openedSite i (s.site i)) (Vector.ofFn s.openedMon)
        (s.link.outq ++ (allSites.filter fun i => s.enabled i && s.pins.overLimit[i] && !(s.smon i).pending &&
          (s.openedMon i).flagged).map fun i => (s.openedMon i).notice i) := by
  have hseat := (startSeating_acts s).forSites s.sites s.mon.site s.link.outq
  have hself : s.perSite s.sites s.mon.site s.link.outq = s := rfl
  rw [hself] at hseat
  rw [hseat, (clearLink_acts s).forSites, (sampleDieSupply_acts s).forSites, ← flatMap_single]
  simp only [flatMap_nothing, List.append_nil, Fin.getElem_fin, Vector.getElem_ofFn, Fin.eta]
  rfl

/-- Step 6 of TOUCHDOWN (R124) admits no site where none is SEATED. -/
theorem testAdmission_unseated {s : State} (h : ∀ i, (s.site i).posture ≠ .seated) : forSites State.testAdmission s = s := by
  refine foldl_inv (fun t => t = s) _ (fun t i ht => ?_) allSites s rfl
  rw [ht, State.testAdmission, if_neg]
  intro hready
  exact h i (State.readyToAdmit_spec (Bool.and_eq_true_iff.mp hready).1).2.1

/-- After the steps of TOUCHDOWN no site is SEATED: an enabled one is UNSEATED or SEATING, any other DISABLED (R40). -/
theorem openedSite_unseated {s : State} (h : s.PostureInv) (i : SiteNo) : (s.openedSite i (s.site i)).posture ≠ .seated := by
  unfold State.openedSite
  cases hon : s.enabled i with
  | true => cases s.pins.contact[i] <;> simp
  | false => simp [(h i).mpr hon]

/-- A TOUCHDOWN in front, taken in CLEAR: its steps, and the reply behind their notices (R124, R165). -/
theorem exec_touchdown {s : State} {f : InFrame} {rest : List InFrame} (h : s.Front 0x05 f rest) (hpay : f.payload = [])
    (hclear : s.td.state = .clear) (hinv : s.PostureInv) : exec .touchdown s = .next
      ((((s.taken rest).setTd { s.td with state := .opened, number := nextNumber s.td.number }).perSite
        (Vector.ofFn fun i => s.openedSite i (s.site i)) (Vector.ofFn s.openedMon)
        (s.link.outq ++ (allSites.filter fun i => s.enabled i && s.pins.overLimit[i] && !(s.smon i).pending &&
          (s.openedMon i).flagged).map fun i => (s.openedMon i).notice i)).push
        (replyTo f .ok (1 :: bytesLE 4 (nextNumber s.td.number).toNat ++ [0]))) := by
  have hexec : exec .touchdown s = .next ((s.taken rest).doTouchdown f) :=
    takeRequest_front h (ok := lengthIs 0) (by rw [hpay]; rfl) State.doTouchdown
  have hopen := openSites_eq ((s.taken rest).setTd { s.td with state := .opened, number := nextNumber s.td.number })
  have htested : (s.taken rest).openTouchdown = _ := testAdmission_unseated (s := forSites State.sampleDieSupply
    (forSites (fun s i => s.setCond i .link false) (forSites State.startSeating
      ((s.taken rest).setTd { s.td with state := .opened, number := nextNumber s.td.number })))) fun i => by
      rw [hopen, perSite_site, Fin.getElem_fin, Vector.getElem_ofFn, Fin.eta]
      exact openedSite_unseated hinv i
  rw [hexec, State.doTouchdown, if_pos (show (s.taken rest).td.state = .clear from hclear)]
  dsimp only
  rw [htested, hopen]
  rfl

/-- Settles O18: the state after is that of `exec_touchdown`, read off site by site. -/
theorem touchdownOpensACycle : Obligations.TouchdownOpensACycle := by
  unfold Obligations.TouchdownOpensACycle
  intro s f rest h hpay hclear hinv
  have hexec := exec_touchdown h hpay hclear hinv
  generalize hv : (Vector.ofFn fun i => s.openedSite i (s.site i)) = v at hexec
  generalize hw : Vector.ofFn s.openedMon = w at hexec
  have hsite : ∀ i : SiteNo, v[i] = s.openedSite i (s.site i) := fun i => by rw [← hv]; simp
  have hmon : ∀ i : SiteNo, w[i] = s.openedMon i := fun i => by rw [← hw]; simp
  refine ⟨_, hexec, rfl, fun i => hsite i, fun i => ?_, ?_, rfl⟩
  · rw [enabledFlag_site, smon_push, perSite_smon, hmon, State.openedMon, State.sampledMon]
    cases s.enabled i && s.pins.overLimit[i] <;> simp [SiteMon.supplied, SiteMon.flagged]
  · simp only [enabledFlag_site, noticeOf_site, smon_push, perSite_smon, hmon]
    rfl

end Sys2Proof.Machine
end

section
/-!
SUPPORT. LIFTOFF (R126, R129): the orderly abort of every active job (R57), at one site and in the account of a lift (R130), with
the grants that an earlier site's withdrawal brings a later one (R112, R115).
-/
namespace Sys2Proof.Machine
open State (EndsLogged)

/-! ### Frames placed: notices alone (R165) -/

/-- From one state to a later one nothing of the link has changed but for notices placed. -/
def State.OnlyNotices (s t : State) : Prop :=
  ∃ notices : List OutFrame, (∀ o ∈ notices, o.source = .notice) ∧
    t.link = { s.link with outq := s.link.outq ++ notices }

namespace State.OnlyNotices

variable {s t u : State}

theorem quiet (h : t.link = s.link) : s.OnlyNotices t := ⟨[], by simp, by rw [h, List.append_nil]⟩

theorem refl (s : State) : s.OnlyNotices s := quiet rfl

theorem trans (h : s.OnlyNotices t) (g : t.OnlyNotices u) : s.OnlyNotices u := by
  obtain ⟨first, hfirst, hlink⟩ := h
  obtain ⟨more, hmore, glink⟩ := g
  refine ⟨first ++ more, fun o ho => (List.mem_append.mp ho).elim (hfirst o) (hmore o), ?_⟩
  rw [glink, hlink, List.append_assoc]

theorem foldl {α : Type} {f : State → α → State} (h : ∀ (s : State) (a : α), s.OnlyNotices (f s a)) (l : List α)
    (s : State) : s.OnlyNotices (l.foldl f s) := foldl_inv (fun t => s.OnlyNotices t) f (fun t a ht => ht.trans (h t a)) l s (.refl s)

theorem throttle (s : State) (sc : Scope) : s.OnlyNotices (s.throttle sc) := by
  unfold State.throttle
  split
  · exact ⟨[s.noticeOf sc], by simp, by rw [setPending_link]; rfl⟩
  · exact .refl s

theorem changeCond (s : State) (i : SiteNo) (c : SiteCond) (v : Bool) : s.OnlyNotices (s.changeCond i c v) :=
  (quiet rfl).trans (throttle ((s.setCond i c v).setSmon i _) (.site i))

theorem latchGlobal (s : State) (g : GlobalFlag) : s.OnlyNotices (s.latchGlobal g) :=
  (quiet rfl).trans (throttle { s with mon := _ } .global)

theorem endJob (s : State) (i : SiteNo) (o : JobOutcome) : s.OnlyNotices (s.endJob i o) := by
  have hlink : s.OnlyNotices (if o = .linkLost then s.changeCond i .link true else s) := by
    split
    · exact changeCond _ _ _ _
    · exact .refl s
  unfold State.endJob
  split
  · exact .refl s
  · next j _ => exact (hlink.trans (quiet rfl)).trans (latchGlobal ((State.accountEnd _ i j o).setJob i none) _)

theorem doMove (s : State) (i : SiteNo) (m : Move) : s.OnlyNotices (s.doMove i m) := by
  unfold State.doMove
  cases m.2 with
  | finish o => exact (quiet rfl).trans (endJob (s.setJob i (some m.1)) i o)
  | send | wait | request | bind => exact quiet rfl

theorem abort (s : State) (i : SiteNo) (p : PendingEnd) : s.OnlyNotices (s.abort i p) := by
  unfold State.abort
  split
  · exact .refl s
  · split
    · exact .refl s
    · exact (quiet (by simp)).trans (doMove ((s.withdraw i).setExch i _) i _)

theorem abortAll (s : State) : s.OnlyNotices s.abortAll :=
  foldl (f := fun s i => s.abort i .aborted) (fun s i => abort s i _) allSites s

end State.OnlyNotices

/-! ### Every job in ENDING (R57) -/

/-- The job of a site, if it has one, is in ENDING. -/
def State.EndingAt (s : State) (k : SiteNo) : Prop := ∀ j, (s.site k).job = some j → j.phase = .ending

theorem onAbort_phase (j : Job) (p : PendingEnd) (x : Bool) : (j.onAbort p x).1.phase = .ending := by
  simp only [Job.onAbort, Job.endingNext]
  (repeat' split) <;> rfl

/-- A move leaves at its site the job that it gives, or none. -/
theorem doMove_job {s : State} {i : SiteNo} {m : Move} {j : Job} (h : ((s.doMove i m).site i).job = some j) : j = m.1 := by
  unfold State.doMove at h
  cases hact : m.2 with
  | finish o =>
    rw [hact, State.doAct, endJob_site] at h
    cases h
  | send c retry =>
    rw [hact, State.doAct, site_startExchange, site_setJob] at h
    exact (Option.some.inj h).symm
  | wait | request | bind =>
    rw [hact, State.doAct, site_setJob] at h
    exact (Option.some.inj h).symm

theorem endingAt_abort_self (s : State) (i : SiteNo) (p : PendingEnd) : (s.abort i p).EndingAt i := by
  intro j hj
  unfold State.abort at hj
  split at hj
  · next hnone => rw [hnone] at hj; cases hj
  · next j' hj' =>
    split at hj
    · next hending =>
      rw [hj'] at hj
      exact Option.some.inj hj ▸ hending
    · rw [doMove_job hj]; exact onAbort_phase _ _ _

/-- A grant changes no phase (R90). -/
theorem State.EndingAt.grantOne {s : State} {k : SiteNo} (h : s.EndingAt k) (i : SiteNo) (d : Nat) :
    (s.grantOne i d).EndingAt k := by
  intro j hj
  by_cases e : k = i
  · subst e
    cases hk : (s.site k).job with
    | none =>
      have hident := (sameJobs_grantOne s k d).ident k
      simp [State.identAt, hj, hk] at hident
    | some j' =>
      rw [grantOne_site s k d hk] at hj
      exact Option.some.inj hj ▸ h j' hk
  · rw [grantOne_site_ne s d e] at hj
    exact h j hj

theorem State.EndingAt.withdraw {s : State} {k : SiteNo} (h : s.EndingAt k) (i : SiteNo) : (s.withdraw i).EndingAt k := by
  unfold State.withdraw
  split
  · exact grantTest_inv (fun t => t.EndingAt k) (fun t i d ht _ _ => ht.grantOne i d) _ h
  · exact h

theorem State.EndingAt.abort {s : State} {k : SiteNo} (h : s.EndingAt k) (i : SiteNo) (p : PendingEnd) :
    (s.abort i p).EndingAt k := by
  by_cases e : k = i
  · subst e; exact endingAt_abort_self s k p
  · unfold State.abort
    split
    · exact h
    · split
      · exact h
      · intro j hj
        rw [doMove_site_ne _ _ e, site_setExch_ne _ _ e] at hj
        exact h.withdraw i j hj

theorem endingAt_abortAll (s : State) (k : SiteNo) : s.abortAll.EndingAt k := by
  exact foldl_each (fun k t => State.EndingAt t k) (fun s i => s.abort i .aborted) (fun t i => endingAt_abort_self t i _)
    (fun _ _ i ht => ht.abort i _) allSites s (mem_allSites k)

theorem abortAll_td_state (s : State) : s.abortAll.td.state = s.td.state := by
  unfold State.abortAll
  exact forSites_inv (fun t => t.td.state = s.td.state) _ (fun t i ht => (abort_td_state t i _).trans ht) s rfl

/-- Touchdown Control that differs in its lift count alone. -/
theorem Touchdown.eq_withCount {d e : Touchdown} {n : Nat} (hs : d.state = e.state) (hn : d.number = e.number)
    (hd : d.deferred = e.deferred) (hc : d.liftCount = n) : d = { e with liftCount := n } := by
  rw [← hs, ← hn, ← hd, ← hc]

/-- The orderly aborts of a lift leave jobs in ENDING alone (R126). -/
theorem abortAll_jobs {s : State} {i : SiteNo} {j : Job} (hj : (s.abortAll.site i).job = some j) :
    j.phase = .ending ∧ s.active i = true :=
  ⟨endingAt_abortAll s i j hj, (endsLogged_abortAll s).stillActive (by rw [State.active, hj]; rfl)⟩

/-- They count the jobs that end (R130). -/
theorem abortAll_td {s : State} (hl : s.td.state.lifting = true) : s.abortAll.td = { s.td with
    liftCount := s.td.liftCount + allSites.countP (fun i => s.active i && !s.abortAll.active i) } := by
  have hcounted := endsCounted_abortAll s
  have hlogged := endsLogged_abortAll s
  have hcount := hcounted.liftCount hlogged hl
  have hended := countP_ended (l := allSites) fun i => hlogged.stillActive (i := i)
  exact Touchdown.eq_withCount (abortAll_td_state s) hcounted.number hcounted.deferred (by omega)

/-! ### One site in the course of the aborts (R112, R115) -/

/-- At a site other aborts do nothing, or let its waiting request be granted, so that its PULSE is sent (R90, R113). -/
inductive State.LetThrough (s t : State) (k : SiteNo) : Prop
  | still (site : t.site k = s.site k) (waiting : t.arb.waiting[k] = s.arb.waiting[k])
  | granted (d : Nat) (clear : s.arb.pump = false) (was : s.arb.waiting[k] = some d) (gone : t.arb.waiting[k] = none)
      (site : ∀ j, (s.site k).job = some j → t.site k = { s.site k with
        job := some j.onGrant.1
        port := { (s.site k).port with exch := some (newAttempt s.cfg j.onGrant.2 1 false) } })

namespace State.LetThrough

variable {s t u : State} {k : SiteNo}

/-- Without a request waiting nothing is done. -/
theorem idle (h : s.LetThrough t k) (hw : s.arb.waiting[k] = none) :
    t.site k = s.site k ∧ t.arb.waiting[k] = none := by
  cases h with
  | still hsite hwait => exact ⟨hsite, hwait.trans hw⟩
  | granted d _ hwas => rw [hw] at hwas; cases hwas

theorem trans (h : s.LetThrough t k) (g : t.LetThrough u k) (hp : t.arb.pump = s.arb.pump) (hc : t.cfg = s.cfg) :
    s.LetThrough u k := by
  cases h with
  | still hsite hwait =>
    cases g with
    | still gsite gwait => exact .still (gsite.trans hsite) (gwait.trans hwait)
    | granted d hclear hwas hgone gsite =>
      rw [hsite, hc] at gsite
      exact .granted d (hp.symm.trans hclear) (hwait.symm.trans hwas) hgone gsite
  | granted d hclear hwas hgone hsite =>
    obtain ⟨gsite, gwait⟩ := g.idle hgone
    exact .granted d hclear hwas gwait (by rw [gsite]; exact hsite)

/-- What grants come to at a site whose own request they do not start from. -/
theorem of_grants (h : t.Grants u) (hsite : t.site k = s.site k) (hwait : t.arb.waiting[k] = s.arb.waiting[k])
    (hp : t.arb.pump = s.arb.pump) (hc : t.cfg = s.cfg) : s.LetThrough u k := by
  rcases h.at_site k with ⟨gwait, -, gsite⟩ | ⟨d, gwas, gone, -, gsite⟩
  · exact .still (gsite.trans hsite) (gwait.trans hwait)
  · have hclear : t.arb.pump = false := by
      cases h with
      | ends _ hend => rw [gwas] at gone; cases gone
      | grants _ _ _ _ hclear => exact hclear
    rw [hsite, hc] at gsite
    exact .granted d (hp.symm.trans hclear) (hwait.symm.trans gwas) gone gsite

end State.LetThrough

theorem unwait_other (s : State) {i k : SiteNo} (h : k ≠ i) : (s.unwait i).arb.waiting[k] = s.arb.waiting[k] :=
  Vector.getElem_set_ne i.isLt k.isLt fun e => h (Fin.ext e.symm)

theorem withdraw_pump (s : State) (i : SiteNo) : (s.withdraw i).arb.pump = s.arb.pump := by
  cases hw : s.arb.waiting[i] with
  | none => rw [withdraw_none s i hw]
  | some d => exact (withdraw_grants s i hw).supply.1

theorem withdraw_letThrough (s : State) {i k : SiteNo} (h : k ≠ i) : s.LetThrough (s.withdraw i) k := by
  cases hw : s.arb.waiting[i] with
  | none => rw [withdraw_none s i hw]; exact .still rfl rfl
  | some d => exact .of_grants (withdraw_grants s i hw) rfl (unwait_other s h) rfl rfl

/-- The abort of another site's job lets at most a waiting request through. -/
theorem abort_letThrough (s : State) {i k : SiteNo} (p : PendingEnd) (h : k ≠ i) : s.LetThrough (s.abort i p) k := by
  unfold State.abort
  split
  · exact .still rfl rfl
  · split
    · exact .still rfl rfl
    · refine (withdraw_letThrough s h).trans (.still ?_ ?_) (withdraw_pump s i) (withdraw_cfg s i)
      · rw [doMove_site_ne _ _ h, site_setExch_ne _ _ h]
      · rw [doMove_arb, setExch_arb]

theorem abort_pump (s : State) (i : SiteNo) (p : PendingEnd) : (s.abort i p).arb.pump = s.arb.pump := by
  unfold State.abort
  split
  · rfl
  · split
    · rfl
    · rw [doMove_arb, setExch_arb, withdraw_pump]

/-- An aborted job's request waits no more. -/
theorem abort_waiting {s : State} {i : SiteNo} (p : PendingEnd) (h : s.arb.waiting[i] = none ∨
    ∃ j, (s.site i).job = some j ∧ j.phase ≠ .ending) : (s.abort i p).arb.waiting[i] = none := by
  rcases h with hw | ⟨j, hj, hp⟩
  · rw [(abort_other p hw).1, hw]
  · simp only [State.abort, hj, if_neg hp, doMove_arb, setExch_arb]
    exact (withdraw_self s i).2.1

theorem foldl_abort_letThrough (s : State) {k : SiteNo} {l : List SiteNo} (p : PendingEnd) (h : k ∉ l) :
    s.LetThrough (l.foldl (fun s i => s.abort i p) s) k ∧ (l.foldl (fun s i => s.abort i p) s).cfg = s.cfg := by
  induction l generalizing s with
  | nil => exact ⟨.still rfl rfl, rfl⟩
  | cons i l ih =>
    obtain ⟨hthrough, hcfg⟩ := ih (s.abort i p) (List.not_mem_of_not_mem_cons h)
    exact ⟨(abort_letThrough s p (List.ne_of_not_mem_cons h)).trans hthrough (abort_pump s i p) (abort_cfg s i p),
      hcfg.trans (abort_cfg s i p)⟩

/-- The aborts of all jobs come, at one site, to its own abort after what earlier ones have let through, its request withdrawn and
its record kept. -/
theorem abortAll_at (s : State) (i : SiteNo) :
    ∃ u : State, s.LetThrough u i ∧ u.cfg = s.cfg ∧
      (u.abort i .aborted).log.records ⊆ s.abortAll.log.records ∧
      ((u.abort i .aborted).arb.waiting[i] = none →
        s.abortAll.site i = (u.abort i .aborted).site i ∧ s.abortAll.arb.waiting[i] = none) := by
  obtain ⟨before, after, hall⟩ := List.append_of_mem (mem_allSites i)
  have hnodup : (before ++ i :: after).Nodup := hall ▸ allSites_nodup
  have hbefore : i ∉ before := fun h => (List.disjoint_of_nodup_append hnodup) h List.mem_cons_self
  have hafter : i ∉ after := (List.nodup_cons.mp hnodup.of_append_right).1
  obtain ⟨hthrough, hcfg⟩ := foldl_abort_letThrough s (l := before) .aborted hbefore
  generalize hu : before.foldl (fun s i => s.abort i .aborted) s = u at hthrough hcfg
  have hfold : s.abortAll = after.foldl (fun s i => s.abort i .aborted) (u.abort i .aborted) := by
    rw [State.abortAll, forSites, hall, List.foldl_append, List.foldl_cons, hu]
  refine ⟨u, hthrough, hcfg, ?_, fun hw => ?_⟩
  · obtain ⟨new, hrecords, -⟩ := EndsLogged.foldl (f := fun s i => s.abort i .aborted) (fun s i => .abort s i _) after
      (u.abort i .aborted)
    rw [hfold, hrecords]
    exact List.subset_append_left _ _
  · rw [hfold]
    exact (foldl_abort_letThrough (u.abort i .aborted) .aborted hafter).1.idle hw

/-! ### What becomes of one site's job -/

section Aborted

variable {s : State} {i : SiteNo} {j : Job}

/-- A job in ENDING, without a request, is left alone (R58). -/
theorem abortAll_ending (hj : (s.site i).job = some j) (hp : j.phase = .ending) (hw : s.arb.waiting[i] = none) :
    s.abortAll.site i = s.site i := by
  obtain ⟨u, hthrough, -, -, hlast⟩ := abortAll_at s i
  obtain ⟨husite, huwait⟩ := hthrough.idle hw
  have hidle : u.abort i .aborted = u := abort_idle u i _ fun j' hj' => by
    rw [husite, hj] at hj'
    exact Option.some.inj hj' ▸ hp
  rw [hidle] at hlast
  exact (hlast huwait).1.trans husite

/-- A job with an exchange in progress keeps it, without its retry (R57, R72). -/
theorem abortAll_exchanging {x : Exchange} (hj : (s.site i).job = some j) (hp : j.phase ≠ .ending)
    (hx : (s.site i).port.exch = some x) (hw : s.arb.waiting[i] = none) :
    (s.abortAll.site i).job = some (j.aborting .aborted) ∧
      (s.abortAll.site i).port.exch = some { x with retry := false } := by
  obtain ⟨u, hthrough, -, -, hlast⟩ := abortAll_at s i
  obtain ⟨husite, huwait⟩ := hthrough.idle hw
  rw [(hlast (abort_waiting _ (.inl huwait))).1,
    abort_exchanging .aborted (by rw [husite, hj]) hp (by rw [husite, hx]) huwait, siteWith_site]
  exact ⟨rfl, rfl⟩

/-- A job without exchange, request and open row ends in a record (R55, R57). -/
theorem abortAll_rowClosed (hj : (s.site i).job = some j) (hp : j.phase ≠ .ending) (hx : (s.site i).port.exch = none)
    (hw : s.arb.waiting[i] = none) (ho : j.engine.rowOpen = false) :
    (s.abortAll.site i).job = none ∧
      ∃ r ∈ s.abortAll.log.records, r.site = i ∧ r.posting = j.posting ∧ r.outcome = .aborted := by
  obtain ⟨u, hthrough, -, hrecords, hlast⟩ := abortAll_at s i
  obtain ⟨husite, huwait⟩ := hthrough.idle hw
  have hat := (hlast (abort_waiting _ (.inl huwait))).1
  rw [abort_rowClosed .aborted (by rw [husite, hj]) hp (by rw [husite, hx]) ho huwait] at hat hrecords
  generalize hv : u.setJob i (some (j.aborting .aborted)) = v
  obtain ⟨hgone, hlog, -⟩ := endJob_all v i (j.aborting .aborted) .aborted (by rw [← hv, site_setJob])
  have hends : u.doMove i (j.aborting .aborted, .finish PendingEnd.aborted.outcome) = v.endJob i .aborted := by
    rw [← hv]; rfl
  rw [hends] at hat hrecords
  rw [hlog] at hrecords
  rw [hat, hgone]
  exact ⟨rfl, v.lastRecord i (j.aborting .aborted) .aborted,
    hrecords (List.mem_append_right _ (List.mem_singleton_self _)), rfl, rfl, rfl⟩

/-- A job without an exchange and with its row open sends one CLOSE ROW, its request withdrawn; or a request that an earlier
site's withdrawal has let through is granted, and its PULSE runs on (R57, R90, R113, R115). -/
theorem abortAll_rowOpen (hj : (s.site i).job = some j) (hp : j.phase ≠ .ending) (hx : (s.site i).port.exch = none)
    (ho : j.engine.rowOpen = true) : s.abortAll.arb.waiting[i] = none ∧
      (((s.abortAll.site i).job = some (j.aborting .aborted).lastClose ∧
          (s.abortAll.site i).port.exch = some (Exchange.fresh s.cfg (.closeRow j.engine.regionRow) false)) ∨
        (s.arb.pump = false ∧ s.arb.waiting[i] ≠ none ∧
          (s.abortAll.site i).job = some (j.onGrant.1.aborting .aborted) ∧
          (s.abortAll.site i).port.exch = some (Exchange.fresh s.cfg j.onGrant.2 false))) := by
  obtain ⟨u, hthrough, hcfg, -, hlast⟩ := abortAll_at s i
  cases hthrough with
  | still husite huwait =>
    obtain ⟨hat, hwait⟩ := hlast (abort_waiting _ (.inr ⟨j, by rw [husite, hj], hp⟩))
    rw [abort_rowOpen .aborted (by rw [husite, hj]) hp (by rw [husite, hx]) ho, siteWith_site, hcfg] at hat
    rw [hat]
    exact ⟨hwait, .inl ⟨rfl, rfl⟩⟩
  | granted d hclear hwas hgone husite =>
    have hsent := husite j hj
    obtain ⟨hat, hwait⟩ := hlast (abort_waiting _ (.inl hgone))
    rw [abort_exchanging (j := j.onGrant.1) .aborted (by rw [hsent]) hp (by rw [hsent]) hgone, siteWith_site] at hat
    rw [hat]
    exact ⟨hwait, .inr ⟨hclear, by rw [hwas]; exact Option.some_ne_none d, rfl, rfl⟩⟩

end Aborted

/-- With no job active there is nothing to abort. -/
theorem abortAll_idle {s : State} (h : s.anyActive = false) : s.abortAll = s := by
  unfold State.abortAll
  refine forSites_inv (fun t => t = s) _ (fun t i ht => ?_) s rfl
  rw [ht]
  exact abort_idle s i _ fun j hj => by rw [noJob_of_not_anyActive h i] at hj; cases hj

/-! ### The request (R126, R129, R172) -/

/-- A LIFTOFF in front is carried out. -/
theorem exec_liftoff {s : State} {f : InFrame} {rest : List InFrame} {m : Byte} (h : s.Front 0x06 f rest)
    (hpay : f.payload = [m]) : exec .liftoff s = .next ((s.taken rest).doLiftoff f) :=
  takeRequest_front h (ok := lengthIs 1) (by rw [hpay]; rfl) State.doLiftoff

/-- The two modes (R172). -/
theorem liftMode_cases {m : Byte} (h : m.toNat ≤ 1) : m = 0 ∨ m = 1 :=
  (Nat.le_one_iff_eq_zero_or_eq_one.mp h).imp BitVec.eq_of_toNat_eq BitVec.eq_of_toNat_eq

theorem doLiftoff_opened {s : State} {f : InFrame} {toAbort : Bool} (hm : liftMode (byteAt f.payload 0) = some toAbort)
    (ho : s.td.state = .opened) : s.doLiftoff f = (s.beginLift f.tag toAbort).finishLift := by
  simp only [State.doLiftoff, hm, ho]

theorem doLiftoff_lifting {s : State} {f : InFrame} {toAbort : Bool} (hm : liftMode (byteAt f.payload 0) = some toAbort)
    (hl : s.td.state = .liftingDrain ∨ s.td.state = .liftingAbort) :
    s.doLiftoff f = ((s.mergeLift toAbort).reply f .merged
      (tdFields (s.mergeLift toAbort).td.state (s.mergeLift toAbort).td.number
        (s.mergeLift toAbort).td.liftCount)).finishLift := by
  rcases hl with hl | hl <;> simp only [State.doLiftoff, hm, hl]

/-- The machine as a LIFTOFF taken in OPEN finds it after step 1 of R126: the new state, the tag held, no slot waiters. -/
def State.liftBegun (s : State) (rest : List InFrame) (tag : BitVec 6) (state : TdState) : State :=
  { s.taken rest with
    td := { s.td with state := state, deferred := some tag, liftCount := 0 }
    log := { s.log with slotWaiters := Vector.replicate 16 false } }

theorem exec_liftoff_drain {s : State} {f : InFrame} {rest : List InFrame} (h : s.Front 0x06 f rest)
    (hpay : f.payload = [0x00]) (ho : s.td.state = .opened) :
    exec .liftoff s = .next (s.liftBegun rest f.tag .liftingDrain).finishLift := by
  rw [exec_liftoff h hpay, doLiftoff_opened (s := s.taken rest) (toAbort := false) (by rw [hpay]; rfl) ho]
  rfl

theorem exec_liftoff_abort {s : State} {f : InFrame} {rest : List InFrame} (h : s.Front 0x06 f rest)
    (hpay : f.payload = [0x01]) (ho : s.td.state = .opened) :
    exec .liftoff s = .next (s.liftBegun rest f.tag .liftingAbort).abortAll.finishLift := by
  rw [exec_liftoff h hpay, doLiftoff_opened (s := s.taken rest) (toAbort := true) (by rw [hpay]; rfl) ho]
  rfl

/-- With no job active a LIFTOFF taken in OPEN completes in either mode. -/
theorem exec_liftoff_idle {s : State} {f : InFrame} {rest : List InFrame} {m : Byte} (h : s.Front 0x06 f rest)
    (hpay : f.payload = [m]) (hm : m.toNat ≤ 1) (ho : s.td.state = .opened) (ha : s.anyActive = false) :
    ∃ state : TdState, exec .liftoff s = .next (s.liftBegun rest f.tag state).completeLift := by
  have hidle : ∀ state, (s.liftBegun rest f.tag state).anyActive = false := fun _ => ha
  rcases liftMode_cases hm with rfl | rfl
  · exact ⟨.liftingDrain, by rw [exec_liftoff_drain h hpay ho, finishLift_completes rfl (hidle _)]⟩
  · exact ⟨.liftingAbort, by
      rw [exec_liftoff_abort h hpay ho, abortAll_idle (hidle _), finishLift_completes rfl (hidle _)]⟩

/-! ### The statements -/

/-- Settles O19: with a job active no lift completes; with none the completion is that of `completeLift_eq`. -/
theorem liftoffDrainWaitsOrCompletes : Obligations.LiftoffDrainWaitsOrCompletes := by
  unfold Obligations.LiftoffDrainWaitsOrCompletes
  refine ⟨fun s f rest h hpay ho ha => ?_, fun s f rest m h hpay hm ho ha => ?_⟩
  · rw [exec_liftoff_drain h hpay ho, finishLift_waits (s := s.liftBegun rest f.tag .liftingDrain) fun _ => ha]
    rfl
  · obtain ⟨state, hexec⟩ := exec_liftoff_idle h hpay hm ho ha
    rw [completeLift_eq (s := s.liftBegun rest f.tag state) (tag := f.tag) rfl] at hexec
    refine ⟨_, hexec, rfl, fun i => ?_, fun i => ?_, rfl, rfl, rfl⟩
    · rw [perSite_site, Fin.getElem_fin, Vector.getElem_ofFn, Fin.eta]
      rfl
    · rw [perSite_smon, Fin.getElem_fin, Vector.getElem_ofFn, Fin.eta]
      rfl

/-- A lift as liftoff completion finds and leaves it: on while a job is active, else over, with the reply that was owed placed
(R130, R131). -/
theorem finishLift_of_lift {v : State} (hl : v.td.state.lifting = true) :
    (v.finishLift.anyActive = true → v.finishLift = v) ∧
      (v.finishLift.anyActive = false → v.finishLift.td = { v.td with state := .clear, deferred := none, liftCount := 0 } ∧
        ∀ tag, v.td.deferred = some tag →
          v.finishLift.link = { v.link with outq := v.link.outq ++ [deferredReply tag v.td] }) := by
  rw [anyActive_finishLift]
  refine ⟨fun ha => finishLift_waits fun _ => ha, fun ha => ?_⟩
  rw [finishLift_completes hl ha]
  exact ⟨completeLift_td v, fun tag hd => completeLift_link hd⟩

/-- Settles O20: the aborts by `abortAll_at` at each site, in an account of the lift that `abortAll_td` gives, and the completion
when no job is left. -/
theorem liftoffAbortEndsEveryJob : Obligations.LiftoffAbortEndsEveryJob := by
  unfold Obligations.LiftoffAbortEndsEveryJob
  intro s f rest h hpay ho hinv
  have hexec := exec_liftoff_abort h hpay ho
  generalize hu : s.liftBegun rest f.tag .liftingAbort = u at hexec
  have husite : ∀ i, u.site i = s.site i := fun i => by rw [← hu]; rfl
  have hactive : ∀ i, u.active i = s.active i := fun i => by rw [← hu]; rfl
  have hutd : u.td = { s.td with state := .liftingAbort, deferred := some f.tag, liftCount := 0 } := by rw [← hu]; rfl
  have hulink : u.link = { s.link with intake := rest } := by rw [← hu]; rfl
  have huarb : u.arb = s.arb := by rw [← hu]; rfl
  have hucfg : u.cfg = s.cfg := by rw [← hu]; rfl
  have huslots : u.log.slotWaiters = Vector.replicate 16 false := by rw [← hu]; rfl
  have hslots : u.abortAll.log.slotWaiters = u.log.slotWaiters := by
    unfold State.abortAll
    exact forSites_inv (fun t => t.log.slotWaiters = u.log.slotWaiters) _
      (fun t i ht => (abort_log_slotWaiters t i _).trans ht) u rfl
  have hulift : u.td.state.lifting = true := by rw [hutd]; rfl
  have hvtd := abortAll_td hulift
  obtain ⟨notices, hnotices, hvlink⟩ := State.OnlyNotices.abortAll u
  have hjob : ∀ i, (u.abortAll.finishLift.site i).job = (u.abortAll.site i).job := fun i => (finishLift_keeps _ i).1
  have hport : ∀ i, (u.abortAll.finishLift.site i).port = (u.abortAll.site i).port := fun i => (finishLift_keeps _ i).2.1
  have hstill : ∀ i, u.abortAll.finishLift.active i = u.abortAll.active i := active_finishLift _
  refine ⟨_, hexec, by rw [finishLift_log, hslots, huslots], ⟨_, notices, rfl, hnotices, ?_⟩, fun i j hj => ?_,
    fun i j x hj hx => ?_, fun i j hj hx hp => ?_⟩
  · simp only [hstill]
    simp only [hactive, hutd, Nat.zero_add] at hvtd
    obtain ⟨hon, hover⟩ := finishLift_of_lift (v := u.abortAll) (by rw [hvtd]; rfl)
    refine ⟨fun ha => ?_, fun ha => ?_⟩
    · rw [hon ha, hvtd, hvlink, hulink]
      exact ⟨rfl, rfl⟩
    · obtain ⟨htd, hlink⟩ := hover ha
      rw [htd, hlink f.tag (by rw [hvtd]), hvtd, hvlink, hulink]
      exact ⟨rfl, rfl⟩
  · rw [hjob] at hj
    rw [← hactive]
    exact abortAll_jobs hj
  · obtain ⟨j', hj', hw, -⟩ := (hinv.sites i).exchanging hx
    rw [← husite] at hj hx
    rw [← huarb] at hw
    rw [hjob, hport]
    refine ⟨fun hp => ?_, fun hp => ?_⟩
    · rw [abortAll_ending hj hp hw]
      exact ⟨hj, hx⟩
    · exact abortAll_exchanging hj hp hx hw
  · rw [← husite] at hj hx
    rw [← huarb, ← hucfg]
    rw [hjob, hport, finishLift_log, finishLift_arb]
    refine ⟨fun hw => ⟨abortAll_rowClosed hj hp hx hw, fun hrow => ?_⟩, fun d hw hrow => ?_⟩
    · obtain ⟨-, hclosed | ⟨-, hwaits, -⟩⟩ := abortAll_rowOpen hj hp hx hrow
      · exact hclosed
      · exact absurd hw hwaits
    · obtain ⟨hgone, hopen⟩ := abortAll_rowOpen hj hp hx hrow
      exact ⟨hgone, hopen.imp_right fun ⟨hclear, _, hjob, hexch⟩ => ⟨hclear, hjob, hexch⟩⟩

/-- Settles O21: a merged LIFTOFF but for the upgrade changes nothing; the upgrade is the aborts of all jobs with the reply behind
them, and the completion when no job is left. -/
theorem liftoffWhileLiftingMerges : Obligations.LiftoffWhileLiftingMerges := by
  unfold Obligations.LiftoffWhileLiftingMerges
  refine ⟨fun s f rest m h hpay ha hcase => ?_, fun s f rest h hpay hdrain => ?_⟩
  · have hl : s.td.state = .liftingDrain ∨ s.td.state = .liftingAbort := hcase.imp And.left And.left
    obtain ⟨toAbort, hmode, hmerge⟩ : ∃ toAbort, liftMode (byteAt f.payload 0) = some toAbort ∧
        (s.taken rest).mergeLift toAbort = s.taken rest := by
      rw [hpay]
      rcases hcase with ⟨-, rfl⟩ | ⟨habort, hm⟩
      · exact ⟨false, rfl, rfl⟩
      · have hsame : ∀ toAbort, (s.taken rest).mergeLift toAbort = s.taken rest := fun toAbort => by
          rw [State.mergeLift, show (s.taken rest).td.state = .liftingAbort from habort]
          simp
        rcases liftMode_cases hm with rfl | rfl
        · exact ⟨false, rfl, hsame _⟩
        · exact ⟨true, rfl, hsame _⟩
    rw [exec_liftoff h hpay, doLiftoff_lifting (s := s.taken rest) hmode hl, hmerge,
      finishLift_waits (s := (s.taken rest).reply f .merged _) fun _ => ha]
    rfl
  · have hmode : liftMode (byteAt f.payload 0) = some true := by rw [hpay]; rfl
    have hmerge : (s.taken rest).mergeLift true =
        ((s.taken rest).setTd { s.td with state := .liftingAbort }).abortAll := by
      rw [State.mergeLift, show (s.taken rest).td.state = .liftingDrain from hdrain]
      rfl
    have hexec := (exec_liftoff h hpay).trans
      (congrArg Host.Outcome.next (doLiftoff_lifting (s := s.taken rest) hmode (.inl hdrain)))
    rw [hmerge] at hexec
    generalize hu : (s.taken rest).setTd { s.td with state := .liftingAbort } = u at hexec
    have hactive : ∀ i, u.active i = s.active i := fun i => by rw [← hu]; rfl
    have hutd : u.td = { s.td with state := .liftingAbort } := by rw [← hu]; rfl
    have hulink : u.link = { s.link with intake := rest } := by rw [← hu]; rfl
    have hvtd := abortAll_td (s := u) (by rw [hutd]; rfl)
    simp only [hactive, hutd] at hvtd
    obtain ⟨notices, hnotices, hvlink⟩ := State.OnlyNotices.abortAll u
    generalize hv : u.abortAll = v at hexec hvtd hvlink
    generalize hw : v.reply f .merged (tdFields v.td.state v.td.number v.td.liftCount) = w at hexec
    have hwsite : ∀ i, w.site i = v.site i := fun i => by rw [← hw]; rfl
    have hwactive : ∀ i, w.finishLift.active i = v.active i := fun i => by rw [active_finishLift, ← hw]; rfl
    have hwtd : w.td = v.td := by rw [← hw]; rfl
    have hwlink : w.link = { v.link with outq := v.link.outq ++
        [replyTo f .merged (tdFields v.td.state v.td.number v.td.liftCount)] } := by rw [← hw]; rfl
    refine ⟨_, hexec, fun i j hj => ?_, _, notices, _, rfl, hnotices, rfl, ?_⟩
    · rw [(finishLift_keeps w i).1, hwsite, ← hv] at hj
      rw [← hactive]
      exact abortAll_jobs hj
    · simp only [hwactive]
      obtain ⟨hon, hover⟩ := finishLift_of_lift (v := w) (by rw [hwtd, hvtd]; rfl)
      refine ⟨fun ha => ?_, fun ha => ?_⟩
      · rw [hon ha, hwtd, hwlink, hvtd, hvlink, hulink]
        exact ⟨rfl, rfl⟩
      · obtain ⟨htd, hlink⟩ := hover ha
        refine ⟨by rw [htd, hwtd, hvtd], fun tag htag => ?_⟩
        rw [hlink tag (by rw [hwtd, hvtd]; exact htag), hwtd, hwlink, hvtd, hvlink, hulink]
        simp only [List.append_assoc]
        rfl

end Sys2Proof.Machine
end

section
/-!
SUPPORT. What leaves the Issue Log's account as it was (R134 to R140): changes after which the records, the reservations, the next
number and the active jobs are the same, and no site waits for a slot that did not, or that is ready no more.
-/
namespace Sys2Proof.Machine

/-- The records, the reservations, the next number and the active jobs stand; whoever waits for a slot waited before, and is ready
if it was. -/
structure State.SameSlots (s t : State) : Prop where
  records : t.log.records = s.log.records
  reservations : t.log.reservations = s.log.reservations
  nextSeq : t.log.nextSeq = s.log.nextSeq
  active : ∀ k, t.active k = s.active k
  waits : ∀ k : SiteNo, t.log.slotWaiters[k] = true →
    s.log.slotWaiters[k] = true ∧ (s.readyToAdmit k = true → t.readyToAdmit k = true)

namespace State.SameSlots

variable {s t u : State}

theorem refl (s : State) : s.SameSlots s := ⟨rfl, rfl, rfl, fun _ => rfl, fun _ h => ⟨h, id⟩⟩

theorem trans (h : s.SameSlots t) (g : t.SameSlots u) : s.SameSlots u where
  records := g.records.trans h.records
  reservations := g.reservations.trans h.reservations
  nextSeq := g.nextSeq.trans h.nextSeq
  active k := (g.active k).trans (h.active k)
  waits k hk :=
    have ⟨ht, hready⟩ := g.waits k hk
    have ⟨hs, hready'⟩ := h.waits k ht
    ⟨hs, fun hr => hready (hready' hr)⟩

theorem foldl {α : Type} {f : State → α → State} (h : ∀ (s : State) (a : α), s.SameSlots (f s a)) (l : List α) (s : State) :
    s.SameSlots (l.foldl f s) := foldl_inv (fun t => s.SameSlots t) f (fun t a ht => ht.trans (h t a)) l s (.refl s)

/-- With the log as it was, a waiting site must stay ready. -/
theorem of_log (hl : t.log = s.log) (ha : ∀ k, t.active k = s.active k)
    (hr : ∀ k : SiteNo, s.readyToAdmit k = true → t.readyToAdmit k = true) : s.SameSlots t :=
  ⟨by rw [hl], by rw [hl], by rw [hl], ha, fun k hk => ⟨by rw [← hl]; exact hk, hr k⟩⟩

theorem of_beside (h : Beside s t) : s.SameSlots t := of_log h.log h.active fun k hk => by rw [h.ready]; exact hk

/-- What touches neither the log nor a site, Touchdown Control or DIE_SUPPLY. -/
theorem of_sites (hs : ∀ k, t.site k = s.site k) (htd : t.td.state = s.td.state)
    (hd : ∀ k, t.condOf k .dieSupply = s.condOf k .dieSupply) (hl : t.log = s.log) : s.SameSlots t :=
  of_beside (beside_of_sites hs htd hd hl)

/-- Unless a touchdown is open no site is ready (R47), so sites and Touchdown Control may change. -/
theorem of_notOpen (hc : s.td.state ≠ .opened) (hl : t.log = s.log) (hj : s.SameJobs t) : s.SameSlots t :=
  of_log hl (fun k => by rw [active_eq_identAt, active_eq_identAt, hj.ident]) fun _ hk =>
    absurd (State.readyToAdmit_spec hk).1 hc

/-- One site's controller replaced by one with the same job, ready if it was. -/
theorem setSite (s : State) {i : SiteNo} {c : SiteCtl} (hj : c.job = (s.site i).job)
    (hr : s.readyToAdmit i = true → (s.setSite i c).readyToAdmit i = true) : s.SameSlots (s.setSite i c) := by
  refine of_log rfl (fun k => ?_) fun k hk => ?_ <;> by_cases e : k = i
  · subst e; simp only [State.active, site_setSite, hj]
  · simp only [State.active, site_setSite_ne _ _ e]
  · subst e; exact hr hk
  · rw [readyToAdmit_congr (s := s) (t := s.setSite i c) rfl (site_setSite_ne s c e) rfl]; exact hk

/-- A site whose posture is not SEATED is not ready, so its controller may change. -/
theorem setSite_unseated (s : State) {i : SiteNo} {c : SiteCtl} (hp : (s.site i).posture ≠ .seated)
    (hj : c.job = (s.site i).job) : s.SameSlots (s.setSite i c) :=
  setSite s hj fun hr => absurd (State.readyToAdmit_spec hr).2.1 hp

/-- A site that leaves the slot-waiter set may stop being ready. -/
theorem leave {i : SiteNo} (hl : t.log = s.log) (htd : t.td = s.td) (hs : ∀ k, k ≠ i → t.site k = s.site k)
    (hd : ∀ k, k ≠ i → t.condOf k .dieSupply = s.condOf k .dieSupply) (hj : (t.site i).job = (s.site i).job) :
    s.SameSlots (t.setSlotWaiter i false) := by
  refine ⟨by simp [hl], by simp [hl], by simp [hl], fun k => ?_, fun k hk => ?_⟩ <;> by_cases e : k = i
  · subst e; simp only [State.active, site_setSlotWaiter, hj]
  · simp only [State.active, site_setSlotWaiter, hs k e]
  · subst e; simp at hk
  · have hne : i.val ≠ k.val := fun e' => e (Fin.ext e'.symm)
    refine ⟨by simpa [hl, Vector.getElem_set_ne i.isLt k.isLt hne] using hk, fun hr => ?_⟩
    rw [readyToAdmit_congr (s := s) (by simp [htd]) (by rw [site_setSlotWaiter, hs k e])
      (by rw [condOf_setSlotWaiter, hd k e])]
    exact hr

theorem evalLogHigh (s : State) : s.SameSlots s.evalLogHigh := by
  refine ⟨by simp, by simp, by simp, fun k => by simp [State.active], fun k hk => ⟨by simpa using hk, fun hr => ?_⟩⟩
  rw [readyToAdmit_congr (s := s) (by simp) (by simp) (by simp)]
  exact hr

theorem finishLift (s : State) : s.SameSlots s.finishLift := by
  by_cases h : s.td.state = .opened
  · rw [State.finishLift, h]; exact refl s
  · exact of_notOpen h (finishLift_log s) (sameJobs_finishLift s)

/-- A condition other than DIE_SUPPLY changes, or DIE_SUPPLY clears. -/
theorem changeCond (s : State) (i : SiteNo) {c : SiteCond} {v : Bool} (h : c = .dieSupply → v = false) :
    s.SameSlots (s.changeCond i c v) := by
  refine of_log (by simp) (fun k => by simp [State.active]) fun k hk => ?_
  by_cases e : k ≠ i ∨ SiteCond.dieSupply ≠ c
  · rw [readyToAdmit_congr (s := s) (by simp) (by simp) (condOf_changeCond_ne _ _ e)]; exact hk
  · obtain ⟨rfl, rfl⟩ : k = i ∧ SiteCond.dieSupply = c := by simpa using e
    obtain ⟨hmay, hq⟩ := (readyToAdmit_iff s k).mp hk
    obtain ⟨hopen, hseated, hused, hjob, -⟩ := hmay
    refine (readyToAdmit_iff _ k).mpr ⟨⟨?_, ?_, ?_, ?_, by rw [condOf_changeCond, h rfl]⟩, ?_⟩ <;>
      simpa only [site_changeCond, changeCond_td]

theorem push (s : State) (f : OutFrame) : s.SameSlots (s.push f) := of_sites (fun _ => rfl) rfl (fun _ => rfl) rfl

theorem reply (s : State) (f : InFrame) (st : Status) (fields : List Byte) : s.SameSlots (s.reply f st fields) := push s _

theorem setSmon (s : State) {i : SiteNo} {m : SiteMon} (h : m.cond = (s.smon i).cond) : s.SameSlots (s.setSmon i m) :=
  of_sites (fun _ => rfl) rfl (fun k => condOf_setSmon s i k m _ h) rfl

theorem withMon (s : State) {m : Monitor} (h : m.site = s.mon.site) : s.SameSlots { s with mon := m } :=
  of_sites (fun _ => rfl) rfl (fun k => by simp only [State.condOf, State.smon, h]) rfl

theorem throttle (s : State) (sc : Scope) : s.SameSlots (s.throttle sc) :=
  of_sites (by simp) (by simp) (by simp) (by simp)

end State.SameSlots

end Sys2Proof.Machine
end

section
/-!
SUPPORT. Properties of the Issue Log that its account and the shared operations keep are kept by every command (R134 to R140): so
are the sequence numbers (State.SeqInv) and the account of the slots (State.LogInv).
-/
namespace Sys2Proof.Machine
open State (SameJobs SameSlots)

/-! ### A rule of the log -/

/-- The machine with that many records removed from the head of the log (R142). -/
def State.dropRecords (s : State) (n : Nat) : State := s.setLog { s.log with records := s.log.records.drop n }

/-- A property that holds after a unit reset, and that the account of the slots and each operation that ends jobs, admits them or
removes records keeps. -/
structure LogRule (P : State → Prop) : Prop where
  same : ∀ {s t : State}, P s → s.SameSlots t → P t
  abort : ∀ {s : State} (i : SiteNo) (p : PendingEnd), P s → P (s.abort i p)
  perform : ∀ {s : State} {i : SiteNo} {j : Job} (m : Move), (s.site i).job = some j → P s → P (s.perform i m)
  driveCut : ∀ {s : State} (i : SiteNo) (o : JobOutcome), P s → P (s.driveCut i o)
  attemptEnded : ∀ {s : State} (i : SiteNo) (x : Exchange) (e : Ending), P s → P (s.attemptEnded i x e)
  handOut : ∀ {s : State} (l : List SiteNo), P s → P (State.handOut l s)
  testAdmission : ∀ (s : State) (i : SiteNo), P s → P (s.testAdmission i)
  handSlot : ∀ (s : State) (i : SiteNo), P s → P (s.handSlot i)
  dropRecords : ∀ {s : State} (n : Nat), P s → P (s.dropRecords n)
  reset : ∀ (s : State) (cause : ResetCause) (held : Bool), P (s.blocksReset cause held)

theorem State.SeqInv.dropRecords {s : State} (h : s.SeqInv) (n : Nat) : (s.dropRecords n).SeqInv := by
  refine ⟨h.nextNonzero, fun r hr => h.nonzero r (List.mem_of_mem_drop hr), followOn_drop h.chain n, fun r hr => h.last r ?_⟩
  rw [State.dropRecords, setLog_log, List.getLast?_drop] at hr
  split at hr
  · cases hr
  · exact hr

theorem State.SeqInv.handSlot {s : State} (h : s.SeqInv) (i : SiteNo) : (s.handSlot i).SeqInv := by
  unfold State.handSlot
  split
  · exact h.congr (by simp) (by simp)
  · exact h

theorem blocksReset_seqInv (s : State) (cause : ResetCause) (held : Bool) : (s.blocksReset cause held).SeqInv := by
  constructor <;> simp [State.blocksReset, IssueLog.afterReset, followOn]

/-- R140: the sequence numbers are a rule of the log. -/
theorem seqInv_logRule : LogRule State.SeqInv where
  same h g := h.congr g.records g.nextSeq
  abort i p h := h.abort i p
  perform m _ h := h.perform _ m
  driveCut i o h := h.driveCut i o
  attemptEnded i x e h := h.attemptEnded i x e
  handOut l h := h.handOut l
  testAdmission _ i h := h.testAdmission i
  handSlot _ i h := h.handSlot i
  dropRecords n h := h.dropRecords n
  reset := blocksReset_seqInv

theorem State.LogInv.same {s t : State} (h : s.LogInv) (g : s.SameSlots t) : t.LogInv := by
  refine ⟨?_, ?_, fun k hk => ?_⟩
  · rw [IssueLog.slotsInUse, g.records, g.reservations]; exact h.room
  · rw [g.reservations, h.account]
    exact List.countP_congr fun k _ => by rw [g.active]
  · obtain ⟨hwait, hready⟩ := g.waits k hk
    exact hready (h.waiters k hwait)

theorem State.LogInv.dropRecords {s : State} (h : s.LogInv) (n : Nat) : (s.dropRecords n).LogInv := by
  refine ⟨le_trans ?_ h.room, h.account, h.waiters⟩
  simp only [IssueLog.slotsInUse, State.dropRecords, setLog_log, List.length_drop]
  omega

theorem blocksReset_logInv (s : State) (cause : ResetCause) (held : Bool) : (s.blocksReset cause held).LogInv := by
  have hidle : ∀ i, (s.blocksReset cause held).active i = false := fun i => by
    simp [State.active, State.site, State.blocksReset, SiteCtl.afterReset]
  refine ⟨Nat.zero_le _, ?_, fun i hi => by simp [State.blocksReset, IssueLog.afterReset] at hi⟩
  exact (List.countP_eq_zero.mpr fun i _ => by rw [hidle]; decide).symm

/-- R135 to R138: the account of the slots is a rule of the log. -/
theorem logInv_logRule : LogRule State.LogInv where
  same h g := h.same g
  abort i p h := h.abort i p
  perform m hj h := h.perform hj m
  driveCut i o h := h.driveCut i o
  attemptEnded i x e h := h.attemptEnded i x e
  handOut l h := h.handOut l
  testAdmission _ i h := h.testAdmission i
  handSlot _ i h := h.handSlot i
  dropRecords n h := h.dropRecords n
  reset := blocksReset_logInv

/-! ### Requests -/

theorem applyEntry_log (s : State) (e : ParamId × Nat) : (s.applyEntry e).log = s.log := by
  have henable : ∀ (before : SiteSet) (s : State) (i : SiteNo), (State.enableSite before s i).log = s.log := fun before s i => by
    unfold State.enableSite; (repeat' split) <;> rfl
  obtain ⟨p, v⟩ := e
  cases p
  case sitesEnabled => exact forSites_inv (fun t => t.log = s.log) _ (fun t i ht => (henable _ t i).trans ht) _ rfl
  case poolLowThreshold => simp only [State.applyEntry]; split <;> simp
  all_goals rfl

/-- CONFIGURE is carried out in CLEAR alone (R170), where no site is ready. -/
theorem sameSlots_doConfigure (s : State) (f : InFrame) : s.SameSlots (s.doConfigure f) := by
  unfold State.doConfigure
  split
  · exact .reply s f _ _
  · next es _ =>
    split
    · exact .reply s f _ _
    · next hclear =>
      split
      · exact .reply s f _ _
      · have hopen : s.td.state ≠ .opened := fun e => hclear (by rw [e]; decide)
        have happly : s.SameSlots (es.foldl State.applyEntry s) :=
          .of_notOpen hopen (foldl_keeps State.log _ applyEntry_log es s) (SameJobs.foldl sameJobs_applyEntry es s)
        exact happly.trans (.reply _ f _ _)

theorem sameSlots_doSetEnables (s : State) (f : InFrame) : s.SameSlots (s.doSetEnables f) := by
  have hload : s.SameSlots (forSites (State.loadEnables f.payload) s) :=
    SameSlots.foldl (fun s i => by unfold State.loadEnables; exact .setSmon s rfl) allSites s
  have henables : ∀ t : State, t.SameSlots { t with mon := { t.mon with enables := globalEnables f.payload } } :=
    fun t => .withMon t rfl
  exact ((hload.trans (henables _)).trans (SameSlots.foldl SameSlots.throttle allScopes _)).trans (.reply _ f _ _)

theorem sameSlots_doReadEvents (s : State) (f : InFrame) : s.SameSlots (s.doReadEvents f) := by
  unfold State.doReadEvents
  split
  · exact .reply s f _ _
  · next sc _ =>
    cases sc with
    | site i => exact (SameSlots.reply s f _ _).trans (.setSmon _ rfl)
    | global => exact (SameSlots.reply s f _ _).trans (.withMon _ rfl)

theorem sameSlots_doDiscardKeys (s : State) (f : InFrame) : s.SameSlots (s.doDiscardKeys f) :=
  (SameSlots.of_beside ((beside_setKs s _).trans (beside_evalPoolLow _))).trans (.reply _ f _ _)

/-- TOUCHDOWN in CLEAR, up to the tests of admission (R124). -/
theorem sameSlots_openSites {s : State} (hclear : s.td.state = .clear) :
    s.SameSlots (forSites State.sampleDieSupply (forSites (fun s i => s.setCond i .link false)
      (forSites State.startSeating (s.setTd { s.td with state := .opened, number := nextNumber s.td.number })))) := by
  rw [openSites_eq]
  refine .of_notOpen (by rw [hclear]; decide) rfl ⟨rfl, fun i => ?_⟩
  simp only [State.identAt, perSite_site, Fin.getElem_fin, Vector.getElem_ofFn, Fin.eta, State.openedSite, site_setTd]
  split <;> rfl

theorem sameSlots_beginLift (s : State) (td : Touchdown) :
    s.SameSlots ((s.setTd td).setLog { s.log with slotWaiters := Vector.replicate 16 false }) :=
  ⟨rfl, rfl, rfl, fun _ => rfl, fun k hk => by simp at hk⟩

theorem sameSlots_dropQueue (s : State) (i : SiteNo) : s.SameSlots (s.dropQueue i) :=
  .leave rfl rfl (fun _ hk => site_setSite_ne _ _ hk) (fun _ _ => rfl) (by rw [site_setSite])

/-- A further posted job leaves a ready site ready. -/
theorem sameSlots_postQueue (s : State) (i : SiteNo) (p : Posting) :
    s.SameSlots (s.setSite i { s.site i with queue := (s.site i).queue ++ [p] }) := by
  refine .setSite s rfl fun hr => ?_
  obtain ⟨⟨hopen, hseated, hused, hjob, hsupply⟩, -⟩ := (readyToAdmit_iff s i).mp hr
  exact (readyToAdmit_iff _ i).mpr ⟨⟨hopen, by rw [site_setSite]; exact hseated, by rw [site_setSite]; exact hused,
    by rw [site_setSite]; exact hjob, hsupply⟩, by rw [site_setSite]; simp⟩

section LogRule

variable {P : State → Prop} (hP : LogRule P) {s : State}
include hP

theorem LogRule.reply (h : P s) (f : InFrame) (st : Status) (fields : List Byte) : P (s.reply f st fields) :=
  hP.same h (.reply s f st fields)

theorem LogRule.finishLift (h : P s) : P s.finishLift := hP.same h (.finishLift s)

theorem LogRule.leaveReset (h : P s) : P s.leaveReset := hP.same h (.of_sites (fun _ => rfl) rfl (fun _ => rfl) rfl)

theorem LogRule.abortAll (h : P s) : P s.abortAll := forSites_inv P _ (fun _ i h => hP.abort i _ h) s h

theorem LogRule.doTouchdown (h : P s) (f : InFrame) : P (s.doTouchdown f) := by
  unfold State.doTouchdown
  split
  · next hclear =>
    exact hP.reply (forSites_inv P _ hP.testAdmission _ (hP.same h (sameSlots_openSites hclear))) _ _ _
  · exact hP.reply h _ _ _

theorem LogRule.beginLift (h : P s) (tag : BitVec 6) (toAbort : Bool) : P (s.beginLift tag toAbort) := by
  unfold State.beginLift
  split
  · exact hP.abortAll (hP.same h (sameSlots_beginLift s _))
  · exact hP.same h (sameSlots_beginLift s _)

theorem LogRule.mergeLift (h : P s) (toAbort : Bool) : P (s.mergeLift toAbort) := by
  unfold State.mergeLift
  split
  · next hc =>
    have hdrain : s.td.state = .liftingDrain := of_decide_eq_true (Bool.and_eq_true_iff.mp hc).2
    exact hP.abortAll (hP.same h (.of_notOpen (by rw [hdrain]; decide) rfl (.of_sites (fun _ => rfl) rfl)))
  · exact h

theorem LogRule.doLiftoff (h : P s) (f : InFrame) : P (s.doLiftoff f) := by
  unfold State.doLiftoff
  split
  · exact hP.reply h _ _ _
  · split
    case h_1 => exact hP.reply h _ _ _
    case h_2 => exact hP.finishLift (hP.beginLift h _ _)
    all_goals exact hP.finishLift (hP.reply (hP.mergeLift h _) _ _ _)

theorem LogRule.doLoadKeys (h : P s) (f : InFrame) : P (s.doLoadKeys f) := by
  simp only [State.doLoadKeys]
  split
  · exact hP.reply h _ _ _
  · split
    · exact hP.reply h _ _ _
    · refine hP.finishLift (hP.reply (hP.same (hP.handOut _ ?_) (.of_beside (beside_evalPoolLow _))) _ _ _)
      exact hP.same h (.of_beside (beside_setKs s _))

theorem LogRule.doProvision (h : P s) (f : InFrame) : P (s.doProvision f) := by
  have hpost : ∀ (i : SiteNo) (p : Posting), P (s.postJob i p) := fun i p => by
    have hqueue := hP.same h (sameSlots_postQueue s i p)
    simp only [State.postJob]
    split
    · exact hP.testAdmission _ i hqueue
    · exact hqueue
  simp only [State.doProvision]
  split
  · exact hP.reply h _ _ _
  · split
    · exact hP.reply h _ _ _
    · split
      · exact hP.reply h _ _ _
      · exact hP.reply (hpost _ _) _ _ _

theorem LogRule.doCancel (h : P s) (f : InFrame) : P (s.doCancel f) := by
  unfold State.doCancel
  split
  · next i queued takeActive _ _ =>
    have hdrop : P (if queued then s.dropQueue i else s) := by
      split
      · exact hP.same h (sameSlots_dropQueue s i)
      · exact h
    refine hP.finishLift (hP.reply ?_ f .ok _)
    cases takeActive with
    | true => exact hP.abort i _ hdrop
    | false => exact hdrop
  · exact hP.reply h _ _ _

theorem LogRule.doClearRecords (h : P s) (f : InFrame) : P (s.doClearRecords f) := by
  have hremoved := hP.dropRecords (numAt f.payload 0 2) h
  simp only [State.doClearRecords]
  split
  · exact hP.reply (hP.same (forSites_inv P _ hP.handSlot _ hremoved) (.evalLogHigh _)) _ _ _
  · exact hP.reply (hP.same hremoved (.evalLogHigh _)) _ _ _

end LogRule

/-! ### Every command -/

/-- A step's answer in which a property of the state holds. -/
def Keeps (P : State → Prop) (r : StepResult) : Prop := ∀ t, r = .next t → P t

theorem keeps_next {P : State → Prop} {t : State} (h : P t) : Keeps P (.next t) := by rintro _ ⟨⟩; exact h

theorem keeps_fault (P : State → Prop) (f : Fault) : Keeps P (.fault f) := by rintro _ ⟨⟩

theorem sameSlots_setContactPin (s : State) (i : SiteNo) (v : Bool) : s.SameSlots (s.setContactPin i v) :=
  .of_sites (fun _ => rfl) rfl (fun _ => rfl) rfl

theorem sameSlots_setOverLimitPin (s : State) (i : SiteNo) (v : Bool) : s.SameSlots (s.setOverLimitPin i v) :=
  .of_sites (fun _ => rfl) rfl (fun _ => rfl) rfl

theorem beside_setPumpPin (s : State) (v : Bool) : Beside s (s.setPumpPin v) :=
  beside_of_sites (fun _ => rfl) rfl (fun _ => rfl) rfl

section Commands

variable {P : State → Prop} (hP : LogRule P) {s : State} (h : P s)
include hP h

theorem LogRule.next {t : State} (g : s.SameSlots t) : Keeps P (.next t) := keeps_next (hP.same h g)

theorem LogRule.takeFrame (is : InFrame → Bool) (act : State → InFrame → State)
    (hact : ∀ (s : State) (f : InFrame), P s → P (act s f)) : Keeps P (s.takeFrame is act) := by
  unfold State.takeFrame
  split
  · exact keeps_fault P _
  · split
    · exact keeps_fault P _
    · split
      · exact keeps_next (hact _ _ (hP.same h (.of_sites (t := s.dropFront) (fun _ => rfl) rfl (fun _ => rfl) rfl)))
      · exact keeps_fault P _

theorem LogRule.takeRequest (kind : Byte) (ok : List Byte → Bool) (act : State → InFrame → State)
    (hact : ∀ (s : State) (f : InFrame), P s → P (act s f)) : Keeps P (s.takeRequest kind ok act) := by
  refine hP.takeFrame h _ _ fun s f h => ?_
  split
  · exact hact s f h
  · exact hP.reply h _ _ _

theorem LogRule.controlLinkByteReceived (b : Byte) (stopHigh : Bool) :
    Keeps P (execControlLinkByteReceived b stopHigh s) := by
  unfold execControlLinkByteReceived
  (repeat' split) <;> exact hP.next h (.of_sites (site_of_sites (by simp)) (by simp) (condOf_of_mon (by simp) · _) (by simp))

theorem LogRule.gapTimerExpiry : Keeps P (execGapTimerExpiry s) := by
  unfold execGapTimerExpiry
  split
  · exact hP.next h (.of_sites (fun _ => rfl) rfl (fun _ => rfl) rfl)
  · exact keeps_fault P _

theorem LogRule.frameLastByteSent : Keeps P (execFrameLastByteSent s) := by
  unfold execFrameLastByteSent
  split
  · exact keeps_fault P _
  · split
    · exact keeps_next (hP.leaveReset (hP.reset _ _ _))
    · exact hP.next h (.of_sites (fun _ => rfl) rfl (fun _ => rfl) rfl)

theorem LogRule.resetReleased : Keeps P (execResetReleased s) := by
  unfold execResetReleased
  split
  · exact keeps_next (hP.leaveReset h)
  · exact keeps_fault P _

/-! #### Site inputs and seat timers -/

theorem LogRule.contactSensed (i : SiteNo) : Keeps P (execContactSensed i s) := by
  have hpin := hP.same h (sameSlots_setContactPin s i true)
  simp only [execContactSensed]
  split
  case h_1 hp => exact hP.next hpin (.setSite_unseated _ (by rw [hp]; decide) rfl)
  all_goals exact keeps_next hpin

theorem LogRule.contactDropped (i : SiteNo) : Keeps P (execContactDropped i s) := by
  have hpin := hP.same h (sameSlots_setContactPin s i false)
  simp only [execContactDropped]
  split
  case h_1 hp => exact hP.next hpin (.setSite_unseated _ (by rw [hp]; decide) rfl)
  case h_2 =>
    refine keeps_next (hP.finishLift (hP.driveCut _ _ (hP.same hpin (.leave ?_ ?_ (fun k hk => ?_) (fun k hk => ?_) ?_))))
    · simp
    · simp
    · rw [site_changeCond, site_setSite_ne _ _ hk]
    · rw [condOf_changeCond_ne _ _ (.inl hk), condOf_setSite]
    · rw [site_changeCond, site_setSite]
  all_goals exact keeps_next hpin

theorem LogRule.dieSupplyAsserted (i : SiteNo) : Keeps P (execDieSupplyAsserted i s) := by
  have hpin := hP.same h (sameSlots_setOverLimitPin s i true)
  simp only [execDieSupplyAsserted]
  split
  · refine keeps_next (hP.finishLift (hP.driveCut _ _ (hP.same hpin (.leave ?_ ?_ (fun k _ => ?_) (fun k hk => ?_) ?_))))
    · simp
    · simp
    · rw [site_changeCond]
    · exact condOf_changeCond_ne _ _ (.inl hk)
    · rw [site_changeCond]
  · exact keeps_next hpin

theorem LogRule.dieSupplyDeasserted (i : SiteNo) : Keeps P (execDieSupplyDeasserted i s) := by
  have hpin := hP.same h (sameSlots_setOverLimitPin s i false)
  simp only [execDieSupplyDeasserted]
  split
  · exact keeps_next (hP.testAdmission _ i (hP.same hpin (.changeCond _ i fun _ => rfl)))
  · exact keeps_next hpin

/-- A SEATING site becomes SEATED, CONTACT clears, and admission is tested (R42). -/
theorem LogRule.seat {i : SiteNo} (hp : (s.site i).posture = .seating) : P (s.seat i) := by
  have hseated := hP.same h (.setSite_unseated s
    (c := { s.site i with posture := .seated, debounce := none, seatTimeout := none }) (by rw [hp]; decide) rfl)
  unfold State.seat
  refine hP.testAdmission _ i ?_
  split
  · exact hP.same hseated (.changeCond _ i (by simp))
  · exact hseated

/-- A site's timers stopped or started leave it as ready as it was. -/
theorem LogRule.retimed (i : SiteNo) (debounce seatTimeout : Option Nat) :
    P (s.setSite i { s.site i with debounce := debounce, seatTimeout := seatTimeout }) :=
  hP.same h (.of_beside (beside_setSite s i _ rfl rfl rfl rfl))

theorem LogRule.debounceExpiry (i : SiteNo) : Keeps P (execDebounceExpiry i s) := by
  unfold execDebounceExpiry
  split
  · exact keeps_fault P _
  · split
    · next hp => exact keeps_next (hP.seat h hp)
    · exact keeps_next (hP.retimed h i _ _)

theorem LogRule.seatTimeoutExpiry (i : SiteNo) : Keeps P (execSeatTimeoutExpiry i s) := by
  have hstop : P (s.setSite i { s.site i with seatTimeout := none }) := hP.retimed h i _ _
  simp only [execSeatTimeoutExpiry]
  split
  · exact keeps_fault P _
  · split
    case h_1 | h_2 => exact hP.next hstop (.changeCond _ i (by simp))
    all_goals exact keeps_next hstop

/-! #### The programming supply -/

theorem LogRule.pumpFaultAsserted : Keeps P (execPumpFaultAsserted s) := by
  have hpin := beside_setPumpPin s true
  simp only [execPumpFaultAsserted]
  split
  · exact hP.next h (.of_beside hpin)
  · exact hP.next h (.of_beside ((hpin.trans (beside_setArb _ _)).trans (beside_latchGlobal _ _)))

theorem LogRule.pumpFaultDeasserted : Keeps P (execPumpFaultDeasserted s) := by
  have hpin := beside_setPumpPin s false
  simp only [execPumpFaultDeasserted]
  split
  · exact hP.next h (.of_beside hpin)
  · exact hP.next h
      (.of_beside (((hpin.trans (beside_setArb _ _)).trans (beside_latchGlobal _ _)).trans (beside_grantTest _)))

theorem LogRule.pumpHoldExpiry : Keeps P (execPumpHoldExpiry s) := by
  have habort : ∀ (a : Arbiter) (s : State) (i : SiteNo), P s → P (State.abortWaiter a s i) := fun a s i h => by
    unfold State.abortWaiter
    split
    · exact hP.abort i _ h
    · exact h
  unfold execPumpHoldExpiry
  split
  · exact keeps_fault P _
  · exact keeps_next (hP.finishLift (forSites_inv P _ (habort s.arb) _ (hP.same h (.of_beside (beside_setArb s _)))))

/-! #### Die ports and the Row Engines' timers -/

theorem LogRule.dieResponseComplete (i : SiteNo) (ddi : Wire) (openLeft : Nat) :
    Keeps P (execDieResponseComplete i ddi openLeft s) := by
  simp only [execDieResponseComplete]
  split
  · exact keeps_next h
  · split
    · exact keeps_next h
    · split
      · exact hP.next h (.of_beside (beside_setPort s i _))
      · exact keeps_next (hP.finishLift (hP.attemptEnded _ _ _ (hP.same h (.of_beside (beside_noteOpenLeft s i _)))))

theorem LogRule.dieResponseDeadlineExpiry (i : SiteNo) (openLeft : Nat) :
    Keeps P (execDieResponseDeadlineExpiry i openLeft s) := by
  unfold execDieResponseDeadlineExpiry
  split
  · exact keeps_fault P _
  · split
    · exact keeps_fault P _
    · exact keeps_next (hP.finishLift (hP.attemptEnded _ _ _ (hP.same h (.of_beside (beside_noteOpenLeft s i _)))))

theorem LogRule.settleTimerExpiry (i : SiteNo) : Keeps P (execSettleTimerExpiry i s) := by
  unfold execSettleTimerExpiry
  split
  · exact keeps_fault P _
  · next j hj =>
    split
    · exact keeps_fault P _
    · exact keeps_next (hP.finishLift (hP.perform _ hj h))

theorem LogRule.openTimerExpiry (i : SiteNo) : Keeps P (execOpenTimerExpiry i s) := by
  unfold execOpenTimerExpiry
  split
  · exact keeps_fault P _
  · next j hj =>
    split
    · exact keeps_fault P _
    · split
      · have hsite : ((s.withdraw i).site i).job = some j := by rw [(withdraw_self s i).1]; exact hj
        exact keeps_next (hP.perform _ hsite (hP.same h (.of_beside (beside_withdraw s i))))
      · exact keeps_fault P _

theorem LogRule.restTimerExpiry (i : SiteNo) : Keeps P (execRestTimerExpiry i s) := by
  unfold execRestTimerExpiry
  split
  · exact keeps_fault P _
  · next j hj =>
    split
    · exact keeps_fault P _
    · exact keeps_next (hP.perform _ hj h)

theorem LogRule.setDie (i : SiteNo) (d : Die) : P (s.setDie i d) :=
  hP.same h (.of_sites (fun _ => rfl) rfl (fun _ => rfl) rfl)

theorem LogRule.dieCommand (i : SiteNo) (code : Byte) (act : Die → DieFrame → Die × DieAnswer) :
    Keeps P (s.dieCommand i code act) := by
  unfold State.dieCommand
  split
  · exact keeps_next (hP.setDie h i _)
  · exact keeps_fault P _

theorem LogRule.commandFrameSent (i : SiteNo) (ddo : Wire) : Keeps P (execCommandFrameSent i ddo s) := by
  simp only [execCommandFrameSent]
  split
  · exact keeps_fault P _
  · split
    · exact keeps_fault P _
    · exact keeps_next (hP.setDie (hP.same h (.of_beside (beside_setPort s i _))) i _)

/-- Every command keeps a rule of the log. -/
theorem LogRule.exec (c : Instr) : Keeps P (Sys2Proof.Machine.exec c s) := by
  cases c with
  | controlLinkByteReceived b stopHigh => exact hP.controlLinkByteReceived h b stopHigh
  | gapTimerExpiry => exact hP.gapTimerExpiry h
  | frameLastByteSent => exact hP.frameLastByteSent h
  | heldStatusReply =>
    refine hP.takeFrame h _ _ fun s f h => ?_
    unfold State.doHeldStatus
    split
    · exact hP.reply h _ _ _
    · exact h
  | badRequest => exact hP.takeFrame h _ (fun s f => s.reply f .badRequest []) fun s f h => hP.reply h f _ _
  | identify => exact hP.takeRequest h _ _ _ fun s f h => hP.reply h f .ok s.identifyFields
  | status => exact hP.takeRequest h _ _ _ fun s f h => hP.reply h f .ok s.statusFields
  | configure => exact hP.takeRequest h _ _ _ fun s f h => hP.same h (sameSlots_doConfigure s f)
  | setEnables => exact hP.takeRequest h _ _ _ fun s f h => hP.same h (sameSlots_doSetEnables s f)
  | touchdown => exact hP.takeRequest h _ _ _ fun s f h => hP.doTouchdown h f
  | liftoff => exact hP.takeRequest h _ _ _ fun s f h => hP.doLiftoff h f
  | resetUnit =>
    exact hP.takeRequest h _ _ _ fun s f h => hP.same h (.of_sites (s := s) (fun _ => rfl) rfl (fun _ => rfl) rfl)
  | loadKeys => exact hP.takeRequest h _ _ _ fun s f h => hP.doLoadKeys h f
  | discardKeys => exact hP.takeRequest h _ _ _ fun s f h => hP.same h (sameSlots_doDiscardKeys s f)
  | provision => exact hP.takeRequest h _ _ _ fun s f h => hP.doProvision h f
  | cancel => exact hP.takeRequest h _ _ _ fun s f h => hP.doCancel h f
  | readRecords => exact hP.takeRequest h _ _ _ fun s f h => hP.reply h f _ _
  | clearRecords => exact hP.takeRequest h _ _ _ fun s f h => hP.doClearRecords h f
  | readEvents => exact hP.takeRequest h _ _ _ fun s f h => hP.same h (sameSlots_doReadEvents s f)
  | powerOn | resetLineAsserted => exact keeps_next (hP.reset s _ _)
  | resetReleased => exact hP.resetReleased h
  | contactSensed i => exact hP.contactSensed h i
  | contactDropped i => exact hP.contactDropped h i
  | debounceExpiry i => exact hP.debounceExpiry h i
  | seatTimeoutExpiry i => exact hP.seatTimeoutExpiry h i
  | dieSupplyAsserted i => exact hP.dieSupplyAsserted h i
  | dieSupplyDeasserted i => exact hP.dieSupplyDeasserted h i
  | pumpFaultAsserted => exact hP.pumpFaultAsserted h
  | pumpFaultDeasserted => exact hP.pumpFaultDeasserted h
  | pumpHoldExpiry => exact hP.pumpHoldExpiry h
  | dieResponseComplete i ddi openLeft => exact hP.dieResponseComplete h i ddi openLeft
  | dieResponseDeadlineExpiry i openLeft => exact hP.dieResponseDeadlineExpiry h i openLeft
  | settleTimerExpiry i => exact hP.settleTimerExpiry h i
  | openTimerExpiry i => exact hP.openTimerExpiry h i
  | restTimerExpiry i => exact hP.restTimerExpiry h i
  | diePowerOn i cells => exact keeps_next (hP.setDie h i _)
  | reset i | closeAll i | enterProvisioning i | sense i | openRow i | pulse i a b | closeRow i | reload i | readShadow i =>
    exact hP.dieCommand h i _ _
  | commandFrameSent i ddo => exact hP.commandFrameSent h i ddo

/-- A step keeps a rule of the log: by `LogRule.exec` for the command in front, and no rule reads the queue of commands. -/
theorem LogRule.step {t : State} (hstep : Sys2Proof.Machine.step s = .next t) : P t := by
  unfold Sys2Proof.Machine.step at hstep
  split at hstep
  · obtain rfl := Host.Outcome.next.inj hstep
    exact h
  · next c rest _ =>
    have hrest : P { s with pending := rest } := hP.same h (.of_sites (fun _ => rfl) rfl (fun _ => rfl) rfl)
    exact hP.exec hrest c t hstep

end Commands

/-! ### The statements -/

/-- Settles O35: the sequence numbers are a rule of the log, where a job end alone takes a number. -/
theorem stepKeepsSequenceNumbers : Obligations.StepKeepsSequenceNumbers := by
  unfold Obligations.StepKeepsSequenceNumbers
  exact fun s t h hstep => seqInv_logRule.step h hstep

/-- Settles O36: the account of the slots is a rule of the log, where an admission takes a free slot and a job end gives its
reservation to its record. -/
theorem stepKeepsLogAccount : Obligations.StepKeepsLogAccount := by
  unfold Obligations.StepKeepsLogAccount
  exact fun s t h hstep => logInv_logRule.step h hstep

end Sys2Proof.Machine
end

section
/-!
SUPPORT. READ RECORDS (R141, R178): the fields of a record read back from its bytes.
-/
namespace Sys2Proof.Machine

/-! ### The layout of a record (R175, R178) -/

theorem numAt_drop (p : List Byte) (k n : Nat) : numAt (p.drop k) 0 n = numAt p k n := by
  have hbyte : ∀ j, byteAt (p.drop k) j = byteAt p (k + j) := fun j => by simp [byteAt, List.getD_eq_getElem?_getD]
  have hfrom : ∀ j, numAt (p.drop k) j n = numAt p (k + j) n := by
    induction n with
    | zero => exact fun _ => rfl
    | succ n ih => exact fun j => by rw [numAt, numAt, hbyte, ih, Nat.add_assoc]
  exact hfrom 0

/-- A number that stands at an offset is read back there. -/
theorem numAt_field {p : List Byte} {k n w : Nat} (h : p.drop k = bytesLE n w ++ p.drop (k + n)) (hw : w < 256 ^ n) :
    numAt p k n = w := by
  rw [← numAt_drop, h, numAt_bytesLE _ hw]

theorem length_recordBytes (r : Record) : r.bytes.length = 28 := by simp [Record.bytes]

theorem toInt_outcomeCode (o : JobOutcome) : o.code.toInt = o.value := by cases o <;> rfl

/-- A number of one byte. -/
theorem numAt_byte {p : List Byte} {k w : Nat} (h : byteAt p k = BitVec.ofNat 8 w) (hw : w < 256) : numAt p k 1 = w := by
  rw [show numAt p k 1 = (byteAt p k).toNat from rfl, h, BitVec.toNat_ofNat, Nat.mod_eq_of_lt hw]

theorem byteAt_failingRow (r : Record) :
    byteAt r.bytes 17 = (match r.failingRow with | some q => BitVec.ofNat 8 q.val | none => 0xFF) := rfl

theorem numAt_keyIndex (r : Record) : numAt r.bytes 20 4 = (match r.keyIndex with | some k => k.toNat | none => 0) := by
  refine numAt_field rfl ?_
  split
  · next k _ => exact k.isLt
  · decide

theorem numAt_disposition (r : Record) :
    numAt r.bytes 19 1 = (match r.disposition with | .none => 0 | .issued => 1 | .retired => 2) := by
  rw [show numAt r.bytes 19 1 = r.disposition.code.toNat from rfl]
  cases r.disposition <;> rfl

/-! ### The statement -/

/-- Settles O33: the payload's numbers are read back, and each field of a record at its offset by `numAt_field`. -/
theorem readRecordsReturnsOldestFirst : Obligations.ReadRecordsReturnsOldestFirst := by
  unfold Obligations.ReadRecordsReturnsOldestFirst
  refine ⟨fun s f rest m limit hfront hpay => ⟨_, rfl, ?_⟩, fun r => ⟨length_recordBytes r, ?_⟩⟩
  · have hmax : numAt f.payload 0 1 = m.toNat := by rw [hpay]; rfl
    have hlimit : numAt f.payload 1 2 = limit.toNat := by
      rw [hpay, numAt_cons, ← List.append_nil (bytesLE 2 _)]
      exact numAt_bytesLE _ limit.isLt
    have hexec : exec .readRecords s = .next ((s.taken rest).doReadRecords f) :=
      takeRequest_front hfront (ok := lengthIs 3) (by simp [hpay, lengthIs]) State.doReadRecords
    rw [hexec, State.doReadRecords, hmax, hlimit, ← min_assoc]
    rfl
  · refine ⟨numAt_field rfl r.seq.isLt, numAt_field rfl r.posting.tag.isLt, numAt_byte rfl (r.site.isLt.trans (by decide)),
      numAt_field rfl r.touchdown.isLt, numAt_field rfl r.posting.lot.isLt, rfl, rfl, rfl, fun q hq => ?_, fun hq => ?_,
      toInt_outcomeCode r.outcome, numAt_disposition r, fun k hk => by rw [numAt_keyIndex, hk],
      fun hk => by rw [numAt_keyIndex, hk], numAt_byte rfl, numAt_byte rfl, fun hp => ?_⟩
    · exact numAt_byte (by rw [byteAt_failingRow, hq]) (q.isLt.trans (by decide))
    · exact numAt_byte (by rw [byteAt_failingRow, hq]; rfl) (by decide)
    · exact numAt_field (w := r.pulses) rfl hp

end Sys2Proof.Machine
end

section
/-!
SUPPORT. CLEAR RECORDS (R136, R138, R142, R143): the slots handed out site by site, LOG_HIGH evaluated behind them.
-/
namespace Sys2Proof.Machine

/-! ### One slot handed out (R138) -/

/-- The slots that are free (R134). -/
def IssueLog.free (l : IssueLog) : Nat := 256 - (l.records.length + l.reservations)

/-- How many sites of a list wait for a slot ahead of a site. -/
def IssueLog.ahead (l : IssueLog) (sites : List SiteNo) (i : SiteNo) : Nat :=
  sites.countP (fun k => decide (k < i) && l.slotWaiters[k])

/-- With nobody waiting at the site, or no slot free, nothing is handed out. -/
theorem handSlot_idle {s : State} {i : SiteNo} (h : s.log.slotWaiters[i] = false ∨ s.log.free = 0) : s.handSlot i = s := by
  unfold State.handSlot
  rw [if_neg]
  intro hc
  obtain ⟨hwait, hroom⟩ := Bool.and_eq_true_iff.mp hc
  have hroom : s.log.records.length + s.log.reservations < 256 := of_decide_eq_true hroom
  rcases h with h | h
  · rw [h] at hwait; cases hwait
  · unfold IssueLog.free at h; omega

/-- A free slot goes to a site that waits: it leaves the set, and its head job is admitted (R48, R138). -/
theorem handSlot_serves {s : State} {i : SiteNo} {p : Posting} {q : List Posting} (hw : s.log.slotWaiters[i] = true)
    (hfree : 0 < s.log.free) (hq : (s.site i).queue = p :: q) :
    s.handSlot i = (s.setSite i ((s.site i).admitted p q s.td.number)).setLog { s.log with
      reservations := s.log.reservations + 1, slotWaiters := s.log.slotWaiters.set i.val false i.isLt } := by
  have hroom : s.log.slotsInUse < Config.logSlots := by
    unfold IssueLog.free at hfree
    show s.log.records.length + s.log.reservations < 256
    omega
  rw [State.handSlot, if_pos (by rw [hw, decide_eq_true hroom]; rfl),
    admitHead_eq (s.setSlotWaiter i false) (p := p) (rest := q) hq]
  rfl

/-! ### The hand-out, site by site -/

/-- What handing slots to the sites of a list does: in their order, one each while slots last. -/
structure State.HandsSlots (s t : State) (sites : List SiteNo) : Prop where
  log : t.log = { s.log with
    reservations := s.log.reservations + min s.log.free (sites.countP (fun i => s.log.slotWaiters[i]))
    slotWaiters := t.log.slotWaiters }
  served : ∀ i ∈ sites, s.log.slotWaiters[i] = true → s.log.ahead sites i < s.log.free →
    t.log.slotWaiters[i] = false ∧ ∃ p q, (s.site i).queue = p :: q ∧ t.site i = (s.site i).admitted p q s.td.number
  passed : ∀ i : SiteNo, i ∉ sites ∨ s.log.slotWaiters[i] = false ∨ s.log.free ≤ s.log.ahead sites i →
    t.log.slotWaiters[i] = s.log.slotWaiters[i] ∧ t.site i = s.site i
  rest : t = { s with sites := t.sites, log := t.log }

/-- In an ascending list nobody stands ahead of the first site. -/
theorem ahead_head (l : IssueLog) {i : SiteNo} {sites : List SiteNo} (h : (i :: sites).Pairwise (· < ·)) :
    l.ahead (i :: sites) i = 0 := by
  refine List.countP_eq_zero.mpr fun k hk => ?_
  have hle : i ≤ k := by
    rcases List.mem_cons.mp hk with rfl | hk
    · exact le_rfl
    · exact (List.rel_of_pairwise_cons h hk).le
  simp [not_lt.mpr hle]

/-- Ahead of a later site stands the first one too, when it waits. -/
theorem ahead_tail (l : IssueLog) {i k : SiteNo} {sites : List SiteNo} (hk : i < k) :
    l.ahead (i :: sites) k = l.ahead sites k + (l.slotWaiters[i]).toNat := by
  rw [IssueLog.ahead, List.countP_cons, decide_eq_true hk, Bool.true_and]
  cases l.slotWaiters[i] <;> rfl

section Cons

variable {s t : State} {i : SiteNo} {sites : List SiteNo} (h : (i :: sites).Pairwise (· < ·))
include h

/-- Nothing is handed out at the first site, and the others come next. -/
theorem State.HandsSlots.skip (hidle : s.log.slotWaiters[i] = false ∨ s.log.free = 0) (g : s.HandsSlots t sites) :
    s.HandsSlots t (i :: sites) := by
  have hlater : ∀ k ∈ sites, i < k := fun k hk => List.rel_of_pairwise_cons h hk
  obtain ⟨hlog, hserved, hpassed, hrest⟩ := g
  refine ⟨?_, fun k hk hw hroom => ?_, fun k hk => ?_, hrest⟩
  · rw [hlog, List.countP_cons]
    rcases hidle with h0 | h0 <;> simp [h0]
  · rcases hidle with h0 | h0
    · rcases List.mem_cons.mp hk with rfl | hk
      · rw [h0] at hw; cases hw
      · exact hserved k hk hw (by rwa [ahead_tail _ (hlater k hk), h0] at hroom)
    · rw [h0] at hroom; cases hroom
  · refine hpassed k ?_
    by_cases hmem : k ∈ sites
    · rcases hidle with h0 | h0
      · simpa [hmem, ahead_tail _ (hlater k hmem), h0] using hk
      · exact .inr (.inr (by rw [h0]; exact Nat.zero_le _))
    · exact .inl hmem

/-- The first site is served, and the others come next with one slot less. -/
theorem State.HandsSlots.serve (hw : s.log.slotWaiters[i] = true) (hfree : 0 < s.log.free)
    (hq : (s.site i).queue ≠ []) (g : (s.handSlot i).HandsSlots t sites) : s.HandsSlots t (i :: sites) := by
  have hlater : ∀ k ∈ sites, i < k := fun k hk => List.rel_of_pairwise_cons h hk
  have hi : i ∉ sites := fun hi => lt_irrefl i (hlater i hi)
  obtain ⟨p, q, hpq⟩ := List.exists_cons_of_ne_nil hq
  have hu := handSlot_serves hw hfree hpq
  generalize s.handSlot i = u at g hu
  have husite : u.site i = (s.site i).admitted p q s.td.number := by rw [hu]; exact site_setSite _ _ _
  have huother : ∀ k, k ≠ i → u.site k = s.site k := fun k hk => by rw [hu]; exact site_setSite_ne _ _ hk
  have huwait : u.log.slotWaiters[i] = false := by rw [hu]; simp
  have huwaits : ∀ k : SiteNo, k ≠ i → u.log.slotWaiters[k] = s.log.slotWaiters[k] := fun k hk => by
    have hne : i.val ≠ k.val := fun e => hk (Fin.ext e.symm)
    rw [hu]
    simp [Vector.getElem_set_ne i.isLt k.isLt hne]
  have hufree : u.log.free = s.log.free - 1 := by rw [hu]; exact Nat.sub_sub _ _ 1
  have hutd : u.td = s.td := by rw [hu]; rfl
  have hsame : ∀ k ∈ sites, u.log.slotWaiters[k] = s.log.slotWaiters[k] := fun k hk => huwaits k (hlater k hk).ne'
  have hcount : sites.countP (fun k => u.log.slotWaiters[k]) = sites.countP (fun k => s.log.slotWaiters[k]) :=
    List.countP_congr fun k hk => by rw [hsame k hk]
  have hahead : ∀ k ∈ sites, s.log.ahead (i :: sites) k = u.log.ahead sites k + 1 := fun k hk => by
    rw [ahead_tail _ (hlater k hk), hw]
    exact congrArg (· + 1) (List.countP_congr fun m hm => by rw [hsame m hm])
  obtain ⟨hlog, hserved, hpassed, hrest⟩ := g
  refine ⟨?_, fun k hk hwk hroom => ?_, fun k hk => ?_, ?_⟩
  · rw [hlog, hcount, hufree, hu, List.countP_cons, hw, if_pos rfl]
    dsimp only [setLog_log]
    congr 1
    omega
  · rcases List.mem_cons.mp hk with rfl | hk
    · obtain ⟨hwt, hst⟩ := hpassed k (.inl hi)
      exact ⟨hwt.trans huwait, p, q, hpq, hst.trans husite⟩
    · have hne : k ≠ i := (hlater k hk).ne'
      rw [hahead k hk] at hroom
      obtain ⟨hwt, p', q', hq', hst⟩ := hserved k hk ((hsame k hk).trans hwk) (by omega)
      rw [huother k hne] at hq' hst
      exact ⟨hwt, p', q', hq', hutd ▸ hst⟩
  · have hne : k ≠ i := by
      rintro rfl
      rcases hk with hk | hk | hk
      · exact hk List.mem_cons_self
      · rw [hw] at hk; cases hk
      · rw [ahead_head _ h] at hk; omega
    rw [← huwaits k hne, ← huother k hne]
    refine hpassed k ?_
    by_cases hmem : k ∈ sites
    · rw [hahead k hmem, ← huwaits k hne] at hk
      rcases hk with hk | hk | hk
      · exact absurd (List.mem_cons_of_mem i hmem) hk
      · exact .inr (.inl hk)
      · exact .inr (.inr (by omega))
    · exact .inl hmem
  · conv_lhs => rw [hrest, hu]
    rfl

end Cons

/-- Whoever still waits behind a hand-out has the queue it had. -/
theorem handSlot_queues {s : State} (i : SiteNo) (hq : ∀ k : SiteNo, s.log.slotWaiters[k] = true → (s.site k).queue ≠ [])
    (k : SiteNo) (hk : (s.handSlot i).log.slotWaiters[k] = true) : ((s.handSlot i).site k).queue ≠ [] := by
  revert hk
  unfold State.handSlot
  split
  · simp only [admitHead_log_slotWaiters, setSlotWaiter_log]
    by_cases e : k = i
    · subst e; simp
    · have hne : i.val ≠ k.val := fun e' => e (Fin.ext e'.symm)
      rw [admitHead_site_ne _ e, site_setSlotWaiter]
      simpa [Vector.getElem_set_ne i.isLt k.isLt hne] using hq k
  · exact hq k

/-- The sites of an ascending list are served in its order, each waiting one with its head job. -/
theorem foldl_handSlot (sites : List SiteNo) (h : sites.Pairwise (· < ·)) (s : State)
    (hq : ∀ i : SiteNo, s.log.slotWaiters[i] = true → (s.site i).queue ≠ []) :
    s.HandsSlots (sites.foldl State.handSlot s) sites := by
  induction sites generalizing s with
  | nil => exact ⟨by simp, fun i hi => (by cases hi), fun _ _ => ⟨rfl, rfl⟩, rfl⟩
  | cons i sites ih =>
    rw [List.foldl_cons]
    by_cases hidle : s.log.slotWaiters[i] = false ∨ s.log.free = 0
    · rw [handSlot_idle hidle]
      exact (ih h.of_cons s hq).skip h hidle
    · obtain ⟨hwait, hfree⟩ := not_or.mp hidle
      have hwait : s.log.slotWaiters[i] = true := by simpa using hwait
      exact (ih h.of_cons _ (handSlot_queues i hq)).serve h hwait (Nat.pos_of_ne_zero hfree) (hq i hwait)

/-! ### The request (R142) -/

/-- The hand-out is that at all sixteen sites: with no touchdown open nobody waits (R137). -/
theorem doClearRecords_eq {s : State} (h : s.LogInv) {f : InFrame} {n : Nat} (hn : numAt f.payload 0 2 = n) :
    s.doClearRecords f = (forSites State.handSlot (s.dropRecords n)).evalLogHigh.push
      (replyTo f .ok (bytesLE 2 (min n s.log.records.length) ++ bytesLE 2 (s.log.records.length - n)
        ++ bytesLE 4 (((s.log.records.take n).getLast?.map (fun r => r.seq.toNat)).getD 0))) := by
  have hslots : (if (s.dropRecords n).td.state = .opened then forSites State.handSlot (s.dropRecords n)
      else s.dropRecords n) = forSites State.handSlot (s.dropRecords n) := by
    split
    · rfl
    · next hshut =>
      refine (foldl_inv (fun t => t = s.dropRecords n) _ (fun t i ht => ?_) allSites _ rfl).symm
      rw [ht]
      exact handSlot_idle (.inl (h.noWaiter hshut i))
  rw [← hslots, State.doClearRecords, hn, List.length_take, List.length_drop]
  rfl

/-- Settles O34: the hand-out by `foldl_handSlot`, and LOG_HIGH evaluated on the slots it leaves in use. -/
theorem clearRecordsHandsSlotsInSiteOrder : Obligations.ClearRecordsHandsSlotsInSiteOrder := by
  unfold Obligations.ClearRecordsHandsSlotsInSiteOrder
  intro s f rest n free hfront hpay hinv hfree
  have hn : numAt f.payload 0 2 = n.toNat := by
    rw [hpay, ← List.append_nil (bytesLE 2 _)]
    exact numAt_bytesLE _ n.isLt
  have hexec : exec .clearRecords s = .next ((s.taken rest).doClearRecords f) :=
    takeRequest_front hfront (ok := lengthIs 2) (by simp [hpay, lengthIs]) State.doClearRecords
  rw [doClearRecords_eq (s := s.taken rest) ⟨hinv.room, hinv.account, hinv.waiters⟩ hn] at hexec
  have hslots : ((s.taken rest).dropRecords n.toNat).HandsSlots
      (forSites State.handSlot ((s.taken rest).dropRecords n.toNat)) allSites :=
    foldl_handSlot allSites (by decide) _ fun i hi => ((readyToAdmit_iff s i).mp (hinv.waiters i hi)).2
  generalize forSites State.handSlot ((s.taken rest).dropRecords n.toNat) = u at hexec hslots
  obtain ⟨hlog, hserved, hpassed, hrest⟩ := hslots
  obtain ⟨vlog, vmon, vlink, vall⟩ := evalLogHigh_changes (u := u) rfl
  generalize u.evalLogHigh = v at hexec vlog vmon vlink vall
  have hhigh : u.log.logHigh = s.log.logHigh := by rw [hlog]; rfl
  have humon : u.mon = s.mon := (congrArg State.mon hrest).trans rfl
  have hulink : u.link = { s.link with intake := rest } := (congrArg State.link hrest).trans rfl
  have hwaits : u.log.slotWaiters = v.log.slotWaiters := by rw [vlog]
  have hsites : v.sites = u.sites := by rw [vall]
  have hslots : u.log.slotsInUse = v.log.records.length + v.log.reservations := by rw [vlog]; rfl
  rw [hhigh, humon] at vmon
  rw [hhigh, humon, hulink] at vlink
  simp only [hwaits, ← site_of_sites hsites] at hserved hpassed
  subst hfree
  refine ⟨_, hexec, ?_, fun i => ⟨hserved i (mem_allSites i), fun hi => hpassed i (.inr hi)⟩, ?_, ?_, ?_⟩
  · rw [push_log, ← hslots, ← hwaits, vlog, ← hhigh, hlog]
    rfl
  · exact vmon
  · rw [push_link, vlink]
    rfl
  · conv_lhs => rw [vall, hrest, ← hsites]
    rfl

end Sys2Proof.Machine
end

section
/-!
SUPPORT. Notices and READ EVENTS (R150 to R155): the bytes that tell flags and states, the throttle test and the reports
in full, the test over all scopes after SET ENABLES, and the reply of READ EVENTS.
-/
namespace Sys2Proof.Machine

/-! ### The bytes of flags and states (R178) -/

theorem SiteBits.ofByte_byte (b : SiteBits) : SiteBits.ofByte b.byte = b ∧ b.byte.toNat < 8 := by
  obtain ⟨contact, link, dieSupply⟩ := b
  revert contact link dieSupply
  decide

theorem GlobalBits.ofByte_byte (g : GlobalBits) : GlobalBits.ofByte g.byte = g ∧ g.byte.toNat < 16 := by
  obtain ⟨pump, poolLow, logHigh, recordAdded⟩ := g
  revert pump poolLow logHigh recordAdded
  decide

/-! ### The throttle test (R153) -/

/-- A scope's throttle test does not change whether an enabled flag is latched. -/
theorem enabledFlag_throttle (s : State) (sc sc' : Scope) : (s.throttle sc).enabledFlag sc' = s.enabledFlag sc' := by
  obtain ⟨hsite, hglobal, -⟩ := throttle_keeps s sc
  cases sc' with
  | site i => simp only [State.enabledFlag, hsite i, (smon_throttle s sc i).1]
  | global => simp only [State.enabledFlag, hglobal, flags_throttle]

/-- Writing a site's own monitor entry back changes nothing. -/
theorem setSmon_smon (s : State) (i : SiteNo) : s.setSmon i (s.smon i) = s := by simp [State.setSmon, State.smon]

/-- Writing a scope's own notice-pending flag back changes nothing. -/
theorem setPending_noticePending (s : State) (sc : Scope) : s.setPending sc (s.noticePending sc) = s := by
  cases sc with
  | site i => exact setSmon_smon s i
  | global => rfl

/-- A notice is placed when none is pending and an enabled flag is latched, and the scope is then pending. -/
theorem throttle_eq (s : State) (sc : Scope) :
    s.throttle sc =
      { s.setPending sc (s.noticePending sc || s.enabledFlag sc) with
        link := { s.link with
          outq := s.link.outq ++
            if s.noticePending sc = false ∧ s.enabledFlag sc = true then [s.noticeOf sc] else [] } } := by
  by_cases hfire : s.noticePending sc = false ∧ s.enabledFlag sc = true
  · rw [State.throttle, if_pos (by simp [hfire]), if_pos hfire, hfire.2, Bool.or_true]
    cases sc <;> rfl
  · have hsame : (s.noticePending sc || s.enabledFlag sc) = s.noticePending sc := by
      revert hfire
      cases s.noticePending sc <;> simp
    rw [State.throttle, if_neg (by simpa using hfire), if_neg hfire, hsame, setPending_noticePending, List.append_nil]

theorem throttle_global (s : State) :
    (s.throttle .global).mon = { s.mon with pending := s.mon.pending || s.enabledFlag .global } ∧
      (s.throttle .global).link = { s.link with
        outq := s.link.outq ++
          if s.mon.pending = false ∧ s.enabledFlag .global = true then [s.noticeOf .global] else [] } ∧
      s.throttle .global = { s with mon := (s.throttle .global).mon, link := (s.throttle .global).link } := by
  rw [throttle_eq]
  exact ⟨rfl, rfl, rfl⟩

/-! ### A site condition's report (R151, R153) -/

/-- A site's monitor entry with a condition's state set and its change flag latched. -/
def SiteMon.latched (m : SiteMon) (c : SiteCond) (v : Bool) : SiteMon :=
  { m with cond := m.cond.put c v, flags := m.flags.put c true }

theorem changeCond_eq_throttle (s : State) (i : SiteNo) (c : SiteCond) (v : Bool) :
    s.changeCond i c v = (s.setSmon i ((s.smon i).latched c v)).throttle (.site i) := by
  simp [State.changeCond, State.latchSite, State.setCond, State.setSmon, State.smon, SiteMon.latched]

/-- A condition declared or cleared: its site's entry, its notice, and nothing else. -/
theorem changeCond_reports (s : State) (i : SiteNo) (c : SiteCond) (v : Bool) :
    (s.changeCond i c v).smon i =
        { (s.smon i).latched c v with pending := (s.smon i).pending || (s.changeCond i c v).enabledFlag (.site i) } ∧
      (∀ k : SiteNo, k ≠ i → (s.changeCond i c v).smon k = s.smon k) ∧
      (s.changeCond i c v).link = { s.link with outq := s.link.outq ++
        if (s.smon i).pending = false ∧ (s.changeCond i c v).enabledFlag (.site i) = true
          then [((s.smon i).latched c v).notice i] else [] } ∧
      s.changeCond i c v = { s with
        link := (s.changeCond i c v).link, mon := { s.mon with site := (s.changeCond i c v).mon.site } } := by
  rw [changeCond_eq_throttle, enabledFlag_throttle]
  generalize hw : s.setSmon i ((s.smon i).latched c v) = w
  have hentry : w.smon i = (s.smon i).latched c v := by rw [← hw, smon_setSmon]
  have hlink : w.link = s.link := by rw [← hw]; rfl
  have hpending : (w.smon i).pending = (s.smon i).pending := by rw [hentry]; rfl
  rw [throttle_eq, noticeOf_site, State.noticePending, State.setPending, hpending, hlink, hentry]
  refine ⟨smon_setSmon _ _ _, fun k hk => ?_, rfl, ?_⟩
  · exact (smon_setSmon_ne w _ hk).trans (by rw [← hw, smon_setSmon_ne _ _ hk])
  · rw [← hw]; rfl

/-! ### A global flag's report (R150, R153) -/

/-- A report of a global flag: the flag, the notice, and nothing else. -/
theorem latchGlobal_reports (s : State) (g : GlobalFlag) :
    s.latchGlobal g = { s with
      mon := { s.mon with
        flags := s.mon.flags.put g true
        pending := s.mon.pending || (s.latchGlobal g).enabledFlag .global }
      link := { s.link with
        outq := s.link.outq ++
          if s.mon.pending = false ∧ (s.latchGlobal g).enabledFlag .global = true then
            [{ source := .notice, kind := 0xC0, tag := 0
               payload := [16, (s.mon.flags.put g true).byte, s.globalStates.byte] }] else [] } } := by
  obtain ⟨hmon, hlink, hall⟩ := latchGlobal_eq (s := s) (g := g) rfl
  have hnotice : (s.latchGlobal g).noticeOf .global =
      { source := .notice, kind := 0xC0, tag := 0
        payload := [16, (s.mon.flags.put g true).byte, s.globalStates.byte] } := by
    simp only [State.noticeOf, State.scopeBytes, flags_latchGlobal, State.globalStates, latchGlobal_arb, latchGlobal_ks,
      latchGlobal_log]
  rw [hnotice] at hlink
  rw [← hmon, ← hlink]
  exact hall

/-! ### SET ENABLES (R152, R153) -/

/-- A site's monitor entry with the enables that a SET ENABLES payload gives it (R152, R176). -/
def SiteMon.enabledBy (p : List Byte) (i : SiteNo) (m : SiteMon) : SiteMon :=
  { m with
    enable := (numAt p 0 2).testBit i.val
    source := { contact := (numAt p 2 2).testBit i.val
                link := (numAt p 4 2).testBit i.val
                dieSupply := (numAt p 6 2).testBit i.val } }

theorem loadEnables_acts (s : State) (p : List Byte) :
    s.ActsAt (State.loadEnables p) (fun _ c => c) (SiteMon.enabledBy p) (fun _ _ => []) := by
  intro v w q i
  simp [State.loadEnables, SiteMon.enabledBy, State.setSmon, State.perSite, State.smon]

/-- A site's monitor entry after the throttle test of its scope (R153). -/
def SiteMon.tested (m : SiteMon) : SiteMon := { m with pending := m.pending || m.flagged }

theorem throttle_acts (s : State) : s.ActsAt (fun s i => s.throttle (.site i)) (fun _ c => c) (fun _ m => m.tested)
    (fun i m => if !m.pending && m.flagged then [m.notice i] else []) := by
  intro v w q i
  beta_reduce
  rw [throttle_eq, enabledFlag_site, noticeOf_site, State.noticePending, State.setPending, perSite_smon]
  simp [State.setSmon, State.perSite, SiteMon.tested]

/-- The sites written back as they stand. -/
theorem ofFn_sites (s : State) : (Vector.ofFn fun i : SiteNo => s.sites[i]) = s.sites := Vector.ext fun i hi => by simp

/-- The throttle test of the seventeen scopes: the sixteen sites, then the global scope. -/
theorem foldl_throttle (s : State) : allScopes.foldl State.throttle s =
    (s.perSite s.sites (Vector.ofFn fun i => (s.smon i).tested)
      (s.link.outq ++ (allSites.filter fun i => !(s.smon i).pending && (s.smon i).flagged).map
        fun i => (s.smon i).notice i)).throttle .global := by
  have hsites := (throttle_acts s).forSites s.sites s.mon.site s.link.outq
  rw [flatMap_single, ofFn_sites, show s.perSite s.sites s.mon.site s.link.outq = s from rfl, forSites] at hsites
  rw [allScopes, List.foldl_append, List.foldl_map, hsites]
  rfl

/-- The machine with the global enables replaced. -/
def State.withEnables (s : State) (g : GlobalBits) : State := { s with mon := { s.mon with enables := g } }

/-- What is replaced twice is replaced the second time. -/
theorem perSite_withEnables_perSite (s : State) (g : GlobalBits) (v v' : Vector SiteCtl 16) (w w' : Vector SiteMon 16)
    (q q' : List OutFrame) : ((s.perSite v w q).withEnables g).perSite v' w' q' = (s.withEnables g).perSite v' w' q' := rfl

/-- A site's monitor entry after SET ENABLES and the throttle test of its scope (R152, R153). -/
def State.enabledMon (s : State) (p : List Byte) (i : SiteNo) : SiteMon := ((s.smon i).enabledBy p i).tested

@[simp] theorem enabledBy_pending (p : List Byte) (i : SiteNo) (m : SiteMon) : (m.enabledBy p i).pending = m.pending := rfl

@[simp] theorem enabledBy_notice (p : List Byte) (i k : SiteNo) (m : SiteMon) : (m.enabledBy p i).notice k = m.notice k := rfl

theorem flagged_enabledMon (s : State) (p : List Byte) (i : SiteNo) :
    (s.enabledMon p i).flagged = ((s.smon i).enabledBy p i).flagged := rfl

/-- SET ENABLES with its length right: the enables replaced, the scopes tested, and the reply behind their notices. -/
theorem doSetEnables_eq (s : State) (f : InFrame) : s.doSetEnables f =
    ((((s.withEnables (globalEnables f.payload)).perSite s.sites (Vector.ofFn (s.enabledMon f.payload))
      (s.link.outq ++ (allSites.filter fun i => !(s.smon i).pending && (s.enabledMon f.payload i).flagged).map
        fun i => (s.smon i).notice i)).throttle .global).reply f .ok []) := by
  have hload := (loadEnables_acts s f.payload).forSites s.sites s.mon.site s.link.outq
  rw [flatMap_nothing, List.append_nil, ofFn_sites, show s.perSite s.sites s.mon.site s.link.outq = s from rfl] at hload
  have hdo : s.doSetEnables f = (allScopes.foldl State.throttle
    ((forSites (State.loadEnables f.payload) s).withEnables (globalEnables f.payload))).reply f .ok [] := by
    unfold State.doSetEnables; rfl
  rw [hdo, hload, foldl_throttle]
  refine congrArg (fun u : State => (u.throttle .global).reply f .ok []) ?_
  rw [perSite_withEnables_perSite]
  have hsites : ∀ v w q g, ((s.perSite v w q).withEnables g).sites = v := fun _ _ _ _ => rfl
  have houtq : ∀ v w q g, ((s.perSite v w q).withEnables g).link.outq = q := fun _ _ _ _ => rfl
  have hsmon : ∀ v w q g i, ((s.perSite v w q).withEnables g).smon i = w[i] := fun _ _ _ _ _ => rfl
  simp only [hsites, houtq, hsmon, Fin.getElem_fin, Vector.getElem_ofFn, Fin.eta, enabledBy_pending, enabledBy_notice]
  rfl

/-- The notices of the scopes that a test picks, sites ascending and the global scope last (R152). -/
theorem map_noticeOf_filter (s : State) (p : Scope → Bool) :
    ((allSites.map Scope.site ++ [Scope.global]).filter p).map s.noticeOf =
      (allSites.filter fun i => p (.site i)).map (fun i => (s.smon i).notice i) ++
        if p .global = true then [s.noticeOf .global] else [] := by
  rw [List.filter_append, List.filter_map, List.map_append, List.map_map, List.filter_singleton]
  cases p .global <;> rfl

/-- Settles O15: the state after is that of `doSetEnables_eq`, read off scope by scope. -/
theorem setEnablesReplacesEnables : Obligations.SetEnablesReplacesEnables := by
  unfold Obligations.SetEnablesReplacesEnables
  intro s f rest h hlen
  have hexec : exec .setEnables s = .next ((s.taken rest).doSetEnables f) :=
    takeRequest_front h (ok := lengthIs 9) (by simp [lengthIs, hlen]) State.doSetEnables
  rw [doSetEnables_eq] at hexec
  generalize hv : Vector.ofFn ((s.taken rest).enabledMon f.payload) = v at hexec
  generalize hw : State.perSite _ _ _ _ = w at hexec
  have hsmon : ∀ i, w.smon i = s.enabledMon f.payload i := fun i => by
    rw [← hw, perSite_smon, ← hv, Fin.getElem_fin, Vector.getElem_ofFn, Fin.eta]
    rfl
  generalize ht : (w.throttle .global).reply f .ok [] = t at hexec
  have hglobal : t.enabledFlag .global = w.enabledFlag .global := by
    rw [← ht]; exact enabledFlag_throttle w .global .global
  have hflag : ∀ i, t.enabledFlag (.site i) = (s.enabledMon f.payload i).flagged := fun i => by
    rw [← ht, ← hsmon]
    exact enabledFlag_throttle w .global (.site i)
  obtain ⟨hmon, hlink, hall⟩ := throttle_global w
  obtain ⟨hflags, henables, hpending⟩ :
      w.mon.flags = s.mon.flags ∧ w.mon.enables = globalEnables f.payload ∧ w.mon.pending = s.mon.pending := by
    rw [← hw]; exact ⟨rfl, rfl, rfl⟩
  have htmon : t.mon = (w.throttle .global).mon := by rw [← ht, reply_mon]
  refine ⟨t, hexec, fun i => ?_, ?_, ?_, ?_, ?_, ?_⟩
  · rw [hflag, flagged_enabledMon, State.smon, htmon, hmon]
    refine (hsmon i).trans ?_
    rw [State.enabledMon, SiteMon.tested]
    rfl
  · rw [htmon, hmon, hflags]
  · rw [htmon, hmon, henables]; rfl
  · rw [htmon, hmon, hpending, hglobal]
  · simp only [map_noticeOf_filter, hflag, hglobal, Bool.and_eq_true, Bool.not_eq_true']
    rw [← List.append_assoc, ← ht, State.reply, push_link, hlink, hpending, ← hw]
    rfl
  · rw [← ht, hall, ← hw]
    rfl

/-! ### READ EVENTS (R155) -/

theorem scopeOf_site {b : Byte} {i : SiteNo} (h : b.toNat = i.val) : scopeOf b = some (.site i) := by
  unfold scopeOf
  rw [dif_pos (by omega)]
  exact congrArg (some ∘ Scope.site) (Fin.ext h)

theorem scopeOf_global : scopeOf 16 = some .global := rfl

theorem scopeOf_above {b : Byte} (h : 16 < b.toNat) : scopeOf b = none := by
  unfold scopeOf
  rw [dif_neg (by omega), if_neg (by omega)]

/-- A READ EVENTS in front is carried out by the byte of its payload. -/
theorem exec_readEvents_front {s : State} {f : InFrame} {rest : List InFrame} {b : Byte} (h : s.Front 0x16 f rest)
    (hpay : f.payload = [b]) :
    exec .readEvents s = .next ((s.taken rest).doReadEvents f) ∧ byteAt f.payload 0 = b :=
  ⟨takeRequest_front h (ok := lengthIs 1) (by rw [hpay]; rfl) State.doReadEvents, by rw [hpay]; rfl⟩

/-- A READ EVENTS in front that names a scope: the reply as the scope stands, then its flags cleared. -/
theorem exec_readEvents {s : State} {f : InFrame} {rest : List InFrame} {b : Byte} {sc : Scope} (h : s.Front 0x16 f rest)
    (hpay : f.payload = [b]) (hsc : scopeOf b = some sc) :
    exec .readEvents s = .next ((s.answered rest (replyTo f .ok (s.scopeBytes sc))).clearScope sc) := by
  obtain ⟨hexec, hbyte⟩ := exec_readEvents_front h hpay
  rw [hexec, State.doReadEvents, hbyte, hsc]
  cases sc <;> rfl

theorem scopeBytes_site (s : State) {b : Byte} {i : SiteNo} (h : b.toNat = i.val) :
    s.scopeBytes (.site i) = [b, (s.smon i).flags.byte, (s.smon i).cond.byte] := by
  rw [State.scopeBytes, ← h, BitVec.ofNat_toNat, BitVec.setWidth_eq]

/-- The frames of a reply stand when a scope's flags are cleared. -/
theorem clearScope_link (s : State) (sc : Scope) : (s.clearScope sc).link = s.link := by cases sc <;> rfl

/-- Settles O16: by `exec_readEvents`, scope by scope. -/
theorem readEventsReturnsAndClears : Obligations.ReadEventsReturnsAndClears := by
  unfold Obligations.ReadEventsReturnsAndClears
  intro s f rest b h hpay
  refine ⟨fun i hi => ?_, fun hb => ?_, fun hb => ?_⟩
  · have hexec := exec_readEvents h hpay (scopeOf_site hi)
    rw [scopeBytes_site s hi] at hexec
    exact ⟨_, hexec, ⟨_, _, clearScope_link _ _, (SiteBits.ofByte_byte _).1, (SiteBits.ofByte_byte _).1⟩,
      smon_setSmon _ _ _, fun k hk => smon_setSmon_ne _ _ hk, rfl, rfl⟩
  · subst hb
    exact ⟨_, _, exec_readEvents h hpay scopeOf_global, (GlobalBits.ofByte_byte _).1, (GlobalBits.ofByte_byte _).1⟩
  · obtain ⟨hexec, hbyte⟩ := exec_readEvents_front h hpay
    rw [hexec, State.doReadEvents, hbyte, scopeOf_above hb]
    rfl

end Sys2Proof.Machine
end

section
/-!
SUPPORT. Over every command but a unit reset and its release: what a command changes of the conditions it reports, but for the
force-clears at a touchdown's opening and at liftoff completion (R132, R144, R150, R151, R153).
-/
namespace Sys2Proof.Machine

/-! ### The operations of the requests -/

section Operations

variable {x : SiteCond → Prop}

theorem reports_push (s : State) (o : OutFrame) : s.Reports x (s.push o) := .quiet rfl rfl rfl rfl le_rfl

theorem reports_reply (s : State) (f : InFrame) (st : Status) (fields : List Byte) : s.Reports x (s.reply f st fields) :=
  reports_push s _

theorem reports_setSite (s : State) (i : SiteNo) (c : SiteCtl) : s.Reports x (s.setSite i c) := .quiet rfl rfl rfl rfl le_rfl

theorem reports_setDie (s : State) (i : SiteNo) (d : Die) : s.Reports x (s.setDie i d) := .quiet rfl rfl rfl rfl le_rfl

theorem reports_enableSite (before : SiteSet) (s : State) (i : SiteNo) : s.Reports x (State.enableSite before s i) := by
  unfold State.enableSite
  split
  · exact reports_setSite s i _
  · split
    · exact reports_setSite s i _
    · exact .refl s

theorem reports_applyEntry (s : State) (e : ParamId × Nat) : s.Reports x (s.applyEntry e) := by
  obtain ⟨p, v⟩ := e
  have hcfg : s.Reports x { s with cfg := s.cfg.put p (p.clamp v) } := .quiet rfl rfl rfl rfl le_rfl
  cases p
  case sitesEnabled => exact hcfg.trans (.foldl _ (reports_enableSite _) _ _)
  case poolLowThreshold =>
    simp only [State.applyEntry]
    split
    · exact hcfg
    · exact hcfg.trans (reports_evalPoolLowNew _)
  all_goals exact hcfg

theorem reports_doConfigure (s : State) (f : InFrame) : s.Reports x (s.doConfigure f) := by
  unfold State.doConfigure
  split
  · exact reports_reply s f _ _
  · split
    · exact reports_reply s f _ _
    · split
      · exact reports_reply s f _ _
      · exact (State.Reports.foldl _ reports_applyEntry _ s).trans (reports_reply _ f _ _)

theorem reports_startSeating (s : State) (i : SiteNo) : s.Reports x (s.startSeating i) := by
  simp only [State.startSeating]
  split
  · split <;> exact reports_setSite s i _
  · exact .refl s

theorem reports_sampleDieSupply (s : State) (i : SiteNo) : s.Reports x (s.sampleDieSupply i) := by
  unfold State.sampleDieSupply
  split
  · exact reports_changeCond s i _ _
  · exact .refl s

/-- A TOUCHDOWN force-clears LINK and reports what else it changes (R124, R132, R148). -/
theorem reports_doTouchdown (s : State) (f : InFrame) (hlink : x .link) : s.Reports x (s.doTouchdown f) := by
  unfold State.doTouchdown
  split
  · have hopen : s.Reports x (s.setTd { s.td with state := .opened, number := nextNumber s.td.number }) :=
      .quiet rfl rfl rfl rfl le_rfl
    have hseat := hopen.trans (.foldl _ reports_startSeating allSites _)
    have hforce := hseat.trans (.foldl _ (fun s i => reports_force s i .link hlink) allSites _)
    have hsupply := hforce.trans (.foldl _ reports_sampleDieSupply allSites _)
    exact (hsupply.trans (.foldl _ reports_testAdmission allSites _)).trans (reports_reply _ f _ _)
  · exact reports_reply s f _ _

theorem reports_abortAll (s : State) : s.Reports x s.abortAll :=
  .foldl (fun s i => s.abort i .aborted) (fun s i => reports_abort s i _) allSites s

theorem reports_beginLift (s : State) (tag : BitVec 6) (toAbort : Bool) : s.Reports x (s.beginLift tag toAbort) := by
  have hlift : ∀ (td : Touchdown) (w : Vector Bool 16),
      s.Reports x ((s.setTd td).setLog { s.log with slotWaiters := w }) := fun _ _ => .quiet rfl rfl rfl rfl le_rfl
  unfold State.beginLift
  split
  · exact (hlift _ _).trans (reports_abortAll _)
  · exact hlift _ _

theorem reports_mergeLift (s : State) (toAbort : Bool) : s.Reports x (s.mergeLift toAbort) := by
  have hup : s.Reports x (s.setTd { s.td with state := .liftingAbort }) := .quiet rfl rfl rfl rfl le_rfl
  unfold State.mergeLift
  split
  · exact hup.trans (reports_abortAll _)
  · exact .refl s

theorem reports_acceptKeys (s : State) (keys : List Key) : s.Reports x (s.acceptKeys keys) :=
  ((reports_handOut _ _).trans (reports_evalPoolLow _)).after rfl rfl rfl rfl le_rfl

theorem reports_doDiscardKeys (s : State) (f : InFrame) : s.Reports x (s.doDiscardKeys f) :=
  ((reports_evalPoolLow _).trans (reports_reply _ f _ _)).after rfl rfl rfl rfl le_rfl

theorem reports_doProvision (s : State) (f : InFrame) : s.Reports x (s.doProvision f) := by
  have hpost : ∀ (i : SiteNo) (p : Posting), s.Reports x (s.postJob i p) := fun i p => by
    simp only [State.postJob]
    split
    · exact (reports_setSite s i _).trans (reports_testAdmission _ i)
    · exact reports_setSite s i _
  simp only [State.doProvision]
  split
  · exact reports_reply s f _ _
  · split
    · exact reports_reply s f _ _
    · split
      · exact reports_reply s f _ _
      · exact (hpost _ _).trans (reports_reply _ f _ _)

/-- The job part of a CANCEL, ahead of its reply (R60). -/
theorem reports_cancelled (s : State) (i : SiteNo) (queued takeActive : Bool) :
    s.Reports x (if takeActive then (if queued then s.dropQueue i else s).abort i .aborted
      else if queued then s.dropQueue i else s) := by
  have hdrop : s.Reports x (if queued then s.dropQueue i else s) := by
    split
    · exact .quiet rfl rfl rfl rfl le_rfl
    · exact .refl s
  cases takeActive with
  | true => exact hdrop.trans (reports_abort _ i _)
  | false => exact hdrop

/-- Records that are removed latch nothing; LOG_HIGH is then evaluated (R142, R143). -/
theorem reports_doClearRecords (s : State) (f : InFrame) : s.Reports x (s.doClearRecords f) := by
  have hdrop : s.Reports x (s.setLog { s.log with records := s.log.records.drop (numAt f.payload 0 2) }) :=
    .quiet rfl rfl rfl rfl (by simp)
  simp only [State.doClearRecords]
  refine State.Reports.trans ?_ (reports_reply _ f _ _)
  refine State.Reports.trans ?_ (reports_evalLogHigh _)
  split
  · exact hdrop.trans (.foldl _ reports_handSlot allSites _)
  · exact hdrop

theorem reports_abortWaiter (a : Arbiter) (s : State) (i : SiteNo) : s.Reports x (State.abortWaiter a s i) := by
  unfold State.abortWaiter
  split
  · exact reports_abort s i _
  · exact .refl s

/-- PUMP as its input gives it, with the report that goes with it (R117, R150). -/
theorem reports_latchPump {s t : State} (hm : t.mon = s.mon) (hk : t.ks = s.ks) (hl : t.log = s.log) :
    s.Reports x (t.latchGlobal .pump) :=
  reports_latch .pump hm (fun _ => rfl) (fun h => absurd (by rw [hk]) h) (fun h => absurd (by rw [hl]) h)
    (fun h => absurd h (by rw [hl]; exact lt_irrefl _))

/-- A condition declared and the drive cut that follows (R56, R58). -/
theorem reports_lossOf (s : State) (i : SiteNo) (c : SiteCond) (o : JobOutcome) :
    s.Reports x (((s.changeCond i c true).setSlotWaiter i false).driveCut i o) :=
  (reports_changeCond s i c true).trans ((reports_driveCut _ i o).after rfl rfl rfl rfl le_rfl)

theorem reports_noteOpenLeft (s : State) (i : SiteNo) (left : Nat) : s.Reports x (s.noteOpenLeft i left) := by
  unfold State.noteOpenLeft
  split
  · exact reports_setJob s i _
  · exact .refl s

end Operations

/-! ### What one command may force-clear (R132) -/

/-- The conditions that a command force-clears: LINK at a TOUCHDOWN, CONTACT and DIE_SUPPLY where the
touchdown returns to CLEAR. -/
def ForcedBy (c : Instr) (s t : State) (d : SiteCond) : Prop :=
  (d = .link ∧ c = .touchdown) ∨ (d ≠ .link ∧ s.td.state ≠ .clear ∧ t.td.state = .clear)

/-- What a command changes of the conditions it reports, but for its force-clears. -/
def State.ReportsBy (c : Instr) (s t : State) : Prop := s.Reports (ForcedBy c s t) t

/-- The conditions stand, and no record is appended. -/
structure State.SameConds (s t : State) : Prop where
  cond : ∀ i d, t.condOf i d = s.condOf i d
  globals : t.globalStates = s.globalStates
  records : t.log.records = s.log.records

/-- A step's answer in which the changes of conditions are reported. -/
def ReportsOf (c : Instr) (s : State) (r : StepResult) : Prop := ∀ t, r = .next t → s.ReportsBy c t ∨ s.SameConds t

section Answers

variable {c : Instr} {s t u : State}

theorem reportsOf_next (h : s.ReportsBy c t) : ReportsOf c s (.next t) := by rintro _ ⟨⟩; exact .inl h

theorem reportsOf_fault (f : Fault) : ReportsOf c s (.fault f) := by rintro _ ⟨⟩

/-- What leaves the monitor and the global conditions alone. -/
theorem reportsOf_quiet (hm : t.mon = s.mon) (ha : t.arb = s.arb) (hk : t.ks = s.ks) (hl : t.log = s.log) :
    ReportsOf c s (.next t) := reportsOf_next (.quiet hm (by rw [ha]) (by rw [hk]) (by rw [hl]) (by rw [hl]))

/-- What ends in liftoff completion force-clears only where a touchdown that was open returns to CLEAR. -/
theorem reportsBy_finishLift (h : ∀ x, s.Reports x u) (hlift : u.td.state.lifting = true → s.td.state ≠ .clear) :
    s.ReportsBy c u.finishLift :=
  (h _).trans (reports_finishLift u fun hl hclear =>
    ⟨.inr ⟨by decide, hlift hl, hclear⟩, .inr ⟨by decide, hlift hl, hclear⟩⟩)

theorem reportsBy_finishLift_of_lifting (h : ∀ x, s.Reports x u) (hsame : u.td.state.lifting = s.td.state.lifting) :
    s.ReportsBy c u.finishLift :=
  reportsBy_finishLift h fun hl hclear => by rw [hsame, hclear] at hl; cases hl

end Answers

/-! ### Requests -/

theorem takeFrame_reportsOf (c : Instr) (s : State) (is : InFrame → Bool) (act : State → InFrame → State)
    (h : ∀ (s : State) (f : InFrame), s.ReportsBy c (act s f) ∨ s.SameConds (act s f)) :
    ReportsOf c s (s.takeFrame is act) := by
  unfold State.takeFrame
  split
  · exact reportsOf_fault _
  · split
    · exact reportsOf_fault _
    · next f _ _ =>
      split
      · rintro _ ⟨⟩
        rcases h s.dropFront f with hreports | ⟨hcond, hglobals, hrecords⟩
        · exact .inl (State.Reports.after hreports rfl rfl rfl rfl le_rfl)
        · exact .inr ⟨hcond, hglobals, hrecords⟩
      · exact reportsOf_fault _

theorem takeRequest_reportsOf (c : Instr) (s : State) (kind : Byte) (ok : List Byte → Bool) (act : State → InFrame → State)
    (h : ∀ (s : State) (f : InFrame), s.ReportsBy c (act s f) ∨ s.SameConds (act s f)) :
    ReportsOf c s (s.takeRequest kind ok act) := by
  apply takeFrame_reportsOf
  intro s f
  split
  · exact h s f
  · exact .inl (reports_reply s f _ _)

/-- SET ENABLES changes no condition (R152). -/
theorem sameConds_doSetEnables (s : State) (f : InFrame) : s.SameConds (s.doSetEnables f) := by
  rw [doSetEnables_eq]
  generalize hv : Vector.ofFn (s.enabledMon f.payload) = v
  refine ⟨fun i d => ?_, ?_, by rw [reply_log, throttle_log]; rfl⟩
  · rw [condOf_reply, condOf_throttle, State.condOf, perSite_smon, ← hv, Fin.getElem_fin, Vector.getElem_ofFn]
    rfl
  · simp only [State.globalStates, reply_arb, reply_ks, reply_log, throttle_arb, throttle_ks, throttle_log]
    rfl

/-- READ EVENTS changes no condition (R155). -/
theorem sameConds_doReadEvents (s : State) (f : InFrame) : s.SameConds (s.doReadEvents f) := by
  unfold State.doReadEvents
  split
  · exact ⟨fun _ _ => rfl, rfl, rfl⟩
  · next sc _ =>
    cases sc with
    | site i => exact ⟨fun k d => condOf_setSmon _ i k _ d rfl, rfl, rfl⟩
    | global => exact ⟨fun _ _ => rfl, rfl, rfl⟩

theorem reportsBy_doLiftoff (c : Instr) (s : State) (f : InFrame) : s.ReportsBy c (s.doLiftoff f) := by
  unfold State.doLiftoff
  split
  · exact reports_reply s f _ _
  · split
    case h_1 => exact reports_reply s f _ _
    case h_2 hopen => exact reportsBy_finishLift (fun _ => reports_beginLift s _ _) fun _ => by rw [hopen]; decide
    all_goals
      next hlift =>
      exact reportsBy_finishLift (fun _ => (reports_mergeLift s _).trans (reports_reply _ f _ _)) fun _ => by
        rw [hlift]; decide

theorem reportsBy_doLoadKeys (c : Instr) (s : State) (f : InFrame) : s.ReportsBy c (s.doLoadKeys f) := by
  simp only [State.doLoadKeys]
  split
  · exact reports_reply s f _ _
  · split
    · exact reports_reply s f _ _
    · generalize keysOf _ _ = keys
      have hcounted : s.EndsCounted (s.acceptKeys keys) :=
        ((State.EndsCounted.setKs s _).trans (.handOut _ _)).trans (.evalPoolLow _)
      exact reportsBy_finishLift_of_lifting (fun _ => (reports_acceptKeys s keys).trans (reports_reply _ f _ _)) hcounted.lifting

theorem reportsBy_doCancel (c : Instr) (s : State) (f : InFrame) : s.ReportsBy c (s.doCancel f) := by
  unfold State.doCancel
  split
  · next i queued takeActive _ _ =>
    have htd : (if queued then s.dropQueue i else s).td = s.td := by split <;> rfl
    refine reportsBy_finishLift_of_lifting (fun _ => (reports_cancelled s i queued takeActive).trans (reports_reply _ f _ _)) ?_
    cases takeActive <;> simp [htd]
  · exact reports_reply s f _ _

/-! ### Every command -/

/-! #### Control link -/

theorem execControlLinkByteReceived_reportsOf (c : Instr) (b : Byte) (stopHigh : Bool) (s : State) :
    ReportsOf c s (execControlLinkByteReceived b stopHigh s) := by
  unfold execControlLinkByteReceived
  (repeat' split) <;> exact reportsOf_quiet (by simp) (by simp) (by simp) (by simp)

theorem execGapTimerExpiry_reportsOf (c : Instr) (s : State) : ReportsOf c s (execGapTimerExpiry s) := by
  unfold execGapTimerExpiry
  split
  · exact reportsOf_quiet rfl rfl rfl rfl
  · exact reportsOf_fault _

theorem execFrameLastByteSent_reportsOf (c : Instr) (s : State) (h : s.resetsAt .frameLastByteSent = false) :
    ReportsOf c s (execFrameLastByteSent s) := by
  unfold execFrameLastByteSent
  split
  · exact reportsOf_fault _
  · next f rest hq =>
    have hsource : ¬ f.source = .resetReply := by simpa [State.resetsAt, hq] using h
    rw [if_neg hsource]
    exact reportsOf_quiet rfl rfl rfl rfl

/-! #### Site inputs and seat timers -/

theorem execContactSensed_reportsOf (c : Instr) (i : SiteNo) (s : State) : ReportsOf c s (execContactSensed i s) := by
  simp only [execContactSensed]
  split <;> exact reportsOf_quiet rfl rfl rfl rfl

theorem execContactDropped_reportsOf (c : Instr) (i : SiteNo) (s : State) : ReportsOf c s (execContactDropped i s) := by
  simp only [execContactDropped]
  split
  case h_2 =>
    exact reportsOf_next (reportsBy_finishLift_of_lifting (fun _ => (reports_lossOf _ i _ _).after rfl rfl rfl rfl le_rfl)
      (by simp))
  all_goals exact reportsOf_quiet rfl rfl rfl rfl

theorem execDebounceExpiry_reportsOf (c : Instr) (i : SiteNo) (s : State) : ReportsOf c s (execDebounceExpiry i s) := by
  unfold execDebounceExpiry
  split
  · exact reportsOf_fault _
  · split
    · exact reportsOf_next (reports_seat s i)
    · exact reportsOf_quiet rfl rfl rfl rfl

theorem execSeatTimeoutExpiry_reportsOf (c : Instr) (i : SiteNo) (s : State) : ReportsOf c s (execSeatTimeoutExpiry i s) := by
  simp only [execSeatTimeoutExpiry]
  split
  · exact reportsOf_fault _
  · split
    case h_1 | h_2 => exact reportsOf_next ((reports_setSite s i _).trans (reports_changeCond _ i _ _))
    all_goals exact reportsOf_quiet rfl rfl rfl rfl

theorem execDieSupplyAsserted_reportsOf (c : Instr) (i : SiteNo) (s : State) : ReportsOf c s (execDieSupplyAsserted i s) := by
  simp only [execDieSupplyAsserted]
  split
  · exact reportsOf_next (reportsBy_finishLift_of_lifting (fun _ => (reports_lossOf _ i _ _).after rfl rfl rfl rfl le_rfl)
      (by simp))
  · exact reportsOf_quiet rfl rfl rfl rfl

theorem execDieSupplyDeasserted_reportsOf (c : Instr) (i : SiteNo) (s : State) :
    ReportsOf c s (execDieSupplyDeasserted i s) := by
  simp only [execDieSupplyDeasserted]
  split
  · exact reportsOf_next
      (State.Reports.after ((reports_changeCond _ i _ _).trans (reports_testAdmission _ i)) rfl rfl rfl rfl le_rfl)
  · exact reportsOf_quiet rfl rfl rfl rfl

/-! #### The programming supply -/

theorem execPumpFaultAsserted_reportsOf (c : Instr) (s : State) : ReportsOf c s (execPumpFaultAsserted s) := by
  simp only [execPumpFaultAsserted]
  split
  · exact reportsOf_quiet rfl rfl rfl rfl
  · exact reportsOf_next (reports_latchPump rfl rfl rfl)

theorem execPumpFaultDeasserted_reportsOf (c : Instr) (s : State) : ReportsOf c s (execPumpFaultDeasserted s) := by
  simp only [execPumpFaultDeasserted]
  split
  · exact reportsOf_quiet rfl rfl rfl rfl
  · refine reportsOf_next (State.Reports.trans ?_ (reports_grantTest _))
    exact reports_latchPump rfl rfl rfl

theorem execPumpHoldExpiry_reportsOf (c : Instr) (s : State) : ReportsOf c s (execPumpHoldExpiry s) := by
  unfold execPumpHoldExpiry
  split
  · exact reportsOf_fault _
  · exact reportsOf_next (reportsBy_finishLift_of_lifting
      (fun _ => (State.Reports.foldl _ (reports_abortWaiter s.arb) allSites _).after rfl rfl rfl rfl le_rfl)
      (State.EndsCounted.foldl (endsCounted_abortWaiter s.arb) allSites _).lifting)

/-! #### Die ports and the Row Engines' timers -/

theorem reportsOf_attemptEnded (c : Instr) (s : State) (i : SiteNo) (left : Nat) (y : Exchange) (e : Ending) :
    ReportsOf c s (.next ((s.noteOpenLeft i left).attemptEnded i y e).finishLift) :=
  reportsOf_next (reportsBy_finishLift_of_lifting
    (fun _ => (reports_noteOpenLeft s i left).trans (reports_attemptEnded _ i y e)) (by simp))

theorem execDieResponseComplete_reportsOf (c : Instr) (i : SiteNo) (ddi : Wire) (openLeft : Nat) (s : State) :
    ReportsOf c s (execDieResponseComplete i ddi openLeft s) := by
  simp only [execDieResponseComplete]
  split
  · exact reportsOf_quiet rfl rfl rfl rfl
  · split
    · exact reportsOf_quiet rfl rfl rfl rfl
    · split
      · exact reportsOf_quiet rfl rfl rfl rfl
      · exact reportsOf_attemptEnded c s i openLeft _ _

theorem execDieResponseDeadlineExpiry_reportsOf (c : Instr) (i : SiteNo) (openLeft : Nat) (s : State) :
    ReportsOf c s (execDieResponseDeadlineExpiry i openLeft s) := by
  unfold execDieResponseDeadlineExpiry
  split
  · exact reportsOf_fault _
  · split
    · exact reportsOf_fault _
    · exact reportsOf_attemptEnded c s i openLeft _ _

theorem execSettleTimerExpiry_reportsOf (c : Instr) (i : SiteNo) (s : State) : ReportsOf c s (execSettleTimerExpiry i s) := by
  unfold execSettleTimerExpiry
  split
  · exact reportsOf_fault _
  · split
    · exact reportsOf_fault _
    · exact reportsOf_next (reportsBy_finishLift_of_lifting (fun _ => reports_perform s i _) (by simp))

theorem execOpenTimerExpiry_reportsOf (c : Instr) (i : SiteNo) (s : State) : ReportsOf c s (execOpenTimerExpiry i s) := by
  unfold execOpenTimerExpiry
  split
  · exact reportsOf_fault _
  · split
    · exact reportsOf_fault _
    · split
      · exact reportsOf_next ((reports_withdraw s i).trans (reports_perform _ i _))
      · exact reportsOf_fault _

theorem execRestTimerExpiry_reportsOf (c : Instr) (i : SiteNo) (s : State) : ReportsOf c s (execRestTimerExpiry i s) := by
  unfold execRestTimerExpiry
  split
  · exact reportsOf_fault _
  · split
    · exact reportsOf_fault _
    · exact reportsOf_next (reports_perform s i _)

theorem dieCommand_reportsOf (c : Instr) (s : State) (i : SiteNo) (code : Byte) (act : Die → DieFrame → Die × DieAnswer) :
    ReportsOf c s (s.dieCommand i code act) := by
  unfold State.dieCommand
  split
  · exact reportsOf_next (reports_setDie s i _)
  · exact reportsOf_fault _

theorem execCommandFrameSent_reportsOf (c : Instr) (i : SiteNo) (ddo : Wire) (s : State) :
    ReportsOf c s (execCommandFrameSent i ddo s) := by
  simp only [execCommandFrameSent]
  split
  · exact reportsOf_fault _
  · split
    · exact reportsOf_fault _
    · exact reportsOf_quiet rfl rfl rfl rfl

/-- Outside a unit reset and its release each command reports what it changes of the conditions, or changes none. -/
theorem exec_reportsOf (c : Instr) (s : State) (hreset : s.resetsAt c = false) (hrelease : c ≠ .resetReleased) :
    ReportsOf c s (exec c s) := by
  cases c with
  | controlLinkByteReceived b stopHigh => exact execControlLinkByteReceived_reportsOf _ b stopHigh s
  | gapTimerExpiry => exact execGapTimerExpiry_reportsOf _ s
  | frameLastByteSent => exact execFrameLastByteSent_reportsOf _ s hreset
  | heldStatusReply =>
    refine takeFrame_reportsOf _ s _ _ fun s f => .inl ?_
    unfold State.doHeldStatus
    split
    · exact reports_reply s f _ _
    · exact State.Reports.refl s
  | badRequest => exact takeFrame_reportsOf _ s _ _ fun s f => .inl (reports_reply s f _ _)
  | identify => exact takeRequest_reportsOf _ s _ _ _ fun s f => .inl (reports_reply s f _ _)
  | status => exact takeRequest_reportsOf _ s _ _ _ fun s f => .inl (reports_reply s f _ _)
  | configure => exact takeRequest_reportsOf _ s _ _ _ fun s f => .inl (reports_doConfigure s f)
  | setEnables => exact takeRequest_reportsOf _ s _ _ _ fun s f => .inr (sameConds_doSetEnables s f)
  | touchdown => exact takeRequest_reportsOf _ s _ _ _ fun s f => .inl (reports_doTouchdown s f (.inl ⟨rfl, rfl⟩))
  | liftoff => exact takeRequest_reportsOf _ s _ _ _ fun s f => .inl (reportsBy_doLiftoff _ s f)
  | resetUnit => exact takeRequest_reportsOf _ s _ _ _ fun s f => .inl (.quiet rfl rfl rfl rfl le_rfl)
  | loadKeys => exact takeRequest_reportsOf _ s _ _ _ fun s f => .inl (reportsBy_doLoadKeys _ s f)
  | discardKeys => exact takeRequest_reportsOf _ s _ _ _ fun s f => .inl (reports_doDiscardKeys s f)
  | provision => exact takeRequest_reportsOf _ s _ _ _ fun s f => .inl (reports_doProvision s f)
  | cancel => exact takeRequest_reportsOf _ s _ _ _ fun s f => .inl (reportsBy_doCancel _ s f)
  | readRecords => exact takeRequest_reportsOf _ s _ _ _ fun s f => .inl (reports_reply s f _ _)
  | clearRecords => exact takeRequest_reportsOf _ s _ _ _ fun s f => .inl (reports_doClearRecords s f)
  | readEvents => exact takeRequest_reportsOf _ s _ _ _ fun s f => .inr (sameConds_doReadEvents s f)
  | powerOn | resetLineAsserted => cases hreset
  | resetReleased => exact absurd rfl hrelease
  | contactSensed i => exact execContactSensed_reportsOf _ i s
  | contactDropped i => exact execContactDropped_reportsOf _ i s
  | debounceExpiry i => exact execDebounceExpiry_reportsOf _ i s
  | seatTimeoutExpiry i => exact execSeatTimeoutExpiry_reportsOf _ i s
  | dieSupplyAsserted i => exact execDieSupplyAsserted_reportsOf _ i s
  | dieSupplyDeasserted i => exact execDieSupplyDeasserted_reportsOf _ i s
  | pumpFaultAsserted => exact execPumpFaultAsserted_reportsOf _ s
  | pumpFaultDeasserted => exact execPumpFaultDeasserted_reportsOf _ s
  | pumpHoldExpiry => exact execPumpHoldExpiry_reportsOf _ s
  | dieResponseComplete i ddi openLeft => exact execDieResponseComplete_reportsOf _ i ddi openLeft s
  | dieResponseDeadlineExpiry i openLeft => exact execDieResponseDeadlineExpiry_reportsOf _ i openLeft s
  | settleTimerExpiry i => exact execSettleTimerExpiry_reportsOf _ i s
  | openTimerExpiry i => exact execOpenTimerExpiry_reportsOf _ i s
  | restTimerExpiry i => exact execRestTimerExpiry_reportsOf _ i s
  | diePowerOn i cells => exact reportsOf_next (reports_setDie s i _)
  | reset i | closeAll i | enterProvisioning i | sense i | openRow i | pulse i a b | closeRow i | reload i | readShadow i =>
    exact dieCommand_reportsOf _ s i _ _
  | commandFrameSent i ddo => exact execCommandFrameSent_reportsOf _ i ddo s

/-! ### The statement -/

/-- Whatever differs in the global scope, the scope has been tested. -/
theorem State.Reports.globalTested {x : SiteCond → Prop} {s t : State} (h : s.Reports x t)
    (hdiff : t.globalStates ≠ s.globalStates ∨ s.log.records.length < t.log.records.length) : t.Tested .global := by
  rcases hdiff with hstates | hmore
  · by_contra hquiet
    have hpump := mt (fun e => (h.pump e).2) hquiet
    have hlow := mt (fun e => (h.poolLow e).2) hquiet
    have hhigh := mt (fun e => (h.logHigh e).2) hquiet
    rw [not_not] at hpump hlow hhigh
    exact hstates (by simp only [State.globalStates, hpump, hlow, hhigh])
  · exact (h.recordAdded hmore).2

/-- Settles O17: the first clause by `exec_reportsOf`; the others say what the reports and READ EVENTS are. -/
theorem latchRunsThrottleTest : Obligations.LatchRunsThrottleTest := by
  unfold Obligations.LatchRunsThrottleTest
  refine ⟨fun c s t hexec hreset hrelease => ?_, changeCond_reports, latchGlobal_reports, SiteBits.ofByte_byte,
    GlobalBits.ofByte_byte, fun s f rest b h hpay => ⟨fun i hi => ?_, fun hb => ?_⟩⟩
  · rcases exec_reportsOf c s hreset hrelease t hexec with h | ⟨hcond, hglobals, hrecords⟩
    · exact ⟨fun i d hne => (h.conds i d hne).imp id And.symm,
        ⟨fun e => (h.pump e).1, fun e => (h.poolLow e).1, fun e => (h.logHigh e).1, fun e => (h.recordAdded e).1⟩,
        h.globalTested⟩
    · obtain ⟨hpump, hlow, hhigh, -⟩ := GlobalBits.mk.inj hglobals
      have hnone : ¬ s.log.records.length < t.log.records.length := by rw [hrecords]; exact lt_irrefl _
      exact ⟨fun i d hne => absurd (hcond i d) hne, ⟨fun e => absurd hpump e, fun e => absurd hlow e,
        fun e => absurd hhigh e, fun e => absurd e hnone⟩, fun e => absurd e (not_or.mpr ⟨not_not.mpr hglobals, hnone⟩)⟩
  · have hexec := exec_readEvents h hpay (scopeOf_site hi)
    rw [scopeBytes_site s hi] at hexec
    exact ⟨_, hexec, clearScope_link _ _⟩
  · subst hb
    exact ⟨_, exec_readEvents h hpay scopeOf_global, clearScope_link _ _⟩

end Sys2Proof.Machine
end

section
/-!
SUPPORT. The receiver byte by byte (R158, R161 to R164): one equation for each case of a received byte, and what a byte makes of
the link: the receiver's next state, or a complete frame that takes a slot, is answered OVERRUN, or is discarded.
-/
namespace Sys2Proof.Machine

/-! ### One byte in each receive state (R161, R162) -/

section Take

variable {unit : BitVec 2} {r : Receiver} {b : Byte}

theorem take_hunt_start (hm : r.mode = .hunt) : r.take unit 0xA6 = (Receiver.inHeader [], none) := by
  simp [Receiver.take, hm, startByte]

theorem take_hunt_other (hm : r.mode = .hunt) (hb : b ≠ 0xA6) : r.take unit b = (r, none) := by
  simp only [Receiver.take, hm]
  exact if_neg hb

theorem take_header_more (hm : r.mode = .header) (hlen : r.header.length < 4) :
    r.take unit b = ({ r with header := r.header ++ [b], gap := some 1 }, none) := by
  simp only [Receiver.take, hm, List.length_append, List.length_singleton, if_pos (Nat.add_lt_add_right hlen 1)]

theorem take_header_fifth {h0 h1 h2 h3 : Byte} (hm : r.mode = .header) (hh : r.header = [h0, h1, h2, h3]) :
    r.take unit b = Receiver.headerDone unit [h0, h1, h2, h3, b] := by
  simp [Receiver.take, hm, hh]

theorem take_payload (hm : r.mode = .payload) : r.take unit b = ({ r with
    mode := if r.payload.length + 1 < headerLength r.header then .payload else .crc
    payload := r.payload ++ [b], gap := some 1 }, none) := by
  simp only [Receiver.take, hm, List.length_append, List.length_singleton]

theorem take_crc_first (hm : r.mode = .crc) (hc : r.crc = []) :
    r.take unit b = ({ r with crc := [b], gap := some 1 }, none) := by
  simp [Receiver.take, hm, hc]

theorem take_crc_second {b0 : Byte} (hm : r.mode = .crc) (hc : r.crc = [b0]) :
    r.take unit b = (Receiver.hunting, some (crcFrame r.header r.payload [b0, b])) := by
  simp [Receiver.take, hm, hc]

theorem take_skip_more (hm : r.mode = .skip) (hleft : 1 < r.skipLeft) :
    r.take unit b = ({ r with skipLeft := r.skipLeft - 1, gap := some 1 }, none) := by
  simp only [Receiver.take, hm, if_pos hleft]

theorem take_skip_last (hm : r.mode = .skip) (hleft : r.skipLeft = 1) :
    r.take unit b = (Receiver.hunting, if r.skipAnswer then some (frameOf r.header (some .badLength) []) else none) := by
  simp [Receiver.take, hm, hleft]

end Take

/-! ### The fifth header byte (R161, R162) -/

section Header

variable {unit : BitVec 2} {k ut hi lo c : Byte}

theorem headerDone_damaged (h : c ≠ 0xFF ^^^ k ^^^ ut ^^^ hi ^^^ lo) :
    Receiver.headerDone unit [k, ut, hi, lo, c] = (Receiver.reexamine [k, ut, hi, lo, c], none) := if_neg h

theorem headerDone_checked (h : c = 0xFF ^^^ k ^^^ ut ^^^ hi ^^^ lo) :
    Receiver.headerDone unit [k, ut, hi, lo, c] = Receiver.route unit [k, ut, hi, lo, c] := if_pos h

/-- A header for another unit or of a kind that is no request's. -/
theorem route_foreign (h : (ut >>> 6).setWidth 2 ≠ unit ∨ 0x40 ≤ k.toNat) :
    Receiver.route unit [k, ut, hi, lo, c] =
      if 256 * hi.toNat + lo.toNat = 0 then (Receiver.hunting, none)
      else (Receiver.skipping [k, ut, hi, lo, c] (256 * hi.toNat + lo.toNat + 2) false, none) :=
  if_pos (by simpa [headerUnit, byteAt] using h)

/-- A header of a request for this unit. -/
theorem route_own (hunit : (ut >>> 6).setWidth 2 = unit) (hkind : k.toNat < 0x40) :
    Receiver.route unit [k, ut, hi, lo, c] =
      if 600 < 256 * hi.toNat + lo.toNat then
        (Receiver.skipping [k, ut, hi, lo, c] (256 * hi.toNat + lo.toNat + 2) true, none)
      else if 256 * hi.toNat + lo.toNat = 0 then
        (Receiver.hunting, some { kind := k, tag := ut.setWidth 6, held := none, payload := [] })
      else ({ Receiver.hunting with mode := .payload, header := [k, ut, hi, lo, c], gap := some 1 }, none) :=
  if_neg (by simpa [headerUnit, byteAt] using ⟨hunit, hkind⟩)

end Header

/-- A damaged header without a start byte among its bytes is dropped (R161). -/
theorem reexamine_none {l : List Byte} (h : 0xA6 ∉ l) : Receiver.reexamine l = Receiver.hunting := by
  have hdrop : l.dropWhile (· ≠ startByte) = [] :=
    List.dropWhile_eq_nil_iff.mpr fun b hb => decide_eq_true fun e : b = 0xA6 => h (e ▸ hb)
  rw [Receiver.reexamine, hdrop]

/-- The bytes after the first start byte of a damaged header begin a new one (R161). -/
theorem reexamine_start {before after : List Byte} (h : 0xA6 ∉ before) :
    Receiver.reexamine (before ++ 0xA6 :: after) = Receiver.inHeader after := by
  have hbefore : ∀ b ∈ before, decide (b ≠ startByte) = true := fun b hb =>
    decide_eq_true fun e : b = 0xA6 => h (e ▸ hb)
  have hdrop : (before ++ 0xA6 :: after).dropWhile (· ≠ startByte) = 0xA6 :: after := by
    rw [List.dropWhile_append_of_pos hbefore]; rfl
  rw [Receiver.reexamine, hdrop]

/-! ### What a byte makes of the link (R163, R164) -/

/-- A byte that completes a frame leaves the receiver hunting. -/
theorem headerDone_hunting_or_none (unit : BitVec 2) (h : List Byte) :
    (Receiver.headerDone unit h).1 = Receiver.hunting ∨ (Receiver.headerDone unit h).2 = none := by
  simp only [Receiver.headerDone, Receiver.route]
  (repeat' split) <;> simp

theorem take_hunting_or_none (unit : BitVec 2) (r : Receiver) (b : Byte) :
    (r.take unit b).1 = Receiver.hunting ∨ (r.take unit b).2 = none := by
  unfold Receiver.take
  cases r.mode with
  | hunt => dsimp only; split <;> exact .inr rfl
  | header =>
    dsimp only
    split
    · exact .inr rfl
    · exact headerDone_hunting_or_none _ _
  | payload => exact .inr rfl
  | crc =>
    dsimp only
    split
    · exact .inr rfl
    · exact .inl rfl
  | skip =>
    dsimp only
    split
    · exact .inr rfl
    · exact .inl rfl

/-- A byte brings the receiver on, or completes one frame. -/
theorem take_cases (unit : BitVec 2) (r : Receiver) (b : Byte) :
    (∃ r', r.take unit b = (r', none)) ∨ ∃ f, r.take unit b = (Receiver.hunting, some f) := by
  rcases htake : r.take unit b with ⟨r', _ | f⟩
  · exact .inl ⟨r', rfl⟩
  · rcases take_hunting_or_none unit r b with h | h
    · rw [htake] at h; exact .inr ⟨f, by rw [show r' = Receiver.hunting from h]⟩
    · rw [htake] at h; cases h

theorem received_frame (s : State) (f : InFrame) :
    s.received (Receiver.hunting, some f) = { s with link := s.link.afterFrame f } := by
  have hslots : (s.setRx Receiver.hunting).link.slotsHeld = s.link.slotsHeld := rfl
  have hwaiting : (s.setRx Receiver.hunting).link.overrunsWaiting = s.link.overrunsWaiting := rfl
  simp only [State.received, State.frameComplete, Link.afterFrame, hslots, hwaiting]
  (repeat' split) <;> rfl

section Exec

variable {s : State} {b : Byte}

theorem exec_byte_quiet {r : Receiver} (hrun : s.rst.heldInReset = false)
    (htake : s.link.rx.take s.link.unitAddr b = (r, none)) :
    exec (.controlLinkByteReceived b true) s = .next { s with link := { s.link with rx := r } } := by
  simp [exec, execControlLinkByteReceived, hrun, htake, State.received, State.setRx]

theorem exec_byte_frame {f : InFrame} (hrun : s.rst.heldInReset = false)
    (htake : s.link.rx.take s.link.unitAddr b = (Receiver.hunting, some f)) :
    exec (.controlLinkByteReceived b true) s = .next { s with link := s.link.afterFrame f } := by
  simp [exec, execControlLinkByteReceived, hrun, htake, received_frame]

theorem exec_byte_held (stopHigh : Bool) (hheld : s.rst.heldInReset = true) :
    exec (.controlLinkByteReceived b stopHigh) s = .next s := by
  simp [exec, execControlLinkByteReceived, hheld]

theorem exec_byte_framingError (hrun : s.rst.heldInReset = false) :
    exec (.controlLinkByteReceived b false) s = .next { s with link := { s.link with rx := Receiver.hunting } } := by
  simp [exec, execControlLinkByteReceived, hrun, State.setRx]

end Exec

/-- In HUNT no byte completes a frame. -/
theorem mode_ne_hunt_of_take {unit : BitVec 2} {r r' : Receiver} {b : Byte} {f : InFrame}
    (h : r.take unit b = (r', some f)) : r.mode ≠ .hunt := fun hm => by
  have hnone : (r.take unit b).2 = none := by
    simp only [Receiver.take, hm]
    split <;> rfl
  rw [h] at hnone
  cases hnone

/-- A complete frame changes one queue at most, by one frame (R163). -/
theorem afterFrame_queues (l : Link) (f : InFrame) :
    ((l.afterFrame f).intake = l.intake ∧ (l.afterFrame f).outq = l.outq) ∨
    (l.slotsHeld < 4 ∧ (l.afterFrame f).intake = l.intake ++ [f] ∧ (l.afterFrame f).outq = l.outq) ∨
    (4 ≤ l.slotsHeld ∧ l.overrunsWaiting < 2 ∧ (l.afterFrame f).intake = l.intake ∧ (l.afterFrame f).outq =
      l.outq ++ [{ source := .overrun, kind := f.kind + 0x80, tag := f.tag, payload := [0x14] }]) := by
  unfold Link.afterFrame
  split
  · next hfree => exact .inr (.inl ⟨hfree, rfl, rfl⟩)
  · next hfull =>
    split
    · next hfew => exact .inr (.inr ⟨not_lt.mp hfull, hfew, rfl, rfl⟩)
    · exact .inl ⟨rfl, rfl⟩

@[simp] theorem afterFrame_rx (l : Link) (f : InFrame) : (l.afterFrame f).rx = Receiver.hunting := by
  unfold Link.afterFrame; (repeat' split) <;> rfl

@[simp] theorem afterFrame_unitAddr (l : Link) (f : InFrame) : (l.afterFrame f).unitAddr = l.unitAddr := by
  unfold Link.afterFrame; (repeat' split) <;> rfl

@[simp] theorem afterFrame_lastSent (l : Link) (f : InFrame) : (l.afterFrame f).lastSent = l.lastSent := by
  unfold Link.afterFrame; (repeat' split) <;> rfl

/-! ### The statements -/

/-- Settles O5: a byte is one of the cases of `take_cases`; each further clause is the equation of its receive state. -/
theorem receiverHandlesByteAndGap : Obligations.ReceiverHandlesByteAndGap := by
  unfold Obligations.ReceiverHandlesByteAndGap
  refine ⟨fun s b stopHigh => ?byte, fun s b hrun hm => ⟨fun hlen => exec_byte_quiet hrun (take_header_more hm hlen),
    fun h0 h1 h2 h3 hh hbad => ⟨fun hnone => exec_byte_quiet hrun ?dropped, fun before after heq hbefore => ?restarted⟩⟩,
    fun s n hgap => ?gap, fun s hgap => ?stopped⟩
  case byte =>
    cases hrun : s.rst.heldInReset with
    | true => exact ⟨s.link, exec_byte_held stopHigh hrun, by simp⟩
    | false =>
      cases stopHigh with
      | false => exact ⟨_, exec_byte_framingError hrun, by simp⟩
      | true =>
        rcases take_cases s.link.unitAddr s.link.rx b with ⟨r, htake⟩ | ⟨f, htake⟩
        · refine ⟨_, exec_byte_quiet hrun htake, rfl, rfl, .inl ⟨rfl, rfl⟩, by simp, by simp, fun _ _ hm hb => ?_,
            fun _ _ hm hb => ?_⟩
          · rw [take_hunt_other hm hb] at htake
            rw [← (Prod.mk.inj htake).1]
          · rw [hb, take_hunt_start hm] at htake
            rw [← (Prod.mk.inj htake).1]
            rfl
        · have hmode := mode_ne_hunt_of_take htake
          refine ⟨_, exec_byte_frame hrun htake, by simp, by simp, ?_, by simp, by simp, fun _ _ hm => absurd hm hmode,
            fun _ _ hm => absurd hm hmode⟩
          rcases afterFrame_queues s.link f with hsame | ⟨hfree, hin, hout⟩ | ⟨hfull, hfew, hin, hout⟩
          · exact .inl hsame
          · exact .inr (.inl ⟨f, hfree, by simp, hin, hout⟩)
          · exact .inr (.inr ⟨f.kind, f.tag, hfull, hfew, by simp, hin, hout⟩)
  case dropped => rw [take_header_fifth hm hh, headerDone_damaged hbad, reexamine_none hnone]
  case restarted =>
    have htake : s.link.rx.take s.link.unitAddr b = (Receiver.inHeader after, none) := by
      rw [take_header_fifth hm hh, headerDone_damaged hbad, heq, reexamine_start hbefore]
    exact exec_byte_quiet hrun htake
  case gap => simp [exec, execGapTimerExpiry, hgap, State.setRx]
  case stopped => simp [exec, execGapTimerExpiry, hgap]

/-- A received CRC is right when it is the word its two bytes make, low byte first (R160). -/
theorem crcBytes_eq_iff (b0 b1 : Byte) (w : BitVec 16) : [b0, b1] = bytesLE 2 w.toNat ↔ b1 ++ b0 = w := by
  have happend : (b1 ++ b0).toNat = 256 * b1.toNat + b0.toNat := by
    rw [BitVec.toNat_append, ← Nat.shiftLeft_add_eq_or_of_lt b0.isLt, Nat.shiftLeft_eq]; omega
  have hw := w.isLt
  have h0 := b0.isLt
  have h1 := b1.isLt
  rw [bytesLE_succ, bytesLE_succ, show bytesLE 0 _ = [] from rfl]
  simp only [List.cons.injEq, and_true, ← BitVec.toNat_inj, BitVec.toNat_ofNat, happend]
  omega

/-- Settles O9: the equations of the CRC, header and skip states, each with the link after a complete frame. -/
theorem completedFrameTakesSlotOrOverruns : Obligations.CompletedFrameTakesSlotOrOverruns := by
  unfold Obligations.CompletedFrameTakesSlotOrOverruns
  refine ⟨fun s b0 b1 hrun hm hc f hkind htag hgood hbad => ?crc,
    fun s k ut hi lo b hrun hm hh hb hunit hkind => ⟨fun hlen => exec_byte_frame hrun ?empty, fun hlen => ?long⟩,
    fun s b hrun hm => ⟨fun hleft => exec_byte_quiet hrun (take_skip_more hm hleft),
      fun hleft => ⟨fun hans => exec_byte_frame hrun ?answered, fun hans => exec_byte_quiet hrun ?passed⟩⟩⟩
  case crc =>
    have hframe : crcFrame s.link.rx.header s.link.rx.payload [b0, b1] = f := by
      by_cases hcrc : b1 ++ b0 = payloadCrc s.link.rx.payload
      · obtain ⟨hheld, hpay⟩ := hgood hcrc
        rw [crcFrame, if_pos ((crcBytes_eq_iff _ _ _).mpr hcrc), frameOf, headerTag, ← hkind, ← htag, ← hheld, ← hpay]
      · obtain ⟨hheld, hpay⟩ := hbad hcrc
        rw [crcFrame, if_neg (mt (crcBytes_eq_iff _ _ _).mp hcrc), frameOf, headerTag, ← hkind, ← htag, ← hheld, ← hpay]
    exact exec_byte_frame hrun (by rw [take_crc_second hm hc, hframe])
  case empty => rw [take_header_fifth hm hh, headerDone_checked hb, route_own hunit hkind, if_neg (by omega), if_pos hlen]
  case long =>
    have htake : s.link.rx.take s.link.unitAddr b =
        (Receiver.skipping [k, ut, hi, lo, b] (256 * hi.toNat + lo.toNat + 2) true, none) := by
      rw [take_header_fifth hm hh, headerDone_checked hb, route_own hunit hkind, if_pos hlen]
    exact exec_byte_quiet hrun htake
  case answered => rw [take_skip_last hm hleft, if_pos hans]; rfl
  case passed => rw [take_skip_last hm hleft, hans]; rfl

end Sys2Proof.Machine
end

section
/-!
SUPPORT. Whole frames on the receive line (R159 to R163): a run of bytes that completes no frame only brings the receiver on, and a
frame is such a run and one last byte.
-/
namespace Sys2Proof.Machine

/-! ### Runs of bytes that complete no frame -/

/-- The bytes bring the receiver from one state to another, and none of them completes a frame. -/
inductive Receiver.Absorbs (unit : BitVec 2) : Receiver → List Byte → Receiver → Prop
  | done (r : Receiver) : Absorbs unit r [] r
  | byte {r r' r'' : Receiver} {b : Byte} {bs : List Byte} (one : r.take unit b = (r', none))
      (more : Absorbs unit r' bs r'') : Absorbs unit r (b :: bs) r''

theorem Receiver.Absorbs.append {unit : BitVec 2} {r r' r'' : Receiver} {bs cs : List Byte} (h : Absorbs unit r bs r')
    (g : Absorbs unit r' cs r'') : Absorbs unit r (bs ++ cs) r'' := by
  induction h with
  | done r => exact g
  | byte one _ ih => exact .byte one (ih g)

/-- Such a run changes the receiver alone. -/
theorem execAll_absorbs {s : State} {bs cs : List Byte} {r : Receiver} (hrun : s.rst.heldInReset = false)
    (h : Receiver.Absorbs s.link.unitAddr s.link.rx bs r) :
    execAll (bytesArrive (bs ++ cs)) s = execAll (bytesArrive cs) { s with link := { s.link with rx := r } } := by
  induction bs generalizing s with
  | nil => cases h; rfl
  | cons b bs ih =>
    cases h with
    | byte one more =>
      simp only [bytesArrive, List.cons_append, List.map_cons, execAll, exec_byte_quiet hrun one]
      exact ih hrun more

theorem execAll_absorbs_all {s : State} {bs : List Byte} {r : Receiver} (hrun : s.rst.heldInReset = false)
    (h : Receiver.Absorbs s.link.unitAddr s.link.rx bs r) :
    execAll (bytesArrive bs) s = .next { s with link := { s.link with rx := r } } := by
  have hall := execAll_absorbs (cs := []) hrun h
  rwa [List.append_nil] at hall

/-- A run that the next byte makes a complete frame. -/
theorem execAll_absorbs_frame {s : State} {bs : List Byte} {b : Byte} {r : Receiver} {f : InFrame}
    (hrun : s.rst.heldInReset = false) (h : Receiver.Absorbs s.link.unitAddr s.link.rx bs r)
    (hlast : r.take s.link.unitAddr b = (Receiver.hunting, some f)) :
    execAll (bytesArrive (bs ++ [b])) s = .next { s with link := { s.link with rx := r }.afterFrame f } := by
  rw [execAll_absorbs hrun h]
  have hexec := exec_byte_frame (s := { s with link := { s.link with rx := r } }) hrun hlast
  simp only [bytesArrive, List.map_cons, List.map_nil, execAll, hexec]

/-! ### Header, payload, CRC and passed bytes -/

section Parts

variable (unit : BitVec 2)

theorem absorbs_header (k ut hi lo : Byte) :
    Receiver.Absorbs unit Receiver.hunting [0xA6, k, ut, hi, lo] (Receiver.inHeader [k, ut, hi, lo]) :=
  .byte (take_hunt_start rfl) <| .byte (take_header_more rfl (show 0 < 4 by decide)) <|
    .byte (take_header_more rfl (show 1 < 4 by decide)) <| .byte (take_header_more rfl (show 2 < 4 by decide)) <|
    .byte (take_header_more rfl (show 3 < 4 by decide)) <| .done _

/-- The receiver after a header and part of its payload. -/
def Receiver.inPayload (header payload : List Byte) : Receiver :=
  { Receiver.hunting with mode := .payload, header := header, payload := payload, gap := some 1 }

/-- The receiver after a header and its whole payload. -/
def Receiver.inCrc (header payload crc : List Byte) : Receiver :=
  { Receiver.hunting with mode := .crc, header := header, payload := payload, crc := crc, gap := some 1 }

/-- The rest of a payload is gathered up to the length that the header gives. -/
theorem absorbs_payload (header : List Byte) {p : List Byte} (hp : p ≠ []) (q : List Byte)
    (hlen : q.length + p.length = headerLength header) :
    Receiver.Absorbs unit (Receiver.inPayload header q) p (Receiver.inCrc header (q ++ p) []) := by
  induction p generalizing q with
  | nil => exact absurd rfl hp
  | cons b p ih =>
    have htake := take_payload (unit := unit) (r := Receiver.inPayload header q) (b := b) rfl
    cases p with
    | nil =>
      rw [show (Receiver.inPayload header q).payload = q from rfl,
        show (Receiver.inPayload header q).header = header from rfl, if_neg (by simp at hlen; omega)] at htake
      exact .byte htake (.done _)
    | cons b' p =>
      rw [show (Receiver.inPayload header q).payload = q from rfl,
        show (Receiver.inPayload header q).header = header from rfl, if_pos (by simp at hlen; omega)] at htake
      have hmore := ih (List.cons_ne_nil _ _) (q ++ [b]) (by simp at hlen ⊢; omega)
      rw [List.append_assoc, List.singleton_append] at hmore
      exact .byte htake hmore

/-- Bytes passed over for another unit, or of another kind, to the last of them. -/
theorem absorbs_skip (header : List Byte) {bs : List Byte} (hbs : bs ≠ []) :
    Receiver.Absorbs unit (Receiver.skipping header bs.length false) bs Receiver.hunting := by
  induction bs with
  | nil => exact absurd rfl hbs
  | cons b bs ih =>
    cases bs with
    | nil => exact .byte (take_skip_last rfl rfl) (.done _)
    | cons b' bs => exact .byte (take_skip_more rfl (by simp [Receiver.skipping])) (ih (List.cons_ne_nil _ _))

end Parts

/-! ### The header of a frame sent (R159) -/

theorem unitTag_unit (unit : BitVec 2) (tag : BitVec 6) : ((unitTag unit tag) >>> 6).setWidth 2 = unit := by
  revert unit tag; decide

theorem unitTag_tag (unit : BitVec 2) (tag : BitVec 6) : (unitTag unit tag).setWidth 6 = tag := by
  revert unit tag; decide

/-- The length bytes of a frame give its payload's length back. -/
theorem lengthBytes {n : Nat} (h : n < 65536) :
    256 * (BitVec.ofNat 8 (n / 256)).toNat + (BitVec.ofNat 8 n).toNat = n := by
  simp only [BitVec.toNat_ofNat]; omega

/-- The five header bytes of a frame (R159). -/
def frameHeader (unit : BitVec 2) (kind : Byte) (tag : BitVec 6) (n : Nat) : List Byte :=
  let ut := unitTag unit tag
  let hi := BitVec.ofNat 8 (n / 256)
  let lo := BitVec.ofNat 8 n
  [kind, ut, hi, lo, 0xFF ^^^ kind ^^^ ut ^^^ hi ^^^ lo]

theorem frameBytes_nil (unit : BitVec 2) (kind : Byte) (tag : BitVec 6) :
    frameBytes unit kind tag [] = 0xA6 :: frameHeader unit kind tag 0 := rfl

theorem frameBytes_of_ne {unit : BitVec 2} {kind : Byte} {tag : BitVec 6} {p : List Byte} (hp : p ≠ []) :
    frameBytes unit kind tag p =
      (0xA6 :: frameHeader unit kind tag p.length) ++ (p ++ bytesLE 2 (payloadCrc p).toNat) := by
  have hne : p.isEmpty = false := by simpa using hp
  rw [frameBytes, hne]
  rfl

/-- A frame's header sends the receiver where its route does. -/
theorem absorbs_frameHeader {unit own : BitVec 2} {kind : Byte} {tag : BitVec 6} {n : Nat} {r : Receiver}
    (hroute : Receiver.route own (frameHeader unit kind tag n) = (r, none)) :
    Receiver.Absorbs own Receiver.hunting (0xA6 :: frameHeader unit kind tag n) r := by
  refine (absorbs_header own _ _ _ _).append (cs := [_]) (.byte ?_ (.done r))
  rw [take_header_fifth rfl rfl, headerDone_checked rfl]
  exact hroute

/-- A frame that passes without a trace (R162). -/
theorem absorbs_foreign {unit own : BitVec 2} {kind : Byte} (tag : BitVec 6) {p : List Byte}
    (hforeign : unit ≠ own ∨ 0x40 ≤ kind.toNat) (hlen : p.length < 65536) :
    Receiver.Absorbs own Receiver.hunting (frameBytes unit kind tag p) Receiver.hunting := by
  have hroute : Receiver.route own (frameHeader unit kind tag p.length) = if p.length = 0 then (Receiver.hunting, none)
      else (Receiver.skipping (frameHeader unit kind tag p.length) (p.length + 2) false, none) := by
    rw [frameHeader, route_foreign (by rwa [unitTag_unit]), lengthBytes hlen]
  by_cases hp : p = []
  · subst hp
    exact absorbs_frameHeader (hroute.trans (if_pos rfl))
  · rw [frameBytes_of_ne hp]
    rw [if_neg (by simpa using hp)] at hroute
    have hrest : (p ++ bytesLE 2 (payloadCrc p).toNat).length = p.length + 2 := by simp
    refine (absorbs_frameHeader hroute).append ?_
    rw [← hrest]
    exact absorbs_skip own _ (by simp [hp])

/-- A request with a payload, but for its last CRC byte. -/
theorem absorbs_own {unit : BitVec 2} {kind : Byte} (tag : BitVec 6) {p : List Byte} (c : Byte) (hkind : kind.toNat < 0x40)
    (hp : p ≠ []) (hlen : p.length ≤ 600) :
    Receiver.Absorbs unit Receiver.hunting ((0xA6 :: frameHeader unit kind tag p.length) ++ (p ++ [c]))
      (Receiver.inCrc (frameHeader unit kind tag p.length) p [c]) := by
  have hroute : Receiver.route unit (frameHeader unit kind tag p.length) =
      (Receiver.inPayload (frameHeader unit kind tag p.length) [], none) := by
    rw [frameHeader, route_own (unitTag_unit unit tag) hkind, lengthBytes (by omega), if_neg (by omega),
      if_neg (by simpa using hp)]
    rfl
  have hheader : headerLength (frameHeader unit kind tag p.length) = p.length := lengthBytes (by omega)
  exact (absorbs_frameHeader hroute).append <|
    (absorbs_payload unit _ hp [] (by simp [hheader])).append (.byte (take_crc_first rfl rfl) (.done _))

/-- The header check completes a request without a payload. -/
theorem take_check_empty {unit : BitVec 2} {kind : Byte} (tag : BitVec 6) (hkind : kind.toNat < 0x40) :
    (Receiver.inHeader [kind, unitTag unit tag, 0, 0]).take unit (0xFF ^^^ kind ^^^ unitTag unit tag ^^^ 0 ^^^ 0) =
      (Receiver.hunting, some { kind := kind, tag := tag, held := none, payload := [] }) := by
  rw [take_header_fifth rfl rfl, headerDone_checked rfl, route_own (unitTag_unit unit tag) hkind, if_neg (by decide),
    if_pos (by decide), unitTag_tag]

/-- The second CRC byte completes a request with a payload. -/
theorem take_crc_right {unit : BitVec 2} (kind : Byte) (tag : BitVec 6) {p : List Byte} {c0 c1 : Byte}
    (hcrc : bytesLE 2 (payloadCrc p).toNat = [c0, c1]) :
    (Receiver.inCrc (frameHeader unit kind tag p.length) p [c0]).take unit c1 =
      (Receiver.hunting, some { kind := kind, tag := tag, held := none, payload := p }) := by
  have hframe : crcFrame (frameHeader unit kind tag p.length) p [c0, c1] =
      { kind := kind, tag := tag, held := none, payload := p } := by
    rw [crcFrame, if_pos hcrc.symm]
    exact congrArg (InFrame.mk kind · none p) (unitTag_tag unit tag)
  rw [take_crc_second rfl rfl, ← hframe]
  rfl

/-- A request's last byte completes it, as it was sent. -/
theorem absorbs_then_completes {unit : BitVec 2} {kind : Byte} (tag : BitVec 6) {p : List Byte} (hkind : kind.toNat < 0x40)
    (hlen : p.length ≤ 600) :
    ∃ bs b r, frameBytes unit kind tag p = bs ++ [b] ∧ Receiver.Absorbs unit Receiver.hunting bs r ∧
      r.take unit b = (Receiver.hunting, some { kind := kind, tag := tag, held := none, payload := p }) := by
  by_cases hp : p = []
  · subst hp
    exact ⟨_, _, _, rfl, absorbs_header unit kind (unitTag unit tag) 0 0, take_check_empty tag hkind⟩
  · obtain ⟨c0, c1, hcrc⟩ : ∃ c0 c1, bytesLE 2 (payloadCrc p).toNat = [c0, c1] := ⟨_, _, rfl⟩
    refine ⟨_, c1, _, ?_, absorbs_own tag c0 hkind hp hlen, take_crc_right kind tag hcrc⟩
    rw [frameBytes_of_ne hp, hcrc]
    simp

/-! ### The statements -/

/-- Settles O7: the frame's bytes but the last bring the receiver on, and the last completes the frame. -/
theorem wholeFrameReachesTheIntakeQueue : Obligations.WholeFrameReachesTheIntakeQueue := by
  unfold Obligations.WholeFrameReachesTheIntakeQueue
  intro s kind tag p hrun hrx hkind hlen hfree
  obtain ⟨bs, b, r, hbytes, habsorbs, hlast⟩ := absorbs_then_completes (unit := s.link.unitAddr) tag hkind hlen
  rw [← hrx] at habsorbs
  have hplaced : ∀ f, { s.link with rx := r }.afterFrame f = { s.link with intake := s.link.intake ++ [f] } := fun f =>
    (if_pos hfree : { s.link with rx := r }.afterFrame f =
      { s.link with rx := Receiver.hunting, intake := s.link.intake ++ [f] }).trans (by rw [← hrx])
  rw [hbytes, execAll_absorbs_frame hrun habsorbs hlast, hplaced]

/-- Settles O8: none of the bytes of such a frame completes a frame, and the receiver hunts again. -/
theorem foreignFrameLeavesNoTrace : Obligations.ForeignFrameLeavesNoTrace := by
  unfold Obligations.ForeignFrameLeavesNoTrace
  intro s unit kind tag p hrun hrx hforeign hlen
  have habsorbs := absorbs_foreign tag hforeign hlen
  rw [← hrx] at habsorbs
  exact execAll_absorbs_all hrun habsorbs

end Sys2Proof.Machine
end

section
/-!
SUPPORT. A frame sent, the reply to RESET UNIT (R164 to R166, R174), and the events that cannot come about in the state they meet
(log entry 7).
-/
namespace Sys2Proof.Machine

/-! ### A frame sent (R164, R165) -/

theorem exec_frameSent {s : State} {o : OutFrame} {rest : List OutFrame} (hq : s.link.outq = o :: rest)
    (ho : o.source ≠ .resetReply) : exec .frameLastByteSent s = .next (s.frameSent o rest) := by
  simp only [exec, execFrameLastByteSent, hq, if_neg ho]

/-- The last byte of the reply to RESET UNIT brings the unit reset (R166). -/
theorem exec_resetReplySent {s : State} {o : OutFrame} {rest : List OutFrame} (hq : s.link.outq = o :: rest)
    (ho : o.source = .resetReply) :
    exec .frameLastByteSent s = .next ((s.frameSent o rest).blocksReset .request false).leaveReset := by
  simp only [exec, execFrameLastByteSent, hq, if_pos ho]

/-- Settles O6, by what the last byte of a frame that brings no reset does (`exec_frameSent`). -/
theorem sentFrameLeavesTheOutputQueue : Obligations.SentFrameLeavesTheOutputQueue := by
  unfold Obligations.SentFrameLeavesTheOutputQueue
  refine ⟨fun s o rest hq ho => exec_frameSent hq ho, fun s hq => ?_⟩
  simp only [exec, execFrameLastByteSent, hq]

/-- Settles O4: the request is a frame taken whose act is `State.doResetUnit`; the reset is `exec_resetReplySent`. -/
theorem resetUnitWaitsForItsReply : Obligations.ResetUnitWaitsForItsReply := by
  unfold Obligations.ResetUnitWaitsForItsReply
  refine ⟨fun s f rest hfront hpay => ?taken, fun s o rest hq ho => ⟨_, exec_resetReplySent hq ho, ?sent⟩⟩
  case taken =>
    have hreply : f.kind + 0x80 = 0x87 := by rw [hfront.kind]; rfl
    rw [← hreply]
    exact takeRequest_front hfront (ok := lengthIs 0) (by rw [hpay]; rfl) State.doResetUnit
  case sent => exact ⟨rfl, rfl, rfl, rfl, rfl, rfl, rfl, rfl, rfl, rfl, rfl, rfl, rfl⟩

/-! ### Requests out of place (R164, R166) -/

/-- The request commands and the kinds they take (R176). -/
def requestRows : List (Instr × Byte) :=
  [(.identify, 0x01), (.status, 0x02), (.configure, 0x03), (.setEnables, 0x04), (.touchdown, 0x05), (.liftoff, 0x06),
    (.resetUnit, 0x07), (.loadKeys, 0x10), (.discardKeys, 0x11), (.provision, 0x12), (.cancel, 0x13), (.readRecords, 0x14),
    (.clearRecords, 0x15), (.readEvents, 0x16)]

theorem exec_requestRow {r : Instr × Byte} (hr : r ∈ requestRows) :
    ∃ ok act, ∀ s, exec r.1 s = s.takeRequest r.2 ok act := by
  simp only [requestRows, List.mem_cons, List.not_mem_nil, or_false] at hr
  rcases hr with rfl | rfl | hr
  · exact ⟨_, fun s f => s.reply f .ok s.identifyFields, fun _ => rfl⟩
  · exact ⟨_, fun s f => s.reply f .ok s.statusFields, fun _ => rfl⟩
  · rcases hr with rfl | rfl | rfl | rfl | rfl | rfl | rfl | rfl | rfl | rfl | rfl | rfl <;> exact ⟨_, _, fun _ => rfl⟩

theorem takeRequest_stopped {s : State} (h : s.rst.heldInReset = true ∨ s.rst.requestPending = true) (kind : Byte)
    (ok : List Byte → Bool) (act : State → InFrame → State) :
    s.takeRequest kind ok act = .fault .dispatcherStopped :=
  if_pos (by simpa using h)

theorem takeRequest_other {s : State} (hrun : s.rst.heldInReset = false) (htake : s.rst.requestPending = false) {kind : Byte}
    (h : ∀ f rest, s.link.intake = f :: rest → f.held ≠ none ∨ f.kind ≠ kind) (ok : List Byte → Bool)
    (act : State → InFrame → State) : s.takeRequest kind ok act = .fault .noSuchFrameInFront := by
  simp only [State.takeRequest, State.takeFrame, hrun, htake, Bool.or_self, Bool.false_eq_true, if_false]
  split
  · rfl
  · next f rest hin =>
    have hother : InFrame.isRequest kind f = false := by
      simpa [InFrame.isRequest, imp_iff_not_or] using h f rest hin
    rw [hother]
    rfl

/-! ### Die commands out of place (R75) -/

/-- The die commands at a site and their codes (R65). -/
def dieRows (i : SiteNo) : List (Instr × Byte) :=
  [(.reset i, 0x01), (.closeAll i, 0x02), (.enterProvisioning i, 0x03), (.sense i, 0x10), (.openRow i, 0x11),
    (.pulse i 0 0, 0x12), (.closeRow i, 0x13), (.reload i, 0x20), (.readShadow i, 0x21)]

theorem exec_dieRow {i : SiteNo} {p : Instr × Byte} (hp : p ∈ dieRows i) : ∃ act, ∀ s, exec p.1 s = s.dieCommand i p.2 act := by
  simp only [dieRows, List.mem_cons, List.not_mem_nil, or_false] at hp
  rcases hp with rfl | rfl | rfl | rfl | rfl | rfl | rfl | rfl | rfl <;> exact ⟨_, fun _ => rfl⟩

theorem dieCommand_other {s : State} {i : SiteNo} {code : Byte} (h : ∀ x ∈ (s.die i).held.head?, x.frame.code ≠ code)
    (act : Die → DieFrame → Die × DieAnswer) : s.dieCommand i code act = .fault .dieHoldsNoSuchFrame := by
  have hnone : (s.die i).carryOut code act = none := by
    unfold Die.carryOut
    split
    · rfl
    · next x rest hheld => exact if_neg (h x (by rw [hheld]; rfl))
  rw [State.dieCommand, hnone]

/-! ### Timers and frames of a site out of place (R66, R87, R95) -/

section Site

variable {s : State} {i : SiteNo}

theorem exec_deadline_stopped (h : ∀ x, (s.site i).port.exch = some x → x.timer = none) (left : Nat) :
    exec (.dieResponseDeadlineExpiry i left) s = .fault .timerNotRunning := by
  simp only [exec, execDieResponseDeadlineExpiry]
  split
  · rfl
  · next x hx => rw [h x hx]

theorem exec_settle_stopped (h : ∀ j, (s.site i).job = some j → j.engine.settleTimer = none) :
    exec (.settleTimerExpiry i) s = .fault .timerNotRunning := by
  simp only [exec, execSettleTimerExpiry]
  split
  · rfl
  · next j hj => rw [h j hj]

theorem exec_open_stopped (h : ∀ j, (s.site i).job = some j → j.engine.openTimer = none) :
    exec (.openTimerExpiry i) s = .fault .timerNotRunning := by
  simp only [exec, execOpenTimerExpiry]
  split
  · rfl
  · next j hj => rw [h j hj]

theorem exec_rest_stopped (h : ∀ j, (s.site i).job = some j → j.engine.restTimer = none) :
    exec (.restTimerExpiry i) s = .fault .timerNotRunning := by
  simp only [exec, execRestTimerExpiry]
  split
  · rfl
  · next j hj => rw [h j hj]

/-- The open timer has no expiry but in GRANT_WAIT, PULSING and SENSING (R87, R95). -/
theorem onOpenExpiry_none {j : Job} (h : j.engine.stage ∉ [Stage.grantWait, .pulsing, .sensing]) : j.onOpenExpiry = none := by
  unfold Job.onOpenExpiry
  cases hs : j.engine.stage with
  | grantWait | pulsing | sensing => exact absurd (by simp [hs]) h
  | idle | opening | settling | closing | resting | verifying => rfl

theorem exec_open_early {j : Job} {n : Nat} (hj : (s.site i).job = some j) (ht : j.engine.openTimer = some n)
    (h : j.engine.stage ∉ [Stage.grantWait, .pulsing, .sensing]) :
    exec (.openTimerExpiry i) s = .fault .expiryCannotArise := by
  simp only [exec, execOpenTimerExpiry, hj, ht, onOpenExpiry_none h]

theorem exec_commandFrame_none (h : ∀ x, (s.site i).port.exch = some x → x.timer ≠ none) (w : Wire) :
    exec (.commandFrameSent i w) s = .fault .noFrameBeingSent := by
  simp only [exec, execCommandFrameSent]
  split
  · rfl
  · next x hx =>
    split
    · rfl
    · next ht => exact absurd ht (h x hx)

end Site

/-! ### The statement -/

/-- Settles O60: a request goes through `State.takeRequest` and a die command through `State.dieCommand`; each other event has
its own lemma above. -/
theorem eventsOutOfPlaceFault : Obligations.EventsOutOfPlaceFault := by
  unfold Obligations.EventsOutOfPlaceFault
  refine ⟨fun r hr s => ?request, fun s i left => ⟨fun h => ?debounce, fun h => ?seat, fun h => ?pumpHold,
    fun h => exec_deadline_stopped h left, exec_settle_stopped, exec_open_stopped, exec_rest_stopped,
    fun j n => exec_open_early, exec_commandFrame_none, fun p hp h => ?die⟩⟩
  case request =>
    obtain ⟨ok, act, hexec⟩ := exec_requestRow hr
    rw [hexec]
    exact ⟨fun h => takeRequest_stopped h _ _ _, fun hrun htake h => takeRequest_other hrun htake h _ _⟩
  case debounce => simp only [exec, execDebounceExpiry, h]
  case seat => simp only [exec, execSeatTimeoutExpiry, h]
  case pumpHold => simp only [exec, execPumpHoldExpiry, h]
  case die =>
    obtain ⟨act, hexec⟩ := exec_dieRow hp
    rw [hexec]
    exact dieCommand_other h act

end Sys2Proof.Machine
end

section
/-!
SUPPORT. Over every command: the intake slots held and the OVERRUN replies waiting (R163, R164). No operation of the blocks touches
either; a request frees its frame's slot and holds at most one for its reply; a received frame takes a slot only where one is free.
-/
namespace Sys2Proof.Machine

/-! ### Operations that place no reply and no OVERRUN -/

/-- What `State.LinkInv` bounds: the intake slots held, and the OVERRUN replies waiting. -/
def State.linkLoad (s : State) : Nat × Nat := (s.link.slotsHeld, s.link.overrunsWaiting)

theorem linkLoad_of_link {s t : State} (h : t.link = s.link) : t.linkLoad = s.linkLoad := by
  simp only [State.linkLoad, h]

theorem linkLoad_forSites {f : State → SiteNo → State} (h : ∀ s i, (f s i).linkLoad = s.linkLoad) (s : State) :
    (forSites f s).linkLoad = s.linkLoad := foldl_keeps State.linkLoad f h allSites s

section Operations

variable (s : State) (i : SiteNo)

theorem linkLoad_finishLift : s.finishLift.linkLoad = s.linkLoad := by simp [State.linkLoad]

theorem linkLoad_abort (p : PendingEnd) : (s.abort i p).linkLoad = s.linkLoad := by simp [State.linkLoad]

theorem linkLoad_testAdmission : (s.testAdmission i).linkLoad = s.linkLoad := by simp [State.linkLoad]

theorem linkLoad_enableSite (before : SiteSet) : (State.enableSite before s i).linkLoad = s.linkLoad := by
  unfold State.enableSite
  (repeat' split) <;> rfl

theorem linkLoad_applyEntry (e : ParamId × Nat) : (s.applyEntry e).linkLoad = s.linkLoad := by
  obtain ⟨p, v⟩ := e
  cases p
  case sitesEnabled => exact linkLoad_forSites (fun s i => linkLoad_enableSite s i _) _
  case poolLowThreshold =>
    simp only [State.applyEntry]
    split
    · rfl
    · simp [State.linkLoad]
  all_goals rfl

theorem linkLoad_startSeating : (s.startSeating i).linkLoad = s.linkLoad := by
  simp only [State.startSeating]
  (repeat' split) <;> rfl

theorem linkLoad_sampleDieSupply : (s.sampleDieSupply i).linkLoad = s.linkLoad := by
  unfold State.sampleDieSupply
  split
  · simp [State.linkLoad]
  · rfl

theorem linkLoad_openTouchdown : s.openTouchdown.linkLoad = s.linkLoad := by
  rw [State.openTouchdown, linkLoad_forSites linkLoad_testAdmission, linkLoad_forSites linkLoad_sampleDieSupply,
    linkLoad_forSites fun s i => linkLoad_of_link (setCond_link s i .link false), linkLoad_forSites linkLoad_startSeating]
  rfl

theorem linkLoad_abortAll : s.abortAll.linkLoad = s.linkLoad := linkLoad_forSites (fun s i => linkLoad_abort s i _) s

theorem linkLoad_beginLift (tag : BitVec 6) (toAbort : Bool) : (s.beginLift tag toAbort).linkLoad = s.linkLoad := by
  unfold State.beginLift
  split
  · exact linkLoad_abortAll _
  · rfl

theorem linkLoad_mergeLift (toAbort : Bool) : (s.mergeLift toAbort).linkLoad = s.linkLoad := by
  unfold State.mergeLift
  split
  · exact linkLoad_abortAll _
  · rfl

theorem linkLoad_handOut (l : List SiteNo) : (State.handOut l s).linkLoad = s.linkLoad := by
  induction l generalizing s with
  | nil => rfl
  | cons i l ih =>
    cases hfree : s.ks.free with
    | nil => rw [handOut_noKey _ hfree]
    | cons key rest => rw [handOut_cons i l hfree, ih]; simp [State.linkLoad, State.serve]

theorem linkLoad_evalPoolLow : s.evalPoolLow.linkLoad = s.linkLoad := by simp [State.linkLoad]

theorem linkLoad_acceptKeys (keys : List Key) : (s.acceptKeys keys).linkLoad = s.linkLoad := by
  rw [State.acceptKeys, linkLoad_evalPoolLow, linkLoad_handOut]
  rfl

theorem linkLoad_postJob (p : Posting) : (s.postJob i p).linkLoad = s.linkLoad := by
  simp only [State.postJob]
  split
  · exact linkLoad_testAdmission _ i
  · rfl

theorem linkLoad_handSlot : (s.handSlot i).linkLoad = s.linkLoad := by
  unfold State.handSlot
  split <;> simp [State.linkLoad]

theorem linkLoad_abortWaiter (a : Arbiter) : (State.abortWaiter a s i).linkLoad = s.linkLoad := by
  unfold State.abortWaiter
  split
  · exact linkLoad_abort s i _
  · rfl

theorem linkLoad_throttle (sc : Scope) : (s.throttle sc).linkLoad = s.linkLoad := by simp [State.linkLoad]

end Operations

/-! ### Requests (R164, R167) -/

/-- A request's act holds at most one intake slot more, for its reply, and brings no OVERRUN reply. -/
def State.RepliesOnce (s t : State) : Prop :=
  t.linkLoad.1 ≤ s.linkLoad.1 + 1 ∧ t.linkLoad.2 = s.linkLoad.2

theorem repliesOnce_quiet {s t : State} (h : t.linkLoad = s.linkLoad) : s.RepliesOnce t := by
  rw [State.RepliesOnce, h]
  exact ⟨Nat.le_succ _, rfl⟩

theorem repliesOnce_reply {s t : State} (h : t.linkLoad = s.linkLoad) (f : InFrame) (st : Status) (fields : List Byte) :
    s.RepliesOnce (t.reply f st fields) := by
  rw [State.RepliesOnce, ← h]
  simp [State.linkLoad]

/-- A step after the reply that leaves the counts alone. -/
theorem State.RepliesOnce.after {s t u : State} (h : s.RepliesOnce t) (hu : u.linkLoad = t.linkLoad) : s.RepliesOnce u := by
  rwa [State.RepliesOnce, hu]

section Requests

variable (s : State) (f : InFrame)

theorem repliesOnce_doHeldStatus : s.RepliesOnce (s.doHeldStatus f) := by
  unfold State.doHeldStatus
  split
  · exact repliesOnce_reply rfl f _ _
  · exact repliesOnce_quiet rfl

theorem repliesOnce_doConfigure : s.RepliesOnce (s.doConfigure f) := by
  have hentries := foldl_keeps State.linkLoad State.applyEntry linkLoad_applyEntry
  unfold State.doConfigure
  split
  · exact repliesOnce_reply rfl f _ _
  · split
    · exact repliesOnce_reply rfl f _ _
    · split
      · exact repliesOnce_reply rfl f _ _
      · exact repliesOnce_reply (hentries _ s) f _ _

theorem repliesOnce_doSetEnables : s.RepliesOnce (s.doSetEnables f) := by
  have hload : (forSites (State.loadEnables f.payload) s).linkLoad = s.linkLoad :=
    linkLoad_forSites (f := State.loadEnables f.payload) (fun s i => linkLoad_of_link (setSmon_link s i _)) s
  have htest := fun u => foldl_keeps State.linkLoad State.throttle linkLoad_throttle allScopes u
  unfold State.doSetEnables
  dsimp only
  generalize forSites (State.loadEnables f.payload) s = loaded at hload ⊢
  refine repliesOnce_reply ?_ f _ _
  rw [htest, ← hload]
  exact linkLoad_of_link rfl

theorem repliesOnce_doTouchdown : s.RepliesOnce (s.doTouchdown f) := by
  unfold State.doTouchdown
  split
  · exact repliesOnce_reply (linkLoad_openTouchdown s) f _ _
  · exact repliesOnce_reply rfl f _ _

/-- An accepted LIFTOFF places no immediate reply (R126); a merged one does (R129). -/
theorem repliesOnce_doLiftoff : s.RepliesOnce (s.doLiftoff f) := by
  unfold State.doLiftoff
  split
  · exact repliesOnce_reply rfl f _ _
  · split
    · exact repliesOnce_reply rfl f _ _
    · exact (repliesOnce_quiet (linkLoad_beginLift s _ _)).after (linkLoad_finishLift _)
    all_goals exact (repliesOnce_reply (linkLoad_mergeLift s _) f _ _).after (linkLoad_finishLift _)

theorem repliesOnce_doResetUnit : s.RepliesOnce (s.doResetUnit f) := by
  have hslots := Link.slotsHeld_append s.link { source := .resetReply, kind := f.kind + 0x80, tag := f.tag, payload := [0x00] }
  have hwaiting := Link.overrunsWaiting_append s.link
    { source := .resetReply, kind := f.kind + 0x80, tag := f.tag, payload := [0x00] }
  exact ⟨hslots.le, hwaiting⟩

theorem repliesOnce_doLoadKeys : s.RepliesOnce (s.doLoadKeys f) := by
  simp only [State.doLoadKeys]
  split
  · exact repliesOnce_reply rfl f _ _
  · split
    · exact repliesOnce_reply rfl f _ _
    · exact (repliesOnce_reply (linkLoad_acceptKeys s _) f _ _).after (linkLoad_finishLift _)

theorem repliesOnce_doDiscardKeys : s.RepliesOnce (s.doDiscardKeys f) :=
  repliesOnce_reply (linkLoad_evalPoolLow (s.setKs { s.ks with free := [] })) f _ _

theorem repliesOnce_doProvision : s.RepliesOnce (s.doProvision f) := by
  simp only [State.doProvision]
  split
  · exact repliesOnce_reply rfl f _ _
  · split
    · exact repliesOnce_reply rfl f _ _
    · split
      · exact repliesOnce_reply rfl f _ _
      · exact repliesOnce_reply (linkLoad_postJob s _ _) f _ _

theorem repliesOnce_cancelSite (i : SiteNo) (queued takeActive : Bool) :
    s.RepliesOnce (s.cancelSite f i queued takeActive) := by
  have hdrop : (if queued then s.dropQueue i else s).linkLoad = s.linkLoad := by split <;> rfl
  have habort : (if takeActive then (if queued then s.dropQueue i else s).abort i .aborted
      else if queued then s.dropQueue i else s).linkLoad = s.linkLoad := by
    split
    · exact (linkLoad_abort _ i _).trans hdrop
    · exact hdrop
  exact (repliesOnce_reply habort f _ _).after (linkLoad_finishLift _)

theorem repliesOnce_doCancel : s.RepliesOnce (s.doCancel f) := by
  unfold State.doCancel
  split
  · exact repliesOnce_cancelSite s f _ _ _
  · exact repliesOnce_reply rfl f _ _

theorem repliesOnce_doClearRecords : s.RepliesOnce (s.doClearRecords f) := by
  simp only [State.doClearRecords]
  refine repliesOnce_reply ?_ f _ _
  have heval : ∀ u : State, u.evalLogHigh.linkLoad = u.linkLoad := fun u => by simp [State.linkLoad]
  rw [heval]
  split
  · exact linkLoad_forSites linkLoad_handSlot _
  · rfl

theorem repliesOnce_doReadEvents : s.RepliesOnce (s.doReadEvents f) := by
  unfold State.doReadEvents
  split
  · exact repliesOnce_reply rfl f _ _
  · next sc _ =>
    have hclear : ∀ u : State, (u.clearScope sc).linkLoad = u.linkLoad := fun u => by cases sc <;> rfl
    exact (repliesOnce_reply rfl f _ _).after (hclear _)

end Requests

/-! ### Every command -/

/-- An answer in which the bounds stand. -/
def KeepsLink (r : StepResult) : Prop := ∀ t, r = .next t → t.LinkInv

@[simp] theorem keepsLink_next (t : State) : KeepsLink (.next t) ↔ t.LinkInv :=
  ⟨fun h => h t rfl, fun h => by rintro _ ⟨⟩; exact h⟩

@[simp] theorem keepsLink_fault (f : Fault) : KeepsLink (.fault f) := by rintro _ ⟨⟩

theorem State.LinkInv.of_le {s t : State} (h : s.LinkInv) (hslots : t.linkLoad.1 ≤ s.linkLoad.1)
    (hwaiting : t.linkLoad.2 ≤ s.linkLoad.2) : t.LinkInv :=
  ⟨hslots.trans h.slots, hwaiting.trans h.overruns⟩

theorem State.LinkInv.same {s t : State} (h : s.LinkInv) (hload : t.linkLoad = s.linkLoad) : t.LinkInv :=
  h.of_le (by rw [hload]) (by rw [hload])

/-- The frame taken from the front frees the slot that its reply then holds. -/
theorem linkLoad_dropFront {s : State} {f : InFrame} {rest : List InFrame} (h : s.link.intake = f :: rest) :
    s.dropFront.linkLoad.1 + 1 = s.linkLoad.1 ∧ s.dropFront.linkLoad.2 = s.linkLoad.2 := by
  refine ⟨?_, rfl⟩
  simp only [State.linkLoad, Link.slotsHeld, dropFront_link, h, List.tail_cons, List.length_cons]
  omega

variable {s : State}

theorem takeFrame_keepsLink (h : s.LinkInv) (is : InFrame → Bool) (act : State → InFrame → State)
    (hact : ∀ (s : State) (f : InFrame), s.RepliesOnce (act s f)) : KeepsLink (s.takeFrame is act) := by
  unfold State.takeFrame
  split
  · simp
  · split
    · simp
    · next f rest hin =>
      split
      · obtain ⟨hslots, hwaiting⟩ := linkLoad_dropFront hin
        obtain ⟨hone, hnone⟩ := hact s.dropFront f
        exact (keepsLink_next _).mpr (h.of_le (by omega) (by omega))
      · simp

theorem takeRequest_keepsLink (h : s.LinkInv) (kind : Byte) (ok : List Byte → Bool) (act : State → InFrame → State)
    (hact : ∀ (s : State) (f : InFrame), s.RepliesOnce (act s f)) : KeepsLink (s.takeRequest kind ok act) := by
  refine takeFrame_keepsLink h _ _ fun s f => ?_
  split
  · exact hact s f
  · exact repliesOnce_reply rfl f _ _

/-- A complete frame takes a slot or is answered OVERRUN where the bound allows it (R163). -/
theorem afterFrame_linkInv (h : s.LinkInv) (f : InFrame) : State.LinkInv { s with link := s.link.afterFrame f } := by
  obtain ⟨hslots, hwaiting⟩ := h
  unfold Link.afterFrame
  split
  · next hfree =>
    refine ⟨?_, hwaiting⟩
    have hone : Link.slotsHeld { s.link with rx := Receiver.hunting, intake := s.link.intake ++ [f] } =
        s.link.slotsHeld + 1 := by
      simp only [Link.slotsHeld, List.length_append, List.length_singleton, Nat.add_right_comm]
    exact hone.le.trans hfree
  · split
    · next hfew =>
      have happend := Link.slotsHeld_append s.link
        { source := .overrun, kind := f.kind + 0x80, tag := f.tag, payload := [0x14] }
      have hcount := Link.overrunsWaiting_append s.link
        { source := .overrun, kind := f.kind + 0x80, tag := f.tag, payload := [0x14] }
      exact ⟨happend.le.trans hslots, hcount.le.trans hfew⟩
    · exact ⟨hslots, hwaiting⟩

theorem controlLinkByteReceived_keepsLink (h : s.LinkInv) (b : Byte) (stopHigh : Bool) :
    KeepsLink (exec (.controlLinkByteReceived b stopHigh) s) := by
  cases hrun : s.rst.heldInReset with
  | true => rw [exec_byte_held stopHigh hrun]; exact (keepsLink_next _).mpr h
  | false =>
    cases stopHigh with
    | false => rw [exec_byte_framingError hrun]; exact (keepsLink_next _).mpr (h.same rfl)
    | true =>
      rcases take_cases s.link.unitAddr s.link.rx b with ⟨r, htake⟩ | ⟨f, htake⟩
      · rw [exec_byte_quiet hrun htake]; exact (keepsLink_next _).mpr (h.same rfl)
      · rw [exec_byte_frame hrun htake]; exact (keepsLink_next _).mpr (afterFrame_linkInv h f)

/-- A unit reset empties both queues (R174). -/
theorem blocksReset_linkInv (s : State) (cause : ResetCause) (held : Bool) : (s.blocksReset cause held).LinkInv :=
  ⟨Nat.zero_le _, Nat.zero_le _⟩

/-- The frame sent frees the slot it held (R164). -/
theorem frameLastByteSent_keepsLink (h : s.LinkInv) : KeepsLink (exec .frameLastByteSent s) := by
  simp only [exec, execFrameLastByteSent]
  split
  · simp
  · next o rest hq =>
    split
    · exact (keepsLink_next _).mpr ((blocksReset_linkInv (s.frameSent o rest) .request false).same rfl)
    · refine (keepsLink_next _).mpr (h.of_le ?_ ?_)
      · simp only [State.linkLoad, Link.slotsHeld, State.frameSent, hq]
        exact Nat.add_le_add_left ((List.sublist_cons_self o rest).countP_le) _
      · simp only [State.linkLoad, Link.overrunsWaiting, State.frameSent, hq]
        exact (List.sublist_cons_self o rest).countP_le

/-- An answer that leaves the slots held and the OVERRUN replies as they were. -/
def LeavesLoad (s : State) (r : StepResult) : Prop := ∀ t, r = .next t → t.linkLoad = s.linkLoad

@[simp] theorem leavesLoad_next (s t : State) : LeavesLoad s (.next t) ↔ t.linkLoad = s.linkLoad :=
  ⟨fun h => h t rfl, fun h => by rintro _ ⟨⟩; exact h⟩

@[simp] theorem leavesLoad_fault (s : State) (f : Fault) : LeavesLoad s (.fault f) := by rintro _ ⟨⟩

theorem dieCommand_leavesLoad (s : State) (i : SiteNo) (code : Byte) (act : Die → DieFrame → Die × DieAnswer) :
    LeavesLoad s (s.dieCommand i code act) := by
  unfold State.dieCommand
  split
  · exact (leavesLoad_next _ _).mpr rfl
  · simp

theorem pumpHoldExpiry_leavesLoad (s : State) : LeavesLoad s (execPumpHoldExpiry s) := by
  unfold execPumpHoldExpiry
  split
  · simp
  · refine (leavesLoad_next _ _).mpr ((linkLoad_finishLift _).trans ?_)
    rw [linkLoad_forSites fun u i => linkLoad_abortWaiter u i s.arb]
    rfl

/-- The commands that the bounds turn on: a byte received, a frame sent, a frame taken by the Dispatcher, and a unit reset. -/
def touchesLink : Instr → Bool
  | .controlLinkByteReceived _ _ | .frameLastByteSent | .heldStatusReply | .badRequest | .powerOn | .resetLineAsserted => true
  | c => c ∈ requestRows.map Prod.fst

/-- The others leave the counts as they were. -/
theorem exec_leavesLoad (c : Instr) (s : State) (hc : touchesLink c = false) : LeavesLoad s (exec c s) := by
  cases c with
  | controlLinkByteReceived | frameLastByteSent | heldStatusReply | badRequest | powerOn | resetLineAsserted => cases hc
  | identify | status | configure | setEnables | touchdown | liftoff | resetUnit | loadKeys | discardKeys | provision | cancel
  | readRecords | clearRecords | readEvents => exact absurd hc (by decide)
  | reset i | closeAll i | enterProvisioning i | sense i | openRow i | pulse i a b | closeRow i | reload i | readShadow i =>
    exact dieCommand_leavesLoad s i _ _
  | pumpHoldExpiry => exact pumpHoldExpiry_leavesLoad s
  | gapTimerExpiry =>
    simp only [exec, execGapTimerExpiry]
    split
    · exact (leavesLoad_next _ _).mpr rfl
    · simp
  | resetReleased =>
    simp only [exec, execResetReleased]
    split
    · exact (leavesLoad_next _ _).mpr rfl
    · simp
  | contactSensed i => simp only [exec, execContactSensed]; split <;> simp [State.linkLoad]
  | contactDropped i => simp only [exec, execContactDropped]; split <;> simp [State.linkLoad]
  | debounceExpiry i => simp only [exec, execDebounceExpiry]; (repeat' split) <;> simp [State.linkLoad]
  | seatTimeoutExpiry i => simp only [exec, execSeatTimeoutExpiry]; (repeat' split) <;> simp [State.linkLoad]
  | dieSupplyAsserted i => simp only [exec, execDieSupplyAsserted]; split <;> simp [State.linkLoad]
  | dieSupplyDeasserted i => simp only [exec, execDieSupplyDeasserted]; split <;> simp [State.linkLoad]
  | pumpFaultAsserted => simp only [exec, execPumpFaultAsserted]; split <;> simp [State.linkLoad]
  | pumpFaultDeasserted => simp only [exec, execPumpFaultDeasserted]; split <;> simp [State.linkLoad]
  | dieResponseComplete i ddi left => simp only [exec, execDieResponseComplete]; (repeat' split) <;> simp [State.linkLoad]
  | dieResponseDeadlineExpiry i left =>
    simp only [exec, execDieResponseDeadlineExpiry]; (repeat' split) <;> simp [State.linkLoad]
  | settleTimerExpiry i => simp only [exec, execSettleTimerExpiry]; (repeat' split) <;> simp [State.linkLoad]
  | openTimerExpiry i => simp only [exec, execOpenTimerExpiry]; (repeat' split) <;> simp [State.linkLoad]
  | restTimerExpiry i => simp only [exec, execRestTimerExpiry]; (repeat' split) <;> simp [State.linkLoad]
  | diePowerOn i cells => exact (leavesLoad_next _ _).mpr rfl
  | commandFrameSent i ddo => simp only [exec, execCommandFrameSent]; (repeat' split) <;> simp [State.linkLoad]

/-- Every command keeps the bounds. -/
theorem exec_keepsLink (c : Instr) (h : s.LinkInv) : KeepsLink (exec c s) := by
  cases hc : touchesLink c with
  | false => exact fun t ht => h.same (exec_leavesLoad c s hc t ht)
  | true =>
    cases c with
    | controlLinkByteReceived b stopHigh => exact controlLinkByteReceived_keepsLink h b stopHigh
    | frameLastByteSent => exact frameLastByteSent_keepsLink h
    | powerOn | resetLineAsserted => exact (keepsLink_next _).mpr (blocksReset_linkInv s _ _)
    | heldStatusReply => exact takeFrame_keepsLink h _ _ repliesOnce_doHeldStatus
    | badRequest => exact takeFrame_keepsLink h _ _ fun s f => repliesOnce_reply rfl f _ _
    | identify | status | readRecords => exact takeRequest_keepsLink h _ _ _ fun s f => repliesOnce_reply rfl f _ _
    | configure => exact takeRequest_keepsLink h _ _ _ repliesOnce_doConfigure
    | setEnables => exact takeRequest_keepsLink h _ _ _ repliesOnce_doSetEnables
    | touchdown => exact takeRequest_keepsLink h _ _ _ repliesOnce_doTouchdown
    | liftoff => exact takeRequest_keepsLink h _ _ _ repliesOnce_doLiftoff
    | resetUnit => exact takeRequest_keepsLink h _ _ _ repliesOnce_doResetUnit
    | loadKeys => exact takeRequest_keepsLink h _ _ _ repliesOnce_doLoadKeys
    | discardKeys => exact takeRequest_keepsLink h _ _ _ repliesOnce_doDiscardKeys
    | provision => exact takeRequest_keepsLink h _ _ _ repliesOnce_doProvision
    | cancel => exact takeRequest_keepsLink h _ _ _ repliesOnce_doCancel
    | clearRecords => exact takeRequest_keepsLink h _ _ _ repliesOnce_doClearRecords
    | readEvents => exact takeRequest_keepsLink h _ _ _ repliesOnce_doReadEvents
    | _ => simp [touchesLink, requestRows] at hc

/-! ### The statement -/

/-- Settles O10: an empty queue changes nothing, and every command keeps the bounds (`exec_keepsLink`). -/
theorem stepKeepsIntakeSlots : Obligations.StepKeepsIntakeSlots := by
  unfold Obligations.StepKeepsIntakeSlots
  intro s t h hstep
  unfold step at hstep
  split at hstep
  · cases hstep; exact h
  · next c rest _ =>
    have hrest : State.LinkInv { s with pending := rest } := h.same rfl
    exact exec_keepsLink c hrest t hstep

end Sys2Proof.Machine
end

section
/-!
SUPPORT. The answers of requests that change nothing else (R167 to R169, R172): a frame held with a status, a kind not in use, a
length not allowed, IDENTIFY, STATUS, and the refusals of TOUCHDOWN and LIFTOFF.
-/
namespace Sys2Proof.Machine

/-! ### A frame taken and refused (R167) -/

/-- A frame in front that the command stands for is taken. -/
theorem takeFrame_front {s : State} {f : InFrame} {rest : List InFrame} (hrun : s.rst.heldInReset = false)
    (htake : s.rst.requestPending = false) (hin : s.link.intake = f :: rest) {is : InFrame → Bool} (his : is f = true)
    (act : State → InFrame → State) : s.takeFrame is act = .next (act (s.taken rest) f) := by
  have hdrop : s.dropFront = s.taken rest := by simp [State.dropFront, State.taken, hin]
  simp [State.takeFrame, hrun, htake, hin, his, hdrop]

/-- A request in front whose length its kind does not allow is answered BAD_LENGTH alone. -/
theorem takeRequest_badLength {s : State} {kind : Byte} {f : InFrame} {rest : List InFrame} (h : s.Front kind f rest)
    {ok : List Byte → Bool} (hok : ok f.payload = false) (act : State → InFrame → State) :
    s.takeRequest kind ok act = .next (s.answered rest (replyTo f .badLength [])) := by
  have his : InFrame.isRequest kind f = true := by simp [InFrame.isRequest, h.good, h.kind]
  refine (takeFrame_front h.running h.taking h.intake his _).trans ?_
  simp only [hok, Bool.false_eq_true, if_false]
  rfl

/-- Settles O11: each is a frame taken whose act is one reply. -/
theorem heldAndUnknownFramesAnswered : Obligations.HeldAndUnknownFramesAnswered := by
  unfold Obligations.HeldAndUnknownFramesAnswered
  refine ⟨fun s f rest st hrun htake hin hheld => ?held, fun s f rest kind h hkind => ?unknown⟩
  case held =>
    refine (takeFrame_front hrun htake hin (by rw [hheld]; rfl) State.doHeldStatus).trans ?_
    simp only [State.doHeldStatus, hheld]
    rfl
  case unknown =>
    have hunused : f.kind ∉ requestKinds := by rw [h.kind]; exact hkind
    exact takeFrame_front h.running h.taking h.intake (by simp [h.good, hunused]) fun s f => s.reply f .badRequest []

/-! ### The lengths allowed (R22, R170, R176) -/

theorem lengthIs_false {n : Nat} {p : List Byte} (h : ¬ p.length = n) : lengthIs n p = false := decide_eq_false h

theorem configureLength_false {p : List Byte} (h : ¬ (p.length % 5 = 0 ∧ 5 ≤ p.length ∧ p.length ≤ 50)) :
    configureLength p = false := by
  rw [configureLength, Bool.eq_false_iff]
  simpa [and_assoc] using h

/-- The count of a LOAD KEYS is its first byte. -/
theorem loadKeysLength_false {p : List Byte}
    (h : ¬ ∃ n : Nat, (p.head?.map BitVec.toNat) = some n ∧ 1 ≤ n ∧ n ≤ 16 ∧ p.length = 1 + 36 * n) :
    loadKeysLength p = false := by
  cases p with
  | nil => rfl
  | cons b p =>
    rw [loadKeysLength, Bool.eq_false_iff]
    intro hok
    simp only [Bool.and_eq_true, decide_eq_true_eq] at hok
    obtain ⟨⟨hone, hmost⟩, hlen⟩ := hok
    exact h ⟨_, rfl, hone, hmost, hlen⟩

/-- Settles O12, request by request: each is a `State.takeRequest` with its own length rule. -/
theorem wrongLengthRefused : Obligations.WrongLengthRefused := by
  unfold Obligations.WrongLengthRefused
  intro r hr s f rest h hlen
  simp only [List.mem_cons, List.not_mem_nil, or_false] at hr
  rcases hr with rfl | rfl | rfl | rfl | rfl | rfl | rfl | rfl | rfl | rfl | rfl | rfl | rfl | rfl
  · exact takeRequest_badLength h (lengthIs_false hlen) fun s f => s.reply f .ok s.identifyFields
  · exact takeRequest_badLength h (lengthIs_false hlen) fun s f => s.reply f .ok s.statusFields
  · exact takeRequest_badLength h (configureLength_false hlen) State.doConfigure
  · exact takeRequest_badLength h (lengthIs_false hlen) State.doSetEnables
  · exact takeRequest_badLength h (lengthIs_false hlen) State.doTouchdown
  · exact takeRequest_badLength h (lengthIs_false hlen) State.doLiftoff
  · exact takeRequest_badLength h (lengthIs_false hlen) State.doResetUnit
  · exact takeRequest_badLength h (loadKeysLength_false hlen) State.doLoadKeys
  · exact takeRequest_badLength h (lengthIs_false hlen) State.doDiscardKeys
  · exact takeRequest_badLength h (lengthIs_false hlen) State.doProvision
  · exact takeRequest_badLength h (lengthIs_false hlen) State.doCancel
  · exact takeRequest_badLength h (lengthIs_false hlen) State.doReadRecords
  · exact takeRequest_badLength h (lengthIs_false hlen) State.doClearRecords
  · exact takeRequest_badLength h (lengthIs_false hlen) State.doReadEvents

/-! ### IDENTIFY and STATUS (R168, R169) -/

/-- A site's entry of a STATUS reply in the words of the statement (R63, R177). -/
theorem siteEntry_eq (s : State) (i : SiteNo) : s.siteEntry i =
    [(s.site i).posture.code, ((s.site i).job.map (fun j : Job => j.phase.code)).getD 0,
     BitVec.ofNat 8 ((s.site i).queue.length % 4)
       ||| (if s.cfg.sitesEnabled.getLsbD i.val && decide ((s.site i).queue.length < 2) then 4 else 0)
       ||| (if (s.smon i).cond.any || (s.smon i).flags.any then 8 else 0)]
    ++ bytesLE 2 (((s.site i).job.map (fun j : Job => j.posting.tag)).getD 0).toNat := by
  simp only [State.siteEntry, SiteCtl.phaseCode, SiteCtl.jobTag, State.ready, State.attention, State.enabled]
  cases (s.site i).job <;> rfl

/-- Settles O13: each is a request taken whose act is one reply, with the fields of the state without the frame. -/
theorem identifyAndStatusReport : Obligations.IdentifyAndStatusReport := by
  unfold Obligations.IdentifyAndStatusReport
  refine ⟨fun s f rest h hpay => ?identify, fun s f rest h hpay => ?status⟩
  case identify =>
    exact takeRequest_front h (ok := lengthIs 0) (by rw [hpay]; rfl) fun s f => s.reply f .ok s.identifyFields
  case status =>
    refine (takeRequest_front h (ok := lengthIs 0) (by rw [hpay]; rfl) fun s f => s.reply f .ok s.statusFields).trans ?_
    simp only [← siteEntry_eq]
    rfl

end Sys2Proof.Machine
end

section
/-!
SUPPORT. Power-on, the reset line and release from reset (R174), in the words of the statements.
-/
namespace Sys2Proof.Machine

/-- A selection ended (R64): the cells stay, and no frame held or response brings bytes any more. -/
theorem blocksReset_die (s : State) (cause : ResetCause) (held : Bool) (i : SiteNo) :
    (s.blocksReset cause held).die i = (s.die i).deselect := by simp [State.blocksReset, State.die]

theorem blocksReset_site (s : State) (cause : ResetCause) (held : Bool) (i : SiteNo) :
    (s.blocksReset cause held).site i = SiteCtl.afterReset := by simp [State.blocksReset, State.site]

theorem blocksReset_smon (s : State) (cause : ResetCause) (held : Bool) (i : SiteNo) :
    (s.blocksReset cause held).smon i = SiteMon.afterReset := by
  simp [State.blocksReset, State.smon, Monitor.afterReset]

/-- Settles O2: both commands are `State.blocksReset`, read off block by block. -/
theorem powerOnAndResetLineResetEveryBlock : Obligations.PowerOnAndResetLineResetEveryBlock := by
  unfold Obligations.PowerOnAndResetLineResetEveryBlock
  intro s p hp
  have hexec : exec p.1 s = .next (s.blocksReset p.2 true) := by
    simp only [List.mem_cons, List.not_mem_nil, or_false] at hp
    rcases hp with rfl | rfl <;> rfl
  refine ⟨_, hexec, rfl, rfl, rfl, rfl, rfl, rfl, rfl, rfl, rfl, rfl, rfl, rfl, fun i => blocksReset_smon s p.2 true i,
    fun i => blocksReset_site s p.2 true i, fun i => ?_, rfl, rfl, rfl⟩
  rw [blocksReset_die]
  refine ⟨rfl, rfl, fun h hh => ?_⟩
  obtain ⟨h', -, rfl⟩ := List.mem_map.mp hh
  rfl

/-- Settles O3: by cases on whether the K16 is held in reset. -/
theorem releaseSamplesStrapsAndPump : Obligations.ReleaseSamplesStrapsAndPump := by
  unfold Obligations.ReleaseSamplesStrapsAndPump
  exact ⟨fun s held => if_pos held, fun s running => if_neg (by rw [running]; decide)⟩

end Sys2Proof.Machine
end

section
/-!
SUPPORT. CONFIGURE (R34, R40, R170): the entries of a payload read back, the entries applied one after another as one change of the
parameters with its effects on sites and POOL_LOW, and the refusals.
-/
namespace Sys2Proof.Machine

/-! ### The entries of a payload (R170, R175, R176) -/

theorem entriesOf_append (id : Byte) {v : Nat} (h : v < 2 ^ 32) (rest : List Byte) :
    entriesOf (id :: bytesLE 4 v ++ rest) = (id, v) :: entriesOf rest := by
  obtain ⟨a, b, c, d, hfour⟩ : ∃ a b c d, bytesLE 4 v = [a, b, c, d] := ⟨_, _, _, _, rfl⟩
  have hval : numAt [a, b, c, d] 0 4 = v := by rw [← hfour, ← List.append_nil (bytesLE 4 v)]; exact numAt_bytesLE [] h
  rw [hfour]
  simp only [List.cons_append, List.nil_append, entriesOf, hval]

/-- The entries of a payload made of whole entries are read back. -/
theorem entriesOf_flatMap {es : List (Byte × Nat)} (h : ∀ e ∈ es, e.2 < 2 ^ 32) :
    entriesOf (es.flatMap fun e => e.1 :: bytesLE 4 e.2) = es := by
  induction es with
  | nil => rfl
  | cons e es ih =>
    obtain ⟨he, hes⟩ := List.forall_mem_cons.mp h
    rw [List.flatMap_cons, entriesOf_append _ he, ih hes]

theorem length_entries (es : List (Byte × Nat)) : (es.flatMap fun e => e.1 :: bytesLE 4 e.2).length = 5 * es.length := by
  induction es with
  | nil => rfl
  | cons e es ih => rw [List.flatMap_cons, List.length_append, ih]; simp; omega

theorem configureLength_entries {es : List (Byte × Nat)} (hone : 1 ≤ es.length) (hten : es.length ≤ 10) :
    configureLength (es.flatMap fun e => e.1 :: bytesLE 4 e.2) = true := by
  rw [configureLength, length_entries]
  simp
  omega

/-- A parameter is the one of its id (R170). -/
theorem paramOf_eq_some {b : Byte} {p : ParamId} : paramOf b = some p ↔ b = p.byte := by
  revert b; cases p <;> decide

/-- An entry of a payload, by the parameter's id. -/
def rawEntry (e : ParamId × Nat) : Byte × Nat := (e.1.byte, e.2)

/-- The first entry is read where its id is that of a parameter not named behind it, and a SITES_ENABLED value fits 16 bits. -/
theorem readEntries_cons {b : Byte} {v : Nat} {l : List (Byte × Nat)} {es : List (ParamId × Nat)} :
    readEntries ((b, v) :: l) = some es ↔ ∃ p es', es = (p, v) :: es' ∧ b = p.byte ∧ readEntries l = some es' ∧
      p ∉ es'.map Prod.fst ∧ (p = .sitesEnabled → v < 65536) := by
  have hdup : ∀ (p : ParamId) (es' : List (ParamId × Nat)), es'.any (fun e => e.1 = p) = true ↔ p ∈ es'.map Prod.fst :=
    fun p es' => by simp
  constructor
  · intro h
    simp only [readEntries] at h
    split at h
    · next p es' hp hl =>
      split at h
      · cases h
      · next hok =>
        rw [Bool.or_eq_true, hdup, not_or] at hok
        obtain ⟨hnew, hfits⟩ := hok
        refine ⟨p, es', (Option.some.inj h).symm, paramOf_eq_some.mp hp, hl, hnew, fun e => ?_⟩
        simpa [e, Nat.lt_succ_iff] using hfits
    · cases h
  · rintro ⟨p, es', rfl, hb, hl, hnew, hfits⟩
    simp only [readEntries, paramOf_eq_some.mpr hb, hl]
    refine if_neg ?_
    rw [Bool.or_eq_true, hdup, not_or]
    refine ⟨hnew, fun h => ?_⟩
    obtain ⟨hsites, hlarge⟩ : p = .sitesEnabled ∧ 65535 < v := by simpa using h
    exact absurd (hfits hsites) (by omega)

/-- The entries of a payload are read where each id is known, none is named twice and SITES_ENABLED fits 16 bits (R170). -/
theorem readEntries_eq_some {l : List (Byte × Nat)} {es : List (ParamId × Nat)} : readEntries l = some es ↔
    l = es.map rawEntry ∧ (es.map Prod.fst).Nodup ∧ ∀ e ∈ es, e.1 = .sitesEnabled → e.2 < 65536 := by
  induction l generalizing es with
  | nil =>
    constructor
    · intro h
      obtain rfl := Option.some.inj h
      simp
    · rintro ⟨h, -⟩
      rw [List.map_eq_nil_iff.mp h.symm]
      rfl
  | cons e l ih =>
    obtain ⟨b, v⟩ := e
    rw [readEntries_cons]
    constructor
    · rintro ⟨p, es', rfl, rfl, hl, hnew, hfits⟩
      obtain ⟨rfl, hdistinct, hrest⟩ := ih.mp hl
      exact ⟨rfl, List.nodup_cons.mpr ⟨hnew, hdistinct⟩, List.forall_mem_cons.mpr ⟨hfits, hrest⟩⟩
    · rintro ⟨hmap, hdistinct, hall⟩
      cases es with
      | nil => cases hmap
      | cons e es' =>
        obtain ⟨hhead, htail⟩ := List.cons.inj hmap
        obtain ⟨hb, hv⟩ := Prod.mk.inj hhead
        obtain ⟨hnew, hdistinct'⟩ := List.nodup_cons.mp hdistinct
        obtain ⟨hfits, hrest⟩ := List.forall_mem_cons.mp hall
        exact ⟨e.1, es', by rw [hv], hb, ih.mpr ⟨htail, hdistinct', hrest⟩, hnew, by rw [hv]; exact hfits⟩

/-- The ten parameters. -/
def allParams : List ParamId :=
  [.pulseWidth, .maxRounds, .rowOpenLimit, .dieResponseTimeout, .seatDebounce, .seatTimeout, .pumpHoldLimit, .pumpCapacity,
    .poolLowThreshold, .sitesEnabled]

theorem length_le_ten {ps : List ParamId} (h : ps.Nodup) : ps.length ≤ 10 :=
  (h.subperm fun p _ => show p ∈ allParams by cases p <;> decide).length_le

/-! ### The parameters under the entries (R170) -/

/-- The parameters with one entry's value brought within its range. -/
def Params.apply (c : Params) (e : ParamId × Nat) : Params := c.put e.1 (e.1.clamp e.2)

theorem Params.get_put_ne (c : Params) {p q : ParamId} (v : Nat) (h : q ≠ p) : (c.put p v).get q = c.get q := by
  cases p <;> cases q <;> first | rfl | exact absurd rfl h

/-- A value in range is read back as it was put: SITES_ENABLED holds 16 bits. -/
theorem Params.get_apply (c : Params) (e : ParamId × Nat) : (c.apply e).get e.1 = e.1.clamp e.2 := by
  obtain ⟨p, v⟩ := e
  cases p
  case sitesEnabled => exact Nat.mod_eq_of_lt (by simp only [ParamId.clamp, ParamId.range]; omega)
  all_goals rfl

theorem Params.get_foldl_apply_of_not_mem {es : List (ParamId × Nat)} {p : ParamId} (h : p ∉ es.map Prod.fst) (c : Params) :
    (es.foldl Params.apply c).get p = c.get p := by
  induction es generalizing c with
  | nil => rfl
  | cons e es ih =>
    have hne : p ≠ e.1 := List.ne_of_not_mem_cons h
    rw [List.foldl_cons, ih (List.not_mem_of_not_mem_cons h), Params.apply, Params.get_put_ne _ _ hne]

theorem Params.get_foldl_apply {es : List (ParamId × Nat)} (hd : (es.map Prod.fst).Nodup) (c : Params)
    {e : ParamId × Nat} (he : e ∈ es) : (es.foldl Params.apply c).get e.1 = e.1.clamp e.2 := by
  induction es generalizing c with
  | nil => cases he
  | cons a es ih =>
    obtain ⟨hnew, hd'⟩ := List.nodup_cons.mp hd
    rw [List.foldl_cons]
    rcases List.mem_cons.mp he with rfl | he
    · rw [Params.get_foldl_apply_of_not_mem hnew, Params.get_apply]
    · exact ih hd' _ he

/-! ### One change of the parameters (R34, R40) -/

/-- A site's controller when the site was, and now is, in SITES_ENABLED or not (R40). -/
def SiteCtl.reenabled (c : SiteCtl) (was now : Bool) : SiteCtl :=
  if now && !was then { c with posture := .clear, used := false }
  else if was && !now then { c with posture := .disabled } else c

@[simp] theorem reenabled_same (c : SiteCtl) (b : Bool) : c.reenabled b b = c := by cases b <;> rfl

/-- The machine with its parameters replaced, and each site as SITES_ENABLED then has it. -/
def State.withParams (s : State) (c : Params) : State :=
  { s with
    cfg := c
    sites := Vector.ofFn fun i : SiteNo => (s.site i).reenabled (s.enabled i) (c.sitesEnabled.getLsbD i.val) }

theorem withParams_site (s : State) (c : Params) (i : SiteNo) :
    (s.withParams c).site i = (s.site i).reenabled (s.enabled i) (c.sitesEnabled.getLsbD i.val) := by
  simp [State.withParams, State.site]

theorem withParams_eq {s : State} {c : Params} (h : c.sitesEnabled = s.cfg.sitesEnabled) :
    s.withParams c = { s with cfg := c } := by
  have hsites : (s.withParams c).sites = s.sites := Vector.ext fun i hi => by
    simp [State.withParams, h, State.enabled, State.site]
  exact congrArg (fun v => ({ s with cfg := c, sites := v } : State)) hsites

theorem withParams_withParams {s : State} {c c' : Params}
    (h : c.sitesEnabled = s.cfg.sitesEnabled ∨ c'.sitesEnabled = c.sitesEnabled) :
    (s.withParams c).withParams c' = s.withParams c' := by
  rcases h with h | h
  · rw [withParams_eq h]
    simp only [State.withParams, State.enabled, h]
    rfl
  · rw [withParams_eq (s := s.withParams c) h]
    simp only [State.withParams, h]

theorem evalPoolLowNew_withParams {s : State} {c : Params} (h : c.poolLowThreshold = s.cfg.poolLowThreshold) :
    s.evalPoolLowNew.withParams c = (s.withParams c).evalPoolLowNew := by
  have hreport : ∀ v, (s.reportPoolLow v).withParams c = (s.withParams c).reportPoolLow v := fun v => by
    simp only [State.reportPoolLow, State.latchGlobal, throttle_eq]
    rfl
  have hcfg : (s.withParams c).cfg.poolLowThreshold = s.cfg.poolLowThreshold := h
  have hks : (s.withParams c).ks = s.ks := rfl
  simp only [State.evalPoolLowNew, State.evalPoolLow, hcfg, hks, ← hreport]
  (repeat' split) <;> rfl

/-- The machine with its parameters replaced as CONFIGURE replaces them: POOL_LOW is evaluated against a threshold that changes. -/
def State.configured (s : State) (c : Params) : State :=
  if c.poolLowThreshold = s.cfg.poolLowThreshold then s.withParams c else (s.withParams c).evalPoolLowNew

@[simp] theorem configured_cfg (s : State) (c : Params) : (s.configured c).cfg = c := by
  unfold State.configured
  split
  · rfl
  · rw [evalPoolLowNew_cfg]; rfl

theorem configured_self (s : State) : s.configured s.cfg = s := (if_pos rfl).trans (withParams_eq rfl)

/-- Two changes one after another are one, when no more than one of them changes the threshold, nor SITES_ENABLED. -/
theorem configured_configured {s : State} {c c' : Params}
    (hpool : c.poolLowThreshold = s.cfg.poolLowThreshold ∨ c'.poolLowThreshold = c.poolLowThreshold)
    (hsites : c.sitesEnabled = s.cfg.sitesEnabled ∨ c'.sitesEnabled = c.sitesEnabled) :
    (s.configured c).configured c' = s.configured c' := by
  by_cases hsame : c.poolLowThreshold = s.cfg.poolLowThreshold
  · have hfirst : s.configured c = s.withParams c := if_pos hsame
    rw [hfirst]
    unfold State.configured
    rw [withParams_withParams hsites, show (s.withParams c).cfg = c from rfl, hsame]
  · have hlast : c'.poolLowThreshold = c.poolLowThreshold := hpool.resolve_left hsame
    have hfirst : s.configured c = (s.withParams c).evalPoolLowNew := if_neg hsame
    have hsecond : (s.configured c).configured c' = (s.configured c).withParams c' :=
      if_pos (by rw [configured_cfg]; exact hlast)
    rw [hsecond, hfirst, evalPoolLowNew_withParams (s := s.withParams c) hlast, withParams_withParams hsites]
    exact (if_neg (by rw [hlast]; exact hsame)).symm

/-! ### The entries applied (R34, R40, R170) -/

theorem enableSite_acts (s : State) (before : SiteSet) :
    s.ActsAt (State.enableSite before) (fun i c => c.reenabled (before.getLsbD i.val) (s.enabled i)) (fun _ m => m)
      (fun _ _ => []) := by
  intro v w q i
  unfold State.enableSite
  rw [show (s.perSite v w q).enabled i = s.enabled i from rfl]
  beta_reduce
  generalize before.getLsbD i.val = was
  generalize s.enabled i = now
  cases was <;> cases now <;> simp [State.perSite, SiteCtl.reenabled, State.setSite, State.site]

theorem forSites_enableSite (s : State) (c : Params) :
    forSites (State.enableSite s.cfg.sitesEnabled) { s with cfg := c } = s.withParams c := by
  have hall := (enableSite_acts { s with cfg := c } s.cfg.sitesEnabled).forSites s.sites s.mon.site s.link.outq
  rw [flatMap_nothing, List.append_nil] at hall
  refine hall.trans ?_
  have hmon : (Vector.ofFn fun k : SiteNo => s.mon.site[k]) = s.mon.site := Vector.ext fun i hi => by simp
  rw [hmon]
  rfl

/-- One entry is one change of the parameters. -/
theorem applyEntry_eq (s : State) (e : ParamId × Nat) : s.applyEntry e = s.configured (s.cfg.apply e) := by
  have hquiet : ∀ c : Params, c.sitesEnabled = s.cfg.sitesEnabled → c.poolLowThreshold = s.cfg.poolLowThreshold →
      { s with cfg := c } = s.configured c := fun c hsites hpool => (withParams_eq hsites).symm.trans (if_pos hpool).symm
  obtain ⟨p, v⟩ := e
  cases p
  case sitesEnabled => exact (forSites_enableSite s _).trans (if_pos rfl).symm
  case poolLowThreshold =>
    unfold State.configured
    rw [withParams_eq (c := s.cfg.apply (.poolLowThreshold, v)) rfl]
    rfl
  all_goals exact hquiet _ rfl rfl

/-- Entries that name each parameter once are together one change of the parameters. -/
theorem foldl_applyEntry {es : List (ParamId × Nat)} (hd : (es.map Prod.fst).Nodup) (s : State) :
    es.foldl State.applyEntry s = s.configured (es.foldl Params.apply s.cfg) := by
  induction es generalizing s with
  | nil => exact (configured_self s).symm
  | cons e es ih =>
    obtain ⟨hnew, hd'⟩ := List.nodup_cons.mp hd
    have hsplit : ∀ p : ParamId, (s.cfg.apply e).get p = s.cfg.get p ∨
        (es.foldl Params.apply (s.cfg.apply e)).get p = (s.cfg.apply e).get p := fun p => by
      by_cases hp : p = e.1
      · exact .inr (Params.get_foldl_apply_of_not_mem (by rw [hp]; exact hnew) _)
      · exact .inl (Params.get_put_ne _ _ hp)
    rw [List.foldl_cons, applyEntry_eq, ih hd', configured_cfg, List.foldl_cons]
    exact configured_configured (hsplit .poolLowThreshold)
      ((hsplit .sitesEnabled).imp BitVec.eq_of_toNat_eq BitVec.eq_of_toNat_eq)

/-! ### The effects of a change (R33, R34) -/

/-- POOL_LOW after an evaluation against a new threshold (R34): a threshold of 0 does not hold the condition. -/
def poolLowNewAfter (before : Bool) (threshold free : Nat) : Bool :=
  if before then decide (threshold ≠ 0 ∧ free < min (threshold + 8) 1024) else decide (free < threshold)

theorem evalPoolLowNew_eq (s : State) : s.evalPoolLowNew =
    if poolLowNewAfter s.ks.poolLow s.cfg.poolLowThreshold s.ks.free.length = s.ks.poolLow then s
    else s.reportPoolLow (poolLowNewAfter s.ks.poolLow s.cfg.poolLowThreshold s.ks.free.length) := by
  unfold State.evalPoolLowNew
  by_cases hzero : s.ks.poolLow = true ∧ s.cfg.poolLowThreshold = 0
  · obtain ⟨hlow, hnone⟩ := hzero
    simp [hlow, hnone, poolLowNewAfter]
  · have hafter : poolLowNewAfter s.ks.poolLow s.cfg.poolLowThreshold s.ks.free.length =
        poolLowAfter s.ks.poolLow s.cfg.poolLowThreshold s.ks.free.length := by
      unfold poolLowNewAfter poolLowAfter
      split
      · next hlow => simp [show s.cfg.poolLowThreshold ≠ 0 from fun h => hzero ⟨hlow, h⟩]
      · rfl
    rw [if_neg (by simpa using hzero), hafter, evalPoolLow_eq]
    rfl

/-- POOL_LOW after a change of the parameters. -/
def State.poolLowUnder (s : State) (c : Params) : Bool :=
  if c.poolLowThreshold = s.cfg.poolLowThreshold then s.ks.poolLow
  else poolLowNewAfter s.ks.poolLow c.poolLowThreshold s.ks.free.length

theorem configured_eq (s : State) (c : Params) : s.configured c =
    if s.poolLowUnder c = s.ks.poolLow then s.withParams c else (s.withParams c).reportPoolLow (s.poolLowUnder c) := by
  unfold State.configured State.poolLowUnder
  split
  · rw [if_pos rfl]
  · exact evalPoolLowNew_eq (s.withParams c)

/-- A change of the parameters with a frame placed behind it: the sites, the condition, a change of it reported ahead of the frame,
and nothing else. -/
theorem configured_push {s t : State} {c : Params} {o : OutFrame} (ht : t = (s.configured c).push o) :
    t.cfg = c ∧ t.sites = (s.withParams c).sites ∧ t.ks = { s.ks with poolLow := s.poolLowUnder c } ∧
      t.mon = (if t.ks.poolLow = s.ks.poolLow then s.mon else { s.mon with
        flags := { s.mon.flags with poolLow := true }, pending := s.mon.pending || t.enabledFlag .global }) ∧
      t.link = { s.link with outq := s.link.outq
        ++ (if t.ks.poolLow ≠ s.ks.poolLow ∧ s.mon.pending = false ∧ t.enabledFlag .global = true
            then [t.noticeOf .global] else []) ++ [o] } ∧
      t = { s with cfg := t.cfg, sites := t.sites, ks := t.ks, mon := t.mon, link := t.link } := by
  have heq := configured_eq s c
  generalize s.poolLowUnder c = v at heq ⊢
  by_cases hsame : v = s.ks.poolLow
  · rw [if_pos hsame] at heq
    rw [ht, heq, hsame]
    simp [State.push, State.withParams]
  · rw [if_neg hsame] at heq
    obtain ⟨hmon, hlink, hall⟩ := latchGlobal_eq heq
    have hks : t.ks = { s.ks with poolLow := v } := by rw [ht, push_ks, hall]; rfl
    have hlow : t.ks.poolLow ≠ s.ks.poolLow := by rw [hks]; exact hsame
    have hen : t.enabledFlag .global = (s.configured c).enabledFlag .global := by rw [ht]; rfl
    have hno : t.noticeOf .global = (s.configured c).noticeOf .global := by rw [ht]; rfl
    refine ⟨by rw [ht, push_cfg, configured_cfg], by rw [ht, push_sites, hall]; rfl, hks, ?_, ?_, ?_⟩
    · rw [if_neg hlow, hen, ht, push_mon, hmon]; rfl
    · simp only [ne_eq, hlow, not_false_eq_true, true_and, hen, hno]
      rw [ht, push_link, hlink]
      rfl
    · rw [ht]
      conv_lhs => rw [State.push, hall]
      rw [push_cfg, push_sites, push_ks, push_mon, push_link, hall]
      rfl

/-! ### The request (R170) -/

/-- The payload of a CONFIGURE, by its parameters (R170, R176). -/
def configurePayload (es : List (ParamId × Nat)) : List Byte := es.flatMap fun e => e.1.byte :: bytesLE 4 e.2

theorem configurePayload_raw (es : List (ParamId × Nat)) :
    configurePayload es = (es.map rawEntry).flatMap fun e => e.1 :: bytesLE 4 e.2 := by
  rw [List.flatMap_map]
  rfl

/-- The frame in front is a CONFIGURE whose entries name known parameters once each, SITES_ENABLED with 16 bits (R170). -/
structure State.TakesEntries (s : State) (f : InFrame) (rest : List InFrame) (es : List (ParamId × Nat)) : Prop where
  front : s.Front 0x03 f rest
  nonempty : es ≠ []
  once : (es.map Prod.fst).Nodup
  words : ∀ e ∈ es, e.2 < 2 ^ 32
  fits : ∀ e ∈ es, e.1 = .sitesEnabled → e.2 < 65536
  payload : f.payload = configurePayload es

/-- Its entries are read back. -/
theorem State.TakesEntries.read {s : State} {f : InFrame} {rest : List InFrame} {es : List (ParamId × Nat)}
    (h : s.TakesEntries f rest es) : readEntries (entriesOf f.payload) = some es := by
  have hwords : ∀ e ∈ es.map rawEntry, e.2 < 2 ^ 32 := by
    intro e he
    obtain ⟨e', he', rfl⟩ := List.mem_map.mp he
    exact h.words e' he'
  rw [h.payload, configurePayload_raw, entriesOf_flatMap hwords]
  exact readEntries_eq_some.mpr ⟨rfl, h.once, h.fits⟩

theorem State.TakesEntries.exec_configure {s : State} {f : InFrame} {rest : List InFrame} {es : List (ParamId × Nat)}
    (h : s.TakesEntries f rest es) : exec .configure s = .next ((s.taken rest).doConfigure f) := by
  have hten : es.length ≤ 10 := by simpa using length_le_ten h.once
  have hlen : configureLength f.payload = true := by
    rw [h.payload, configurePayload_raw]
    exact configureLength_entries (by simpa [Nat.succ_le_iff] using List.length_pos_of_ne_nil h.nonempty) (by simpa using hten)
  exact takeRequest_front h.front hlen State.doConfigure

/-- An entry would take out a site with queued jobs (R40). -/
def State.TakesOutBusy (s : State) (es : List (ParamId × Nat)) : Prop :=
  ∃ v, (ParamId.sitesEnabled, v) ∈ es ∧
    ∃ i : SiteNo, s.enabled i = true ∧ (s.site i).queue ≠ [] ∧ v.testBit i.val = false

theorem removesBusySite_iff (s : State) (v : Nat) : s.removesBusySite v = true ↔
    ∃ i : SiteNo, s.enabled i = true ∧ (s.site i).queue ≠ [] ∧ v.testBit i.val = false := by
  simp only [State.removesBusySite, List.any_eq_true, Bool.and_eq_true, Bool.not_eq_true', List.isEmpty_eq_false_iff]
  constructor
  · rintro ⟨i, -, ⟨hon, hout⟩, hq⟩
    exact ⟨i, hon, hq, hout⟩
  · rintro ⟨i, hon, hq, hout⟩
    exact ⟨i, mem_allSites i, ⟨hon, hout⟩, hq⟩

theorem any_removesBusySite_iff (s : State) (es : List (ParamId × Nat)) :
    es.any (fun e => e.1 = .sitesEnabled && s.removesBusySite e.2) = true ↔ s.TakesOutBusy es := by
  simp only [List.any_eq_true, Bool.and_eq_true, decide_eq_true_eq, removesBusySite_iff]
  constructor
  · rintro ⟨⟨p, v⟩, he, rfl, hbusy⟩
    exact ⟨v, he, hbusy⟩
  · rintro ⟨v, he, hbusy⟩
    exact ⟨_, he, rfl, hbusy⟩

/-- A CONFIGURE whose entries are read: its two refusals, and the entries applied ahead of the reply (R40, R170). -/
theorem doConfigure_cases {s : State} {f : InFrame} {es : List (ParamId × Nat)}
    (hread : readEntries (entriesOf f.payload) = some es) :
    (s.td.state ≠ .clear → s.doConfigure f = s.reply f .touchdownOpen (s.cfg.entryFields es)) ∧
    (s.td.state = .clear → s.TakesOutBusy es → s.doConfigure f = s.reply f .siteBusy (s.cfg.entryFields es)) ∧
    (s.td.state = .clear → ¬ s.TakesOutBusy es → s.doConfigure f =
      (es.foldl State.applyEntry s).reply f (if es.any (fun e => e.1.clamp e.2 ≠ e.2) then .clamped else .ok)
        ((es.foldl State.applyEntry s).cfg.entryFields es)) := by
  simp only [State.doConfigure, hread, ← any_removesBusySite_iff]
  refine ⟨fun hopen => if_pos hopen, fun hclear hbusy => ?_, fun hclear hfree => ?_⟩
  · rw [if_neg (not_not.mpr hclear), if_pos hbusy]
  · rw [if_neg (not_not.mpr hclear), if_neg hfree]

/-- Settles O14: the entries are one change of the parameters (`foldl_applyEntry`), with the reply behind it. -/
theorem configureAppliesEveryEntry : Obligations.ConfigureAppliesEveryEntry := by
  unfold Obligations.ConfigureAppliesEveryEntry
  intro s f rest es hfront hsome honce hwords hfits hpay hclear hbusy
  have htakes : s.TakesEntries f rest es := ⟨hfront, hsome, honce, hwords, hfits, hpay⟩
  have hexec := htakes.exec_configure
  have hfree : ¬ (s.taken rest).TakesOutBusy es := by
    rintro ⟨v, he, i, hon, hq, hout⟩
    rw [hbusy v he i hon hq] at hout
    cases hout
  obtain ⟨-, -, happly⟩ := doConfigure_cases (s := s.taken rest) htakes.read
  rw [happly hclear hfree, foldl_applyEntry honce, configured_cfg] at hexec
  have hget : ∀ e ∈ es, (es.foldl Params.apply (s.taken rest).cfg).get e.1 = e.1.clamp e.2 := fun e he =>
    Params.get_foldl_apply honce _ he
  have hother : ∀ p, p ∉ es.map Prod.fst → (es.foldl Params.apply (s.taken rest).cfg).get p = s.cfg.get p := fun p hp =>
    Params.get_foldl_apply_of_not_mem hp s.cfg
  generalize es.foldl Params.apply (s.taken rest).cfg = c at hexec hget hother
  have hclamped : es.any (fun e => e.1.clamp e.2 ≠ e.2) = true ↔ ∃ e ∈ es, c.get e.1 ≠ e.2 := by
    simp only [List.any_eq_true, decide_eq_true_eq]
    exact exists_congr fun e => and_congr_right fun he => by rw [hget e he]
  rw [if_congr hclamped rfl rfl] at hexec
  generalize ht : State.reply _ f _ _ = t at hexec
  obtain ⟨hcfg, hsites, hks, hmon, hlink, hall⟩ := configured_push ht.symm
  have henabled : ∀ i : SiteNo, t.enabled i = c.sitesEnabled.getLsbD i.val := fun i => by rw [State.enabled, hcfg]
  refine ⟨t, hexec, fun p hp => ?_, fun e he => ?_, fun i => ?_, ?_, ?_, hmon, hall⟩
  · rw [hcfg]
    refine hother p fun hmem => ?_
    obtain ⟨e, he, rfl⟩ := List.mem_map.mp hmem
    exact hp e.2 he
  · rw [hcfg]; exact hget e he
  · rw [site_of_sites hsites, withParams_site, henabled]; rfl
  · rw [hks, hcfg]; rfl
  · rw [hlink, hcfg]; rfl

/-! ### The refusals (R22 to R24, R40, R124, R125, R170, R172) -/

theorem byte_injective : Function.Injective ParamId.byte := fun _ _ h =>
  Option.some.inj ((paramOf_eq_some.mpr h).symm.trans (paramOf_eq_some.mpr rfl)).symm

/-- What CONFIGURE refuses with the status alone (R170): an unknown id, an id twice, a SITES_ENABLED value above 16 bits. -/
theorem readEntries_eq_none {es : List (Byte × Nat)}
    (h : (∃ e ∈ es, e.1 = 0 ∨ 0x0A < e.1) ∨ ¬ (es.map Prod.fst).Nodup ∨ (∃ e ∈ es, e.1 = 0x0A ∧ 65535 < e.2)) :
    readEntries es = none := by
  have hknown : ∀ p : ParamId, ¬ (p.byte = 0 ∨ 0x0A < p.byte) := fun p => by cases p <;> decide
  cases hread : readEntries es with
  | none => rfl
  | some ps =>
    obtain ⟨rfl, honce, hfits⟩ := readEntries_eq_some.mp hread
    rcases h with ⟨e, he, hunknown⟩ | htwice | ⟨e, he, hid, hlarge⟩
    · obtain ⟨p, -, rfl⟩ := List.mem_map.mp he
      exact absurd hunknown (hknown p.1)
    · refine absurd ?_ htwice
      have hids := honce.map byte_injective
      rwa [List.map_map] at hids ⊢
    · obtain ⟨p, hp, rfl⟩ := List.mem_map.mp he
      exact absurd (hfits p hp (byte_injective hid)) (by simp only [rawEntry] at hlarge; omega)

/-- A CONFIGURE of 1 to 10 whole entries that name no parameters as they must is refused BAD_FIELD with the status alone. -/
theorem exec_configure_badField {s : State} {f : InFrame} {rest : List InFrame} {es : List (Byte × BitVec 32)}
    (hfront : s.Front 0x03 f rest) (hone : 1 ≤ es.length) (hten : es.length ≤ 10)
    (hpay : f.payload = es.flatMap fun e => entryBytes e.1 e.2)
    (h : (∃ e ∈ es, e.1 = 0 ∨ 0x0A < e.1) ∨ ¬ (es.map Prod.fst).Nodup ∨ (∃ e ∈ es, e.1 = 0x0A ∧ 65535 < e.2.toNat)) :
    exec .configure s = .next (s.answered rest (replyTo f .badField [])) := by
  obtain ⟨raw, hraw⟩ : ∃ raw, raw = es.map fun e => (e.1, e.2.toNat) := ⟨_, rfl⟩
  have hpay' : f.payload = raw.flatMap fun e => e.1 :: bytesLE 4 e.2 := by
    rw [hpay, hraw, List.flatMap_map]
    rfl
  have hwords : ∀ e ∈ raw, e.2 < 2 ^ 32 := by
    rw [hraw]
    intro e he
    obtain ⟨e', -, rfl⟩ := List.mem_map.mp he
    exact e'.2.isLt
  have hids : raw.map Prod.fst = es.map Prod.fst := by
    rw [hraw, List.map_map]
    rfl
  have hnone : readEntries (entriesOf f.payload) = none := by
    rw [hpay', entriesOf_flatMap hwords]
    refine readEntries_eq_none (h.imp ?_ (Or.imp ?_ ?_))
    · rintro ⟨e, he, hunknown⟩
      exact ⟨_, by rw [hraw]; exact List.mem_map_of_mem he, hunknown⟩
    · rw [hids]
      exact id
    · rintro ⟨e, he, hlarge⟩
      exact ⟨_, by rw [hraw]; exact List.mem_map_of_mem he, hlarge⟩
  have hlen : configureLength f.payload = true := by
    rw [hpay']
    exact configureLength_entries (by simpa [hraw] using hone) (by simpa [hraw] using hten)
  refine (takeRequest_front hfront hlen State.doConfigure).trans ?_
  simp only [State.doConfigure, hnone]
  rfl

/-- A LIFTOFF in front is carried out by the mode that its one byte names (R172). -/
theorem liftMode_above {m : Byte} (h : 1 < m.toNat) : liftMode m = none := by
  have hzero : m ≠ 0 := by rintro rfl; exact absurd h (by decide)
  have hone : m ≠ 1 := by rintro rfl; exact absurd h (by decide)
  rw [liftMode, if_neg hzero, if_neg hone]

theorem liftMode_known {m : Byte} (h : m.toNat ≤ 1) : liftMode m = some (decide (m = 1)) := by
  obtain rfl | rfl := liftMode_cases h
  · rfl
  · rfl

/-- The indices of the keys ascend from above a given one (R22). -/
theorem ascending_iff {keys : List Key} {lo : BitVec 32} : ascending lo keys = true ↔
    (∀ k ∈ keys, lo < k.index) ∧ keys.Pairwise (fun a b => a.index < b.index) := by
  refine ⟨fun h => ?_, fun ⟨hlo, hp⟩ => ascending_of_pairwise hp hlo⟩
  induction keys generalizing lo with
  | nil => simp
  | cons k ks ih =>
    simp only [ascending, Bool.and_eq_true, decide_eq_true_eq] at h
    obtain ⟨hfirst, hrest⟩ := h
    obtain ⟨hlo, hp⟩ := ih hrest
    exact ⟨List.forall_mem_cons.mpr ⟨hfirst, fun x hx => BitVec.lt_trans hfirst (hlo x hx)⟩,
      List.pairwise_cons.mpr ⟨hlo, hp⟩⟩

/-- The payload of a LOAD KEYS of 1 to 16 whole keys is read back (R22, R176). -/
theorem loadKeys_read {p : List Byte} {keys : List Key} (hsome : keys ≠ []) (hmost : keys.length ≤ 16)
    (hwhole : ∀ k ∈ keys, k.bytes.length = 32) (hpay : p = BitVec.ofNat 8 keys.length :: keys.flatMap Key.field) :
    loadKeysLength p = true ∧ (byteAt p 0).toNat = keys.length ∧ keysOf keys.length (p.drop 1) = keys := by
  have hpos : 1 ≤ keys.length := List.length_pos_of_ne_nil hsome
  have hcount : (byteAt p 0).toNat = keys.length := by
    rw [hpay]; simp only [byteAt, List.getD_cons_zero, BitVec.toNat_ofNat]; omega
  have hlen : p.length = 1 + 36 * keys.length := by rw [hpay, List.length_cons, length_flatMap_field hwhole]; omega
  exact ⟨by simp [loadKeysLength, hcount, hpos, hmost, hlen], hcount, by rw [hpay]; exact keysOf_flatMap_field hwhole⟩

/-- A LOAD KEYS of 1 to 16 whole keys in front: its two refusals (R22, R23). -/
theorem exec_loadKeys_refused {s : State} {f : InFrame} {rest : List InFrame} {keys : List Key} (hfront : s.Front 0x10 f rest)
    (hsome : keys ≠ []) (hmost : keys.length ≤ 16) (hwhole : ∀ k ∈ keys, k.bytes.length = 32)
    (hpay : f.payload = BitVec.ofNat 8 keys.length :: keys.flatMap Key.field) :
    (ascending s.ks.highWater keys = false →
      exec .loadKeys s = .next (s.answered rest (replyTo f .indexOrder s.keyFields))) ∧
    (ascending s.ks.highWater keys = true → 1024 < s.ks.free.length + s.ks.boundCount + keys.length →
      exec .loadKeys s = .next (s.answered rest (replyTo f .storeFull s.keyFields))) := by
  obtain ⟨hlen, hcount, hkeys⟩ := loadKeys_read hsome hmost hwhole hpay
  have hexec := takeRequest_front hfront hlen State.doLoadKeys
  simp only [State.doLoadKeys, hcount, hkeys] at hexec
  refine ⟨fun hdown => hexec.trans ?_, fun hup hfull => hexec.trans ?_⟩
  · have hdown' : ascending (s.taken rest).ks.highWater keys = false := hdown
    rw [hdown']
    rfl
  · have hup' : ascending (s.taken rest).ks.highWater keys = true := hup
    rw [hup', if_neg (by decide)]
    exact congrArg Host.Outcome.next (if_pos hfull)

/-- Settles O37, request by request: CONFIGURE by `exec_configure_badField` and `doConfigure_cases`, LOAD KEYS by
`exec_loadKeys_refused`, TOUCHDOWN and LIFTOFF by the branch that their touchdown state and mode take. -/
theorem refusedRequestsChangeNothing : Obligations.RefusedRequestsChangeNothing := by
  unfold Obligations.RefusedRequestsChangeNothing
  refine ⟨fun s f rest es hfront hone hten hpay h => exec_configure_badField hfront hone hten hpay h,
    fun s f rest es hfront hsome honce hwords hfits hpay => ?configure, fun s f rest hfront hpay hopen => ?touchdown,
    fun s f rest m hfront hpay => ?liftoff, fun s f rest keys hfront hsome hmost hwhole hpay => ?loadKeys⟩
  case configure =>
    have htakes : s.TakesEntries f rest es := ⟨hfront, hsome, honce, hwords, hfits, hpay⟩
    obtain ⟨hopen, hbusy, -⟩ := doConfigure_cases (s := s.taken rest) htakes.read
    rw [htakes.exec_configure]
    exact ⟨fun h => by rw [hopen h]; rfl, fun hclear h => by rw [hbusy hclear h]; rfl⟩
  case touchdown =>
    refine (takeRequest_front hfront (ok := lengthIs 0) (by rw [hpay]; rfl) State.doTouchdown).trans ?_
    exact congrArg Host.Outcome.next (if_neg hopen)
  case liftoff =>
    have hbyte : byteAt f.payload 0 = m := by rw [hpay]; rfl
    rw [exec_liftoff hfront hpay, State.doLiftoff, hbyte]
    refine ⟨fun habove => by rw [liftMode_above habove]; rfl, fun hmode hclear => ?_⟩
    have hclear' : (s.taken rest).td.state = .clear := hclear
    simp only [liftMode_known hmode, hclear']
    rfl
  case loadKeys =>
    obtain ⟨hdown, hfull⟩ := exec_loadKeys_refused hfront hsome hmost hwhole hpay
    exact ⟨fun h => hdown (Bool.eq_false_iff.mpr (mt ascending_iff.mp h)),
      fun habove hasc h => hfull (ascending_iff.mpr ⟨habove, hasc⟩) h⟩

end Sys2Proof.Machine
end

section
/-!
SUPPORT. Parameter ranges, postures, keys and held frames (State.RangeInv, State.PostureInv, State.KeyInv, State.DieInv): what each
reads, and the shared operations, which keep all four (R18, R20, R23, R40, R75, R170).
-/
namespace Sys2Proof.Machine

/-! ### Parameters and postures (R40, R170) -/

theorem State.RangeInv.congr {s t : State} (h : s.RangeInv) (hcfg : t.cfg = s.cfg) : t.RangeInv := by
  obtain ⟨h1, h2, h3, h4, h5, h6, h7, h8, h9⟩ := h
  constructor <;> rw [hcfg] <;> assumption

theorem State.PostureInv.congr {s t : State} (h : s.PostureInv) (hcfg : t.cfg = s.cfg)
    (hp : ∀ k, (t.site k).posture = (s.site k).posture) : t.PostureInv := fun k => by
  rw [hp, State.enabled, hcfg]
  exact h k

/-- A site's controller replaced by one that is DISABLED as the site is out of SITES_ENABLED. -/
theorem State.PostureInv.setSite {s : State} (h : s.PostureInv) {i : SiteNo} {c : SiteCtl}
    (hc : c.posture = .disabled ↔ s.enabled i = false) : (s.setSite i c).PostureInv := fun k => by
  by_cases hk : k = i
  · subst hk; rw [site_setSite]; exact hc
  · rw [site_setSite_ne _ _ hk]; exact h k

/-- An enabled site's controller replaced by one that is not DISABLED. -/
theorem State.PostureInv.setEnabled {s : State} (h : s.PostureInv) {i : SiteNo} {c : SiteCtl} (hon : s.enabled i = true)
    (hc : c.posture ≠ .disabled) : (s.setSite i c).PostureInv := h.setSite (by simp [hc, hon])

/-- A controller that is not DISABLED replaced by another. -/
theorem State.PostureInv.setActive {s : State} (h : s.PostureInv) {i : SiteNo} {c : SiteCtl}
    (hon : (s.site i).posture ≠ .disabled) (hc : c.posture ≠ .disabled) : (s.setSite i c).PostureInv :=
  h.setEnabled (by simpa using mt (h i).mpr hon) hc

theorem State.PostureInv.liftSite {s : State} (h : s.PostureInv) (i : SiteNo) : (s.liftSite i).PostureInv := by
  have hclear : (if s.enabled i then s.setSite i (s.site i).liftDone else s).PostureInv := by
    split
    · next hon => exact h.setEnabled hon (by simp [SiteCtl.liftDone])
    · exact h
  unfold State.liftSite
  exact hclear.congr rfl fun _ => rfl

theorem State.PostureInv.finishLift {s : State} (h : s.PostureInv) : s.finishLift.PostureInv := by
  have hsites : (forSites State.liftSite (s.setTd { s.td with state := .clear, deferred := none, liftCount := 0 })).PostureInv :=
    forSites_inv State.PostureInv _ (fun _ i h => h.liftSite i) _ (h.congr rfl fun _ => rfl)
  unfold State.finishLift State.completeLift
  split
  · dsimp only
    split
    · exact hsites.congr rfl fun _ => rfl
    · exact hsites
  · exact h

/-! ### Keys (R18, R20, R23) -/

/-- One entry of the bound keys replaced changes their count by that entry alone. -/
theorem boundCount_set (k : KeyStore) (i : SiteNo) (x : Option Key) :
    KeyStore.boundCount { k with bound := k.bound.set i.val x i.isLt } + (k.bound[i].isSome).toNat =
      k.boundCount + x.isSome.toNat := by
  have hone := countP_one allSites_nodup (mem_allSites i) (p := fun j : SiteNo => k.bound[j].isSome)
    (q := fun j : SiteNo => (k.bound.set i.val x i.isLt)[j].isSome) fun j hj => by
      have hv : i.val ≠ j.val := fun e => hj (Fin.ext e.symm)
      simp [hv]
  simpa [KeyStore.boundCount] using hone

/-- What the keys of a later state come to: some of the free ones, in their order, and no more in all. -/
theorem State.KeyInv.shrink {s t : State} (h : s.KeyInv) (hfree : t.ks.free.Sublist s.ks.free)
    (hhigh : t.ks.highWater = s.ks.highWater)
    (hroom : t.ks.free.length + t.ks.boundCount ≤ s.ks.free.length + s.ks.boundCount) : t.KeyInv :=
  ⟨h.ascending.sublist hfree, fun k hk => by rw [hhigh]; exact h.below k (hfree.subset hk), hroom.trans h.room⟩

theorem State.KeyInv.congr {s t : State} (h : s.KeyInv)
    (hks : t.ks.free = s.ks.free ∧ t.ks.bound = s.ks.bound ∧ t.ks.highWater = s.ks.highWater) : t.KeyInv := by
  obtain ⟨hfree, hbound, hhigh⟩ := hks
  refine h.shrink (by rw [hfree]) hhigh ?_
  rw [hfree, KeyStore.boundCount, hbound]
  rfl

/-- A job end erases the site's key (R29, R30). -/
theorem State.KeyInv.endJob {s : State} (h : s.KeyInv) (i : SiteNo) (o : JobOutcome) : (s.endJob i o).KeyInv := by
  cases hj : (s.site i).job with
  | none => unfold State.endJob; rw [hj]; exact h
  | some j =>
    have hks : (s.endJob i o).ks = s.ks.endJob i := endJob_ks s o (by rw [hj]; rfl)
    have hcount : (s.ks.endJob i).boundCount ≤ s.ks.boundCount := by
      have hset := boundCount_set s.ks i none
      simp only [Option.isSome_none, Bool.toNat_false, Nat.add_zero] at hset
      exact le_of_le_of_eq (Nat.le_add_right _ _) hset
    refine h.shrink (by rw [hks]; exact .refl _) (by rw [hks]; rfl) ?_
    rw [hks]
    exact Nat.add_le_add_left hcount _

theorem State.KeyInv.doMove {s : State} (h : s.KeyInv) (i : SiteNo) (m : Move) : (s.doMove i m).KeyInv := by
  unfold State.doMove
  cases m.2 with
  | finish o => exact KeyInv.endJob (s := s.setJob i (some m.1)) (h.congr ⟨rfl, rfl, rfl⟩) i o
  | wait | send | request | bind => exact h.congr ⟨rfl, rfl, rfl⟩

theorem State.KeyInv.abort {s : State} (h : s.KeyInv) (i : SiteNo) (p : PendingEnd) : (s.abort i p).KeyInv := by
  unfold State.abort
  split
  · exact h
  · split
    · exact h
    · exact KeyInv.doMove (h.congr (by simp)) _ _

theorem State.KeyInv.giveKey {s : State} (h : s.KeyInv) (i : SiteNo) (k : Key) : (s.giveKey i k).KeyInv := by
  unfold State.giveKey
  split
  · exact h
  · exact h.doMove _ _

/-- The front key moves to a site's entry (R25, R26): the free queue has one fewer, the bound keys at most one more. -/
theorem State.KeyInv.bindFront {s : State} (h : s.KeyInv) {i : SiteNo} {key : Key} {rest : List Key}
    (hfree : s.ks.free = key :: rest) (wait : List SiteNo) :
    (s.setKs { s.ks.bindFront i key rest with waitList := wait }).KeyInv := by
  refine h.shrink (by rw [hfree]; exact List.sublist_cons_self key rest) rfl ?_
  have hset := boundCount_set s.ks i (some key)
  have hcount : KeyStore.boundCount { s.ks.bindFront i key rest with waitList := wait } ≤ s.ks.boundCount + 1 :=
    le_of_le_of_eq (Nat.le_add_right _ _) hset
  rw [setKs_ks, hfree, List.length_cons]
  change rest.length + _ ≤ _
  omega

theorem State.KeyInv.bindRequest {s : State} (h : s.KeyInv) (i : SiteNo) : (s.bindRequest i).KeyInv := by
  unfold State.bindRequest
  split
  · next key rest hfree =>
    have hbound : (s.setKs (s.ks.bindFront i key rest)).KeyInv := h.bindFront hfree s.ks.waitList
    exact (hbound.giveKey i key).congr (by simp)
  · exact h.congr (by simp)

theorem State.KeyInv.perform {s : State} (h : s.KeyInv) (i : SiteNo) (m : Move) : (s.perform i m).KeyInv := by
  have hjob : (s.setJob i (some m.1)).KeyInv := h.congr ⟨rfl, rfl, rfl⟩
  unfold State.perform
  split
  · unfold State.request
    split
    · exact hjob.abort _ _
    · exact hjob.congr (by simp)
  · exact hjob.bindRequest _
  · exact h.doMove _ _

theorem State.KeyInv.driveCut {s : State} (h : s.KeyInv) (i : SiteNo) (o : JobOutcome) : (s.driveCut i o).KeyInv := by
  unfold State.driveCut
  split
  · exact h
  · exact KeyInv.endJob (h.congr (by simp)) _ _

theorem State.KeyInv.attemptEnded {s : State} (h : s.KeyInv) (i : SiteNo) (x : Exchange) (e : Ending) :
    (s.attemptEnded i x e).KeyInv := by
  unfold State.attemptEnded State.exchangeEnded
  dsimp only
  split
  · exact h.congr (by simp)
  · have hover : ((if x.cmd.isPulse then ((s.deselect i).setExch i none).release i
        else (s.deselect i).setExch i none)).KeyInv := by split <;> exact h.congr (by simp)
    split
    · exact hover.perform _ _
    · exact hover

theorem State.KeyInv.handOut {s : State} (h : s.KeyInv) (l : List SiteNo) : (State.handOut l s).KeyInv := by
  induction l generalizing s with
  | nil => exact h
  | cons i l ih =>
    unfold State.handOut
    split
    · exact h
    · next key rest hfree => exact ih ((h.bindFront hfree _).giveKey i key)

/-- Keys that ascend from above an index do not exceed the last of them, which is at least that index (R24). -/
theorem ascending_le_last {keys : List Key} {lo : BitVec 32} (h : ascending lo keys = true) :
    lo ≤ (keys.getLast?.map Key.index).getD lo ∧ ∀ k ∈ keys, k.index ≤ (keys.getLast?.map Key.index).getD lo := by
  induction keys generalizing lo with
  | nil => exact ⟨BitVec.le_refl lo, by simp⟩
  | cons k ks ih =>
    simp only [ascending, Bool.and_eq_true, decide_eq_true_eq] at h
    obtain ⟨hfirst, hrest⟩ := h
    have hlast : ((k :: ks).getLast?.map Key.index).getD lo = (ks.getLast?.map Key.index).getD k.index := by
      cases hks : ks.getLast? <;> simp [List.getLast?_cons, hks]
    obtain ⟨hk, hks⟩ := ih hrest
    rw [hlast]
    exact ⟨BitVec.le_trans (BitVec.le_of_lt hfirst) hk, List.forall_mem_cons.mpr ⟨hk, hks⟩⟩

theorem length_keysOf (n : Nat) (p : List Byte) : (keysOf n p).length = n := by
  induction n generalizing p with
  | zero => rfl
  | succ n ih => rw [keysOf, List.length_cons, ih]

/-- Keys that ascend from above the high-water index join, where there is room for them (R22 to R24). -/
theorem State.KeyInv.join {s : State} (h : s.KeyInv) {keys : List Key}
    (hup : Sys2Proof.Machine.ascending s.ks.highWater keys = true)
    (hroom : s.ks.free.length + s.ks.boundCount + keys.length ≤ Config.keySlots) :
    (s.setKs { s.ks with
      free := s.ks.free ++ keys, highWater := (keys.getLast?.map Key.index).getD s.ks.highWater }).KeyInv := by
  obtain ⟨habove, hpairs⟩ := ascending_iff.mp hup
  obtain ⟨hrises, hlast⟩ := ascending_le_last hup
  refine ⟨List.pairwise_append.mpr ⟨h.ascending, hpairs, fun a ha b hb => ?_⟩, fun k hk => ?_, ?_⟩
  · exact Nat.lt_of_le_of_lt (h.below a ha) (habove b hb)
  · rcases List.mem_append.mp hk with hk | hk
    · exact BitVec.le_trans (h.below k hk) hrises
    · exact hlast k hk
  · rw [setKs_ks, List.length_append, Nat.add_right_comm]
    exact hroom

/-! ### Held frames (R75) -/

theorem State.DieInv.congr {s t : State} (h : s.DieInv) (hdies : t.dies = s.dies) : t.DieInv := by
  intro i
  have hdie : t.die i = s.die i := by simp [State.die, hdies]
  rw [hdie]
  exact h i

/-- A die replaced by one whose oldest frame is of a known code. -/
theorem State.DieInv.setDie {s : State} (h : s.DieInv) {i : SiteNo} {d : Die} (hd : ∀ x ∈ d.held.head?, x.Known) :
    (s.setDie i d).DieInv := by
  intro k
  by_cases hk : k = i
  · subst hk; rw [die_setDie]; exact hd
  · rw [die_setDie_ne _ _ hk]; exact h k

/-- The end of a selection leaves the frames held as they are but for their answer (R64). -/
theorem deselect_known {d : Die} (h : ∀ x ∈ d.held.head?, x.Known) : ∀ x ∈ d.deselect.held.head?, x.Known := by
  intro x hx
  have hhead : d.deselect.held.head? = d.held.head?.map fun h => { h with live := false } := List.head?_map
  rw [hhead] at hx
  obtain ⟨y, hy, rfl⟩ := Option.mem_map.mp hx
  exact h y hy

theorem State.DieInv.deselect {s : State} (h : s.DieInv) (i : SiteNo) : (s.deselect i).DieInv := h.setDie (deselect_known (h i))

theorem State.DieInv.driveCut {s : State} (h : s.DieInv) (i : SiteNo) (o : JobOutcome) : (s.driveCut i o).DieInv := by
  unfold State.driveCut
  split
  · exact h
  · exact (DieInv.deselect (s := s.setPort i { driven := false, exch := none }) (h.congr rfl) i).congr (by simp)

theorem State.DieInv.attemptEnded {s : State} (h : s.DieInv) (i : SiteNo) (x : Exchange) (e : Ending) :
    (s.attemptEnded i x e).DieInv := by
  simp only [State.attemptEnded]
  split <;> exact (h.deselect i).congr (by simp)

theorem receive_known {d : Die} (h : ∀ x ∈ d.held.head?, x.Known) (bs : List Byte) :
    ∀ x ∈ (d.receive bs).held.head?, x.Known := by
  unfold Die.receive
  split
  · exact answerUnknown_head _ _
  · exact h

/-! ### The four together -/

/-- Whichever of the four the one state meets, the other meets. -/
structure State.Upholds (s t : State) : Prop where
  ranges : s.RangeInv → t.RangeInv
  postures : s.PostureInv → t.PostureInv
  keys : s.KeyInv → t.KeyInv
  frames : s.DieInv → t.DieInv

namespace State.Upholds

theorem refl (s : State) : s.Upholds s := ⟨id, id, id, id⟩

theorem trans {s t u : State} (h : s.Upholds t) (g : t.Upholds u) : s.Upholds u :=
  ⟨g.ranges ∘ h.ranges, g.postures ∘ h.postures, g.keys ∘ h.keys, g.frames ∘ h.frames⟩

/-- What touches no parameter, posture, key or die. -/
theorem quiet {s t : State} (hcfg : t.cfg = s.cfg) (hp : ∀ k, (t.site k).posture = (s.site k).posture)
    (hks : t.ks.free = s.ks.free ∧ t.ks.bound = s.ks.bound ∧ t.ks.highWater = s.ks.highWater) (hdies : t.dies = s.dies) :
    s.Upholds t :=
  ⟨fun h => h.congr hcfg, fun h => h.congr hcfg hp, fun h => h.congr hks, fun h => h.congr hdies⟩

/-- What touches neither a parameter, a site's control, a key nor a die. -/
theorem of_sites {s t : State} (hcfg : t.cfg = s.cfg) (hsites : t.sites = s.sites) (hks : t.ks = s.ks)
    (hdies : t.dies = s.dies) : s.Upholds t :=
  quiet hcfg (fun k => congrArg SiteCtl.posture (site_of_sites hsites k)) (by rw [hks]; exact ⟨rfl, rfl, rfl⟩) hdies

/-- What touches the keys alone, and keeps their rule. -/
theorem of_keys {s t : State} (hcfg : t.cfg = s.cfg) (hp : ∀ k, (t.site k).posture = (s.site k).posture)
    (hkeys : s.KeyInv → t.KeyInv) (hdies : t.dies = s.dies) : s.Upholds t :=
  ⟨fun h => h.congr hcfg, fun h => h.congr hcfg hp, hkeys, fun h => h.congr hdies⟩

/-- What touches the postures alone, and keeps their rule. -/
theorem of_postures {s t : State} (hcfg : t.cfg = s.cfg) (hpostures : s.PostureInv → t.PostureInv) (hks : t.ks = s.ks)
    (hdies : t.dies = s.dies) : s.Upholds t :=
  ⟨fun h => h.congr hcfg, hpostures, fun h => h.congr (by rw [hks]; exact ⟨rfl, rfl, rfl⟩), fun h => h.congr hdies⟩

theorem forSites {f : State → SiteNo → State} (h : ∀ (s : State) (i : SiteNo), s.Upholds (f s i)) (s : State) :
    s.Upholds (Sys2Proof.Machine.forSites f s) := forSites_inv s.Upholds f (fun t i g => g.trans (h t i)) s (refl s)

theorem setDie (s : State) (i : SiteNo) {d : Die} (hd : s.DieInv → ∀ x ∈ d.held.head?, x.Known) :
    s.Upholds (s.setDie i d) :=
  ⟨fun h => h.congr rfl, fun h => h.congr rfl fun _ => rfl, fun h => h.congr ⟨rfl, rfl, rfl⟩, fun h => h.setDie (hd h)⟩

theorem setSite (s : State) {i : SiteNo} {c : SiteCtl} (hp : c.posture = (s.site i).posture) : s.Upholds (s.setSite i c) :=
  quiet rfl (setSite_posture s i c hp) ⟨rfl, rfl, rfl⟩ rfl

theorem abort (s : State) (i : SiteNo) (p : PendingEnd) : s.Upholds (s.abort i p) :=
  of_keys (by simp) (by simp) (fun h => h.abort i p) (by simp)

theorem perform (s : State) (i : SiteNo) (m : Move) : s.Upholds (s.perform i m) :=
  of_keys (by simp) (by simp) (fun h => h.perform i m) (by simp)

theorem driveCut (s : State) (i : SiteNo) (o : JobOutcome) : s.Upholds (s.driveCut i o) :=
  ⟨fun h => h.congr (by simp), fun h => h.congr (by simp) (by simp), fun h => h.driveCut i o, fun h => h.driveCut i o⟩

theorem attemptEnded (s : State) (i : SiteNo) (x : Exchange) (e : Ending) : s.Upholds (s.attemptEnded i x e) :=
  ⟨fun h => h.congr (by simp), fun h => h.congr (by simp) (by simp), fun h => h.attemptEnded i x e,
    fun h => h.attemptEnded i x e⟩

theorem finishLift (s : State) : s.Upholds s.finishLift :=
  of_postures (by simp) (fun h => h.finishLift) (by simp) (by simp)

theorem testAdmission (s : State) (i : SiteNo) : s.Upholds (s.testAdmission i) :=
  quiet (by simp) (by simp) (by simp) (by simp)

theorem changeCond (s : State) (i : SiteNo) (c : SiteCond) (v : Bool) : s.Upholds (s.changeCond i c v) :=
  quiet (by simp) (by simp) (by simp) (by simp)

theorem reply (s : State) (f : InFrame) (st : Status) (fields : List Byte) : s.Upholds (s.reply f st fields) :=
  quiet rfl (fun _ => rfl) ⟨rfl, rfl, rfl⟩ rfl

theorem evalPoolLow (s : State) : s.Upholds s.evalPoolLow := quiet (by simp) (by simp) (by simp) (by simp)

theorem evalLogHigh (s : State) : s.Upholds s.evalLogHigh := quiet (by simp) (by simp) (by simp) (by simp)

theorem noteOpenLeft (s : State) (i : SiteNo) (n : Nat) : s.Upholds (s.noteOpenLeft i n) :=
  quiet (by simp) (by simp) (by simp) (by simp)

end State.Upholds

end Sys2Proof.Machine
end

section
/-!
SUPPORT. Parameter ranges, postures, keys and held frames over the requests and over every command, and the reset state.
-/
namespace Sys2Proof.Machine
open State (Upholds)

/-! ### CONFIGURE (R40, R170) -/

/-- Every parameter is within its range; that SITES_ENABLED is, its 16 bits say. -/
theorem rangeInv_iff (s : State) : s.RangeInv ↔ ∀ p : ParamId, p.range.1 ≤ s.cfg.get p ∧ s.cfg.get p ≤ p.range.2 := by
  constructor
  · rintro ⟨h1, h2, h3, h4, h5, h6, h7, h8, h9⟩ p
    cases p
    case poolLowThreshold => exact ⟨Nat.zero_le _, h9⟩
    case sitesEnabled => exact ⟨Nat.zero_le _, Nat.le_of_lt_succ s.cfg.sitesEnabled.isLt⟩
    all_goals assumption
  · intro h
    obtain ⟨-, hpool⟩ := h .poolLowThreshold
    exact ⟨h .pulseWidth, h .maxRounds, h .rowOpenLimit, h .dieResponseTimeout, h .seatDebounce, h .seatTimeout,
      h .pumpHoldLimit, h .pumpCapacity, hpool⟩

theorem clamp_in_range (p : ParamId) (v : Nat) : p.range.1 ≤ p.clamp v ∧ p.clamp v ≤ p.range.2 := by
  have hrange : p.range.1 ≤ p.range.2 := by cases p <;> decide
  unfold ParamId.clamp
  omega

theorem State.RangeInv.apply {s : State} (h : s.RangeInv) (e : ParamId × Nat) :
    State.RangeInv { s with cfg := s.cfg.apply e } := by
  rw [rangeInv_iff] at h ⊢
  intro p
  by_cases hp : p = e.1
  · rw [hp, Params.get_apply]; exact clamp_in_range _ _
  · rw [Params.apply, Params.get_put_ne _ _ hp]; exact h p

/-- The sites after a change of SITES_ENABLED are DISABLED as it has them (R40). -/
theorem State.PostureInv.withParams {s : State} (h : s.PostureInv) (c : Params) : (s.withParams c).PostureInv := by
  intro i
  have hnow : (s.withParams c).enabled i = c.sitesEnabled.getLsbD i.val := rfl
  have hwas := h i
  rw [withParams_site, hnow]
  generalize c.sitesEnabled.getLsbD i.val = now
  cases hen : s.enabled i <;> cases now <;> simp [SiteCtl.reenabled, hwas, hen]

theorem upholds_applyEntry (s : State) (e : ParamId × Nat) : s.Upholds (s.applyEntry e) := by
  have hparams : s.Upholds (s.withParams (s.cfg.apply e)) :=
    ⟨fun h => (h.apply e).congr rfl, fun h => h.withParams _, fun h => h.congr ⟨rfl, rfl, rfl⟩, fun h => h.congr rfl⟩
  rw [applyEntry_eq]
  unfold State.configured
  split
  · exact hparams
  · exact hparams.trans (.quiet (by simp) (by simp) (by simp) (by simp))

/-! ### Requests -/

section Requests

variable (s : State) (f : InFrame)

theorem upholds_doHeldStatus : s.Upholds (s.doHeldStatus f) := by
  unfold State.doHeldStatus
  split
  · exact .reply s f _ _
  · exact .refl s

theorem upholds_doConfigure : s.Upholds (s.doConfigure f) := by
  unfold State.doConfigure
  split
  · exact .reply s f _ _
  · next es _ =>
    have happly : s.Upholds (es.foldl State.applyEntry s) :=
      foldl_inv (fun t => s.Upholds t) _ (fun t e g => g.trans (upholds_applyEntry t e)) es s (.refl s)
    split
    · exact .reply s f _ _
    · split
      · exact .reply s f _ _
      · exact happly.trans (.reply _ f _ _)

theorem upholds_doSetEnables : s.Upholds (s.doSetEnables f) := by
  have hload : s.Upholds (forSites (State.loadEnables f.payload) s) :=
    .forSites (f := State.loadEnables f.payload) (fun _ _ => .of_sites rfl rfl rfl rfl) s
  have hglobal : ∀ u : State, u.Upholds (u.withEnables (globalEnables f.payload)) := fun _ => .of_sites rfl rfl rfl rfl
  have hthrottle : ∀ u : State, u.Upholds (allScopes.foldl State.throttle u) := fun u =>
    foldl_inv u.Upholds State.throttle
      (fun _ sc g => g.trans (.of_sites (throttle_cfg _ sc) (by simp) (by simp) (by simp))) allScopes u (.refl u)
  exact ((hload.trans (hglobal _)).trans (hthrottle _)).trans (.reply _ f .ok [])

theorem upholds_doReadEvents : s.Upholds (s.doReadEvents f) := by
  unfold State.doReadEvents
  split
  · exact .reply s f _ _
  · next sc _ => cases sc <;> exact .quiet rfl (fun _ => rfl) ⟨rfl, rfl, rfl⟩ rfl

theorem upholds_openTouchdown : s.Upholds s.openTouchdown := by
  have hopen : s.Upholds (s.setTd { s.td with state := .opened, number := nextNumber s.td.number }) :=
    .quiet rfl (fun _ => rfl) ⟨rfl, rfl, rfl⟩ rfl
  have hseat : ∀ (u : State) (i : SiteNo), u.Upholds (u.startSeating i) := fun u i => by
    simp only [State.startSeating]
    split
    · next hon =>
      split <;> exact .of_postures rfl (fun h => h.setEnabled hon (by simp)) rfl rfl
    · exact .refl u
  have hlink : ∀ (u : State) (i : SiteNo), u.Upholds (u.setCond i .link false) := fun u i =>
    .quiet rfl (fun _ => rfl) ⟨rfl, rfl, rfl⟩ rfl
  have hsample : ∀ (u : State) (i : SiteNo), u.Upholds (u.sampleDieSupply i) := fun u i => by
    unfold State.sampleDieSupply
    split
    · exact .changeCond u i _ _
    · exact .refl u
  exact (((hopen.trans (.forSites hseat _)).trans (.forSites hlink _)).trans (.forSites hsample _)).trans
    (.forSites Upholds.testAdmission _)

theorem upholds_doTouchdown : s.Upholds (s.doTouchdown f) := by
  unfold State.doTouchdown
  split
  · exact (upholds_openTouchdown s).trans (.reply _ f _ _)
  · exact .reply s f _ _

theorem upholds_abortAll : s.Upholds s.abortAll := .forSites (fun u i => .abort u i _) s

theorem upholds_doLiftoff : s.Upholds (s.doLiftoff f) := by
  have hbegin : ∀ tag toAbort, s.Upholds (s.beginLift tag toAbort) := fun tag toAbort => by
    have hlift : ∀ td l, s.Upholds ((s.setTd td).setLog l) := fun td l => .quiet rfl (fun _ => rfl) ⟨rfl, rfl, rfl⟩ rfl
    unfold State.beginLift
    split
    · exact (hlift _ _).trans (upholds_abortAll _)
    · exact hlift _ _
  have hmerge : ∀ toAbort, s.Upholds (s.mergeLift toAbort) := fun toAbort => by
    have hupgrade : ∀ td, s.Upholds (s.setTd td) := fun td => .quiet rfl (fun _ => rfl) ⟨rfl, rfl, rfl⟩ rfl
    unfold State.mergeLift
    split
    · exact (hupgrade _).trans (upholds_abortAll _)
    · exact .refl s
  unfold State.doLiftoff
  split
  · exact .reply s f _ _
  · split
    case h_1 => exact .reply s f _ _
    case h_2 => exact (hbegin _ _).trans (.finishLift _)
    all_goals exact ((hmerge _).trans (.reply _ f _ _)).trans (.finishLift _)

theorem upholds_doResetUnit : s.Upholds (s.doResetUnit f) := .quiet rfl (fun _ => rfl) ⟨rfl, rfl, rfl⟩ rfl

/-- Keys that LOAD KEYS accepts join, and the waiting sites are served (R22 to R25). -/
theorem upholds_acceptKeys {keys : List Key} (hup : ascending s.ks.highWater keys = true)
    (hroom : s.ks.free.length + s.ks.boundCount + keys.length ≤ Config.keySlots) : s.Upholds (s.acceptKeys keys) := by
  have hjoin : s.Upholds (s.setKs { s.ks with
      free := s.ks.free ++ keys, highWater := (keys.getLast?.map Key.index).getD s.ks.highWater }) :=
    .of_keys rfl (fun _ => rfl) (fun h => h.join hup hroom) rfl
  have hserve : ∀ (u : State) (l : List SiteNo), u.Upholds (State.handOut l u) := fun u l =>
    .of_keys (by simp) (by simp) (fun h => h.handOut l) (by simp)
  exact (hjoin.trans (hserve _ _)).trans (.evalPoolLow _)

theorem upholds_doLoadKeys : s.Upholds (s.doLoadKeys f) := by
  unfold State.doLoadKeys
  dsimp only
  split
  · exact .reply s f _ _
  · next hup =>
    split
    · exact .reply s f _ _
    · next hfits =>
      have haccept := upholds_acceptKeys s (keys := keysOf (byteAt f.payload 0).toNat (f.payload.drop 1))
        (by simpa using hup) (by rw [length_keysOf]; exact Nat.not_lt.mp hfits)
      exact (haccept.trans (.reply _ f _ _)).trans (.finishLift _)

theorem upholds_doDiscardKeys : s.Upholds (s.doDiscardKeys f) := by
  have hempty : s.Upholds (s.setKs { s.ks with free := [] }) :=
    .of_keys rfl (fun _ => rfl) (fun h => h.shrink (List.nil_sublist _) rfl (by simp [KeyStore.boundCount])) rfl
  exact (hempty.trans (.evalPoolLow _)).trans (.reply _ f _ _)

theorem upholds_doProvision : s.Upholds (s.doProvision f) := by
  have hpost : ∀ i p, s.Upholds (s.postJob i p) := fun i p => by
    have hqueue : s.Upholds (s.setSite i { s.site i with queue := (s.site i).queue ++ [p] }) := .setSite s rfl
    simp only [State.postJob]
    split
    · exact hqueue.trans (.testAdmission _ i)
    · exact hqueue
  simp only [State.doProvision]
  split
  · exact .reply s f _ _
  · split
    · exact .reply s f _ _
    · split
      · exact .reply s f _ _
      · exact (hpost _ _).trans (.reply _ f _ _)

theorem upholds_doCancel : s.Upholds (s.doCancel f) := by
  unfold State.doCancel
  split
  · next i queued takeActive _ _ =>
    have hdrop : s.Upholds (if queued then s.dropQueue i else s) := by
      split
      · have hempty : s.Upholds (s.setSite i { s.site i with queue := [] }) := .setSite s rfl
        exact hempty.trans (.quiet rfl (fun _ => rfl) ⟨rfl, rfl, rfl⟩ rfl)
      · exact .refl s
    refine Upholds.trans (Upholds.trans ?_ (.reply _ f .ok _)) (.finishLift _)
    cases takeActive with
    | true => exact hdrop.trans (.abort _ i _)
    | false => exact hdrop
  · exact .reply s f _ _

theorem upholds_handSlot (i : SiteNo) : s.Upholds (s.handSlot i) := by
  unfold State.handSlot
  split
  · exact .quiet (by simp) (by simp) (by simp) (by simp)
  · exact .refl s

theorem upholds_doClearRecords : s.Upholds (s.doClearRecords f) := by
  have hdrop : ∀ l, s.Upholds (s.setLog l) := fun l => .quiet rfl (fun _ => rfl) ⟨rfl, rfl, rfl⟩ rfl
  simp only [State.doClearRecords]
  split
  · exact (((hdrop _).trans (.forSites upholds_handSlot _)).trans (.evalLogHigh _)).trans (.reply _ f _ _)
  · exact ((hdrop _).trans (.evalLogHigh _)).trans (.reply _ f _ _)

end Requests

/-! ### Unit reset (R174) -/

theorem blocksReset_rangeInv (s : State) (cause : ResetCause) (held : Bool) : (s.blocksReset cause held).RangeInv := by
  constructor <;> simp [State.blocksReset, Params.default]

theorem blocksReset_postureInv (s : State) (cause : ResetCause) (held : Bool) : (s.blocksReset cause held).PostureInv := by
  have hall : ∀ i : SiteNo, Params.default.sitesEnabled.getLsbD i.val = true := by decide
  intro i
  rw [blocksReset_site, show (s.blocksReset cause held).enabled i = true from hall i]
  decide

theorem blocksReset_keyInv (s : State) (cause : ResetCause) (held : Bool) : (s.blocksReset cause held).KeyInv := by
  have hnone : KeyStore.afterReset.boundCount = 0 := by decide
  exact ⟨.nil, by simp [State.blocksReset, KeyStore.afterReset], by
    rw [show (s.blocksReset cause held).ks = KeyStore.afterReset from rfl, hnone]
    exact Nat.zero_le _⟩

theorem upholds_blocksReset (s : State) (cause : ResetCause) (held : Bool) : s.Upholds (s.blocksReset cause held) :=
  ⟨fun _ => blocksReset_rangeInv s cause held, fun _ => blocksReset_postureInv s cause held,
    fun _ => blocksReset_keyInv s cause held, fun h i => by rw [blocksReset_die]; exact deselect_known (h i)⟩

theorem upholds_leaveReset (s : State) : s.Upholds s.leaveReset := .quiet rfl (fun _ => rfl) ⟨rfl, rfl, rfl⟩ rfl

/-! ### Every command -/

/-- An answer whose state meets whichever of the four the state before met. -/
def UpheldBy (s : State) (r : StepResult) : Prop := ∀ t, r = .next t → s.Upholds t

section Commands

variable {s : State}

theorem upheldBy_next {t : State} (h : s.Upholds t) : UpheldBy s (.next t) := by rintro _ ⟨⟩; exact h

theorem upheldBy_fault (f : Fault) : UpheldBy s (.fault f) := by rintro _ ⟨⟩

theorem takeFrame_upholds (is : InFrame → Bool) {act : State → InFrame → State}
    (h : ∀ (u : State) (f : InFrame), u.Upholds (act u f)) :
    UpheldBy s (s.takeFrame is act) := by
  have hdrop : s.Upholds s.dropFront := .quiet rfl (fun _ => rfl) ⟨rfl, rfl, rfl⟩ rfl
  unfold State.takeFrame
  split
  · exact upheldBy_fault _
  · split
    · exact upheldBy_fault _
    · split
      · exact upheldBy_next (hdrop.trans (h _ _))
      · exact upheldBy_fault _

theorem takeRequest_upholds (kind : Byte) (ok : List Byte → Bool) {act : State → InFrame → State}
    (h : ∀ (u : State) (f : InFrame), u.Upholds (act u f)) : UpheldBy s (s.takeRequest kind ok act) := by
  refine takeFrame_upholds _ fun u f => ?_
  split
  · exact h u f
  · exact .reply u f _ _

variable (s)

/-! #### Control link and release -/

theorem controlLinkByteReceived_upholds (b : Byte) (stopHigh : Bool) :
    UpheldBy s (execControlLinkByteReceived b stopHigh s) := by
  unfold execControlLinkByteReceived
  (repeat' split) <;> exact upheldBy_next (.of_sites (by simp) (by simp) (by simp) (by simp))

theorem gapTimerExpiry_upholds : UpheldBy s (execGapTimerExpiry s) := by
  unfold execGapTimerExpiry
  split
  · exact upheldBy_next (.quiet rfl (fun _ => rfl) ⟨rfl, rfl, rfl⟩ rfl)
  · exact upheldBy_fault _

theorem frameLastByteSent_upholds : UpheldBy s (execFrameLastByteSent s) := by
  unfold execFrameLastByteSent
  split
  · exact upheldBy_fault _
  · next o rest _ =>
    have hsent : s.Upholds (s.frameSent o rest) := .quiet rfl (fun _ => rfl) ⟨rfl, rfl, rfl⟩ rfl
    split
    · exact upheldBy_next ((hsent.trans (upholds_blocksReset _ _ _)).trans (upholds_leaveReset _))
    · exact upheldBy_next hsent

theorem resetReleased_upholds : UpheldBy s (execResetReleased s) := by
  unfold execResetReleased
  split
  · exact upheldBy_next (upholds_leaveReset s)
  · exact upheldBy_fault _

/-! #### Site inputs and seat timers (R42 to R44, R148) -/

variable (i : SiteNo)

theorem upholds_setContactPin (v : Bool) : s.Upholds (s.setContactPin i v) := .quiet rfl (fun _ => rfl) ⟨rfl, rfl, rfl⟩ rfl

theorem upholds_setOverLimitPin (v : Bool) : s.Upholds (s.setOverLimitPin i v) :=
  .quiet rfl (fun _ => rfl) ⟨rfl, rfl, rfl⟩ rfl

theorem upholds_setSlotWaiter (v : Bool) : s.Upholds (s.setSlotWaiter i v) := .quiet rfl (fun _ => rfl) ⟨rfl, rfl, rfl⟩ rfl

/-- A site that is not DISABLED takes another such posture. -/
theorem upholds_setActive {s : State} {i : SiteNo} {c : SiteCtl} (hon : (s.site i).posture ≠ .disabled)
    (hc : c.posture ≠ .disabled) : s.Upholds (s.setSite i c) := .of_postures rfl (fun h => h.setActive hon hc) rfl rfl

theorem contactSensed_upholds : UpheldBy s (execContactSensed i s) := by
  have hpin := upholds_setContactPin s i true
  simp only [execContactSensed]
  split
  case h_1 hp => exact upheldBy_next (hpin.trans (upholds_setActive (by rw [hp]; decide) (by simp)))
  all_goals exact upheldBy_next hpin

theorem contactDropped_upholds : UpheldBy s (execContactDropped i s) := by
  have hpin := upholds_setContactPin s i false
  simp only [execContactDropped]
  split
  case h_1 hp => exact upheldBy_next (hpin.trans (upholds_setActive (by rw [hp]; decide) (by simp)))
  case h_2 hp =>
    have hunseated := hpin.trans (upholds_setActive (c := { (s.setContactPin i false).site i with posture := .unseated })
      (by rw [hp]; decide) (by simp))
    exact upheldBy_next ((((hunseated.trans (.changeCond _ i _ _)).trans (upholds_setSlotWaiter _ i _)).trans
      (.driveCut _ i _)).trans (.finishLift _))
  all_goals exact upheldBy_next hpin

/-- A SEATING site becomes SEATED (R42). -/
theorem upholds_seat (hp : (s.site i).posture = .seating) : s.Upholds (s.seat i) := by
  have hseated : s.Upholds (s.setSite i { s.site i with posture := .seated, debounce := none, seatTimeout := none }) :=
    upholds_setActive (by rw [hp]; decide) (by simp)
  unfold State.seat
  refine Upholds.trans ?_ (.testAdmission _ i)
  split
  · exact hseated.trans (.changeCond _ i _ _)
  · exact hseated

theorem debounceExpiry_upholds : UpheldBy s (execDebounceExpiry i s) := by
  unfold execDebounceExpiry
  split
  · exact upheldBy_fault _
  · split
    · next hp => exact upheldBy_next (upholds_seat s i hp)
    · exact upheldBy_next (.setSite s rfl)

theorem seatTimeoutExpiry_upholds : UpheldBy s (execSeatTimeoutExpiry i s) := by
  have hstop : s.Upholds (s.setSite i { s.site i with seatTimeout := none }) := .setSite s rfl
  simp only [execSeatTimeoutExpiry]
  split
  · exact upheldBy_fault _
  · split
    case h_1 | h_2 => exact upheldBy_next (hstop.trans (.changeCond _ i _ _))
    all_goals exact upheldBy_next hstop

theorem dieSupplyAsserted_upholds : UpheldBy s (execDieSupplyAsserted i s) := by
  have hpin := upholds_setOverLimitPin s i true
  simp only [execDieSupplyAsserted]
  split
  · exact upheldBy_next ((((hpin.trans (.changeCond _ i _ _)).trans (upholds_setSlotWaiter _ i _)).trans
      (.driveCut _ i _)).trans (.finishLift _))
  · exact upheldBy_next hpin

theorem dieSupplyDeasserted_upholds : UpheldBy s (execDieSupplyDeasserted i s) := by
  have hpin := upholds_setOverLimitPin s i false
  simp only [execDieSupplyDeasserted]
  split
  · exact upheldBy_next ((hpin.trans (.changeCond _ i _ _)).trans (.testAdmission _ i))
  · exact upheldBy_next hpin

/-! #### The programming supply (R117 to R119) -/

theorem pumpFaultAsserted_upholds : UpheldBy s (execPumpFaultAsserted s) := by
  simp only [execPumpFaultAsserted]
  split <;> exact upheldBy_next (.of_sites (by simp) (by simp) (by simp) (by simp))

theorem pumpFaultDeasserted_upholds : UpheldBy s (execPumpFaultDeasserted s) := by
  have hpin : s.Upholds (s.setPumpPin false) := .quiet rfl (fun _ => rfl) ⟨rfl, rfl, rfl⟩ rfl
  simp only [execPumpFaultDeasserted]
  split
  · exact upheldBy_next hpin
  · exact upheldBy_next (hpin.trans (.quiet (by simp) (by simp) (by simp) (by simp)))

theorem pumpHoldExpiry_upholds : UpheldBy s (execPumpHoldExpiry s) := by
  have habort : ∀ (u : State) (i : SiteNo), u.Upholds (State.abortWaiter s.arb u i) := fun u i => by
    unfold State.abortWaiter
    split
    · exact .abort u i _
    · exact .refl u
  have hempty : ∀ a, s.Upholds (s.setArb a) := fun a => .quiet rfl (fun _ => rfl) ⟨rfl, rfl, rfl⟩ rfl
  unfold execPumpHoldExpiry
  split
  · exact upheldBy_fault _
  · exact upheldBy_next (((hempty _).trans (.forSites habort _)).trans (.finishLift _))

/-! #### Die ports and the Row Engines' timers -/

theorem dieResponseComplete_upholds (ddi : Wire) (openLeft : Nat) :
    UpheldBy s (execDieResponseComplete i ddi openLeft s) := by
  simp only [execDieResponseComplete]
  split
  · exact upheldBy_next (.refl s)
  · split
    · exact upheldBy_next (.refl s)
    · split
      · exact upheldBy_next (.quiet (by simp) (by simp) (by simp) (by simp))
      · exact upheldBy_next (((Upholds.noteOpenLeft s i _).trans (.attemptEnded _ i _ _)).trans (.finishLift _))

theorem dieResponseDeadlineExpiry_upholds (openLeft : Nat) :
    UpheldBy s (execDieResponseDeadlineExpiry i openLeft s) := by
  unfold execDieResponseDeadlineExpiry
  split
  · exact upheldBy_fault _
  · split
    · exact upheldBy_fault _
    · exact upheldBy_next (((Upholds.noteOpenLeft s i _).trans (.attemptEnded _ i _ _)).trans (.finishLift _))

theorem settleTimerExpiry_upholds : UpheldBy s (execSettleTimerExpiry i s) := by
  unfold execSettleTimerExpiry
  split
  · exact upheldBy_fault _
  · split
    · exact upheldBy_fault _
    · exact upheldBy_next ((Upholds.perform s i _).trans (.finishLift _))

theorem openTimerExpiry_upholds : UpheldBy s (execOpenTimerExpiry i s) := by
  have hwithdraw : s.Upholds (s.withdraw i) := .quiet (by simp) (by simp) (by simp) (by simp)
  unfold execOpenTimerExpiry
  split
  · exact upheldBy_fault _
  · split
    · exact upheldBy_fault _
    · split
      · exact upheldBy_next (hwithdraw.trans (.perform _ i _))
      · exact upheldBy_fault _

theorem restTimerExpiry_upholds : UpheldBy s (execRestTimerExpiry i s) := by
  unfold execRestTimerExpiry
  split
  · exact upheldBy_fault _
  · split
    · exact upheldBy_fault _
    · exact upheldBy_next (.perform s i _)

/-! #### The dies (R74, R75) -/

/-- A die that has carried out a command comes to the next frame of a known code. -/
theorem dieCommand_upholds (code : Byte) (act : Die → DieFrame → Die × DieAnswer) :
    UpheldBy s (s.dieCommand i code act) := by
  unfold State.dieCommand
  split
  · next d hd =>
    unfold Die.carryOut at hd
    split at hd
    · cases hd
    · split at hd
      · obtain rfl := Option.some.inj hd
        exact upheldBy_next (.setDie s i fun _ => answerUnknown_head _ _)
      · cases hd
  · exact upheldBy_fault _

theorem commandFrameSent_upholds (ddo : Wire) : UpheldBy s (execCommandFrameSent i ddo s) := by
  simp only [execCommandFrameSent]
  split
  · exact upheldBy_fault _
  · split
    · exact upheldBy_fault _
    · have hexch : ∀ x, s.Upholds (s.setExch i x) := fun x => .quiet (by simp) (by simp) (by simp) (by simp)
      exact upheldBy_next ((hexch _).trans (.setDie _ i fun h => receive_known (h i) _))

/-- Every command. -/
theorem exec_upholds (c : Instr) : UpheldBy s (exec c s) := by
  cases c with
  | controlLinkByteReceived b stopHigh => exact controlLinkByteReceived_upholds s b stopHigh
  | gapTimerExpiry => exact gapTimerExpiry_upholds s
  | frameLastByteSent => exact frameLastByteSent_upholds s
  | heldStatusReply => exact takeFrame_upholds _ upholds_doHeldStatus
  | badRequest => exact takeFrame_upholds _ fun u f => .reply u f .badRequest []
  | identify => exact takeRequest_upholds _ _ fun u f => .reply u f .ok u.identifyFields
  | status => exact takeRequest_upholds _ _ fun u f => .reply u f .ok u.statusFields
  | configure => exact takeRequest_upholds _ _ upholds_doConfigure
  | setEnables => exact takeRequest_upholds _ _ upholds_doSetEnables
  | touchdown => exact takeRequest_upholds _ _ upholds_doTouchdown
  | liftoff => exact takeRequest_upholds _ _ upholds_doLiftoff
  | resetUnit => exact takeRequest_upholds _ _ upholds_doResetUnit
  | loadKeys => exact takeRequest_upholds _ _ upholds_doLoadKeys
  | discardKeys => exact takeRequest_upholds _ _ upholds_doDiscardKeys
  | provision => exact takeRequest_upholds _ _ upholds_doProvision
  | cancel => exact takeRequest_upholds _ _ upholds_doCancel
  | readRecords => exact takeRequest_upholds _ _ fun u f => .reply u f _ _
  | clearRecords => exact takeRequest_upholds _ _ upholds_doClearRecords
  | readEvents => exact takeRequest_upholds _ _ upholds_doReadEvents
  | powerOn | resetLineAsserted => exact upheldBy_next (upholds_blocksReset s _ _)
  | resetReleased => exact resetReleased_upholds s
  | contactSensed i => exact contactSensed_upholds s i
  | contactDropped i => exact contactDropped_upholds s i
  | debounceExpiry i => exact debounceExpiry_upholds s i
  | seatTimeoutExpiry i => exact seatTimeoutExpiry_upholds s i
  | dieSupplyAsserted i => exact dieSupplyAsserted_upholds s i
  | dieSupplyDeasserted i => exact dieSupplyDeasserted_upholds s i
  | pumpFaultAsserted => exact pumpFaultAsserted_upholds s
  | pumpFaultDeasserted => exact pumpFaultDeasserted_upholds s
  | pumpHoldExpiry => exact pumpHoldExpiry_upholds s
  | dieResponseComplete i ddi openLeft => exact dieResponseComplete_upholds s i ddi openLeft
  | dieResponseDeadlineExpiry i openLeft => exact dieResponseDeadlineExpiry_upholds s i openLeft
  | settleTimerExpiry i => exact settleTimerExpiry_upholds s i
  | openTimerExpiry i => exact openTimerExpiry_upholds s i
  | restTimerExpiry i => exact restTimerExpiry_upholds s i
  | diePowerOn i cells => exact upheldBy_next (.setDie s i fun _ _ hx => by cases hx)
  | reset i | closeAll i | enterProvisioning i | sense i | openRow i | pulse i a b | closeRow i | reload i | readShadow i =>
    exact dieCommand_upholds s i _ _
  | commandFrameSent i ddo => exact commandFrameSent_upholds s i ddo

end Commands

/-- A step: none of the four reads the queue of commands. -/
theorem step_upholds {s t : State} (h : step s = .next t) : s.Upholds t := by
  unfold step at h
  split at h
  · obtain rfl := Host.Outcome.next.inj h
    exact .refl s
  · next c rest _ =>
    have hrest : s.Upholds { s with pending := rest } := .quiet rfl (fun _ => rfl) ⟨rfl, rfl, rfl⟩ rfl
    exact hrest.trans (exec_upholds _ c t h)

/-! ### The statements -/

/-- Settles O44: each is one of the four that a step upholds. -/
theorem stepKeepsRangesPosturesKeysAndFrames : Obligations.StepKeepsRangesPosturesKeysAndFrames := by
  unfold Obligations.StepKeepsRangesPosturesKeysAndFrames
  exact ⟨fun s t h hstep => (step_upholds hstep).ranges h, fun s t h hstep => (step_upholds hstep).postures h,
    fun s t h hstep => (step_upholds hstep).keys h, fun s t h hstep => (step_upholds hstep).frames h⟩

/-- A unit reset of the reset state changes nothing. -/
theorem blocksReset_reset : State.reset.blocksReset .powerOn false = State.reset := by
  have hdies : State.reset.dies.map Die.deselect = State.reset.dies := by
    simp only [State.reset, Vector.map_replicate]
    rfl
  exact congrArg (fun d => { State.reset with dies := d }) hdies

/-- Settles O45: the reset state is one after a unit reset, which brings every invariant about; no lift is on, and no die holds a
frame. -/
theorem resetMeetsInvariants : Obligations.ResetMeetsInvariants := by
  unfold Obligations.ResetMeetsInvariants
  have hlift : State.reset.LiftInv := ⟨fun h => (by cases h), rfl⟩
  have hdies : State.reset.DieInv := fun i x hx => by
    have hheld : (State.reset.die i).held = [] := by simp [State.reset, State.die, Die.powerOn]
    rw [hheld] at hx
    cases hx
  rw [← blocksReset_reset] at hlift hdies ⊢
  exact ⟨blocksReset_seqInv _ _ _, blocksReset_logInv _ _ _, blocksReset_linkInv _ _ _, blocksReset_postureInv _ _ _,
    blocksReset_siteInv _ _ _, blocksReset_keyInv _ _ _, blocksReset_rangeInv _ _ _, hlift, hdies⟩

end Sys2Proof.Machine
end

section
/-!
PROOFS. The queue of commands: what a step does, by the two shapes of the queue.
-/
namespace Sys2Proof.Machine

/-- The front command is taken off the queue before it is carried out, so it acts on the state with the rest. -/
theorem step_of_pending_cons {s : State} {c : Instr} {rest : List Instr} (h : s.pending = c :: rest) :
    step s = exec c { s with pending := rest } := by
  simp only [step, h]

/-- The block idles on an empty queue (log entry 14). -/
theorem step_of_pending_nil {s : State} (h : s.pending = []) : step s = .next s := by
  simp only [step, h]

/-- Settles O1: one clause for each shape of the queue. -/
theorem stepTakesFrontCommand : Obligations.StepTakesFrontCommand := by
  unfold Obligations.StepTakesFrontCommand
  exact ⟨fun _ _ _ hcons => step_of_pending_cons hcons, fun _ hnil => step_of_pending_nil hnil⟩

end Sys2Proof.Machine
end
